-- ==== Sys2Proof/Word.lean ====
section
/-! DEFINITION. The word types of the ZM9: what the manual adds, shifts or masks (R3, R58). -/

namespace Sys2Proof

/-- One byte. -/
abbrev Byte := BitVec 8
/-- One 32-bit register lane (R14). -/
abbrev W32 := BitVec 32
/-- A 64-bit value: a PC, an s register, a latch (R14). -/
abbrev W64 := BitVec 64
/-- The canonical instruction word (R58). -/
abbrev Word := BitVec 96
/-- A mask of the 32 lanes of a warp; bit l is lane l. -/
abbrev LMask := BitVec 32
/-- A sparse table of values under natural-number keys: keys strictly rising, no entry equal to
the table's default. -/
abbrev Cells (α : Type) := List (Nat × α)

end Sys2Proof
end

