-- ==== Sys2Proof/Syntax.lean ====
section
/-! DEFINITION. The whole syntax: one constructor of `Instr` per row of the opcode table. An instruction row
carries the fields of its canonical word (R58 to R92); an event row carries the operands that say
which agent's event it is and what the outside world answered. -/

namespace Sys2Proof

/-- TYPE codes 0 to 18 (R70). -/
inductive Ty
  | s8 | s16 | s32 | s64 | n8 | n16 | n32 | n64 | b8 | b16 | b32 | b64
  | f16 | bf16 | f32 | e4m3 | e5m2 | e2m1 | d8
  deriving DecidableEq, Repr, Inhabited

/-- Rounding qualifiers of MOD (R71). -/
inductive Rnd
  | fpctl | rn | rz | rd | ru
  deriving DecidableEq, Repr, Inhabited

/-- Domains (R77). -/
inductive Dom
  | sc | tso | rc | causal | bulk
  deriving DecidableEq, Repr, Inhabited

/-- Scopes (R77). -/
inductive Scope
  | warp | team | block | cluster | die | device | system
  deriving DecidableEq, Repr, Inhabited

/-- Cache policies (R77). -/
inductive Pol
  | dflt | evictFirst | evictLast | noAllocate
  deriving DecidableEq, Repr, Inhabited

/-- Orders (R77). -/
inductive Ord
  | plain | acquire | release | acqRel
  deriving DecidableEq, Repr, Inhabited

/-- Access sizes of the load and store family (R89). -/
inductive Size
  | b8 | b16 | b32 | b64 | b128
  deriving DecidableEq, Repr, Inhabited

/-- Source permutations (R67). -/
inductive Perm
  | none
  | rot (n : BitVec 5)
  | bc (n : BitVec 5)
  | bf (n : BitVec 5)
  | mir
  | shu (n : BitVec 5)
  | shd (n : BitVec 5)
  deriving DecidableEq, Repr, Inhabited

/-- A source operand (R65, R66). `last` is the L bit of a v source. -/
inductive Src
  | v (r : BitVec 8) (last : Bool) (p : Perm)
  | x (r : BitVec 2)
  | s (r : BitVec 6)
  | k (idx : BitVec 8)
  deriving DecidableEq, Repr, Inhabited

/-- A predicate source (R137). -/
structure PSrc where
  q : BitVec 8
  neg : Bool
  deriving DecidableEq, Repr, Inhabited

/-- The head fields every word carries: run end and guard (R58, R60). -/
structure Hd where
  e : Bool
  g : BitVec 6
  gn : Bool
  deriving DecidableEq, Repr, Inhabited

/-- A v or predicate destination with its write-back and latch fields (R58, R61). -/
structure Dv where
  r : BitVec 8
  d : Bool
  lt : BitVec 2
  deriving DecidableEq, Repr, Inhabited

/-- A destination whose UD bit may select a uniform register (R61, R128). -/
structure Du where
  ud : Bool
  r : BitVec 8
  d : Bool
  lt : BitVec 2
  deriving DecidableEq, Repr, Inhabited

/-- The part of an exact product that ZMUL and ZMAC keep (R130). -/
inductive Part
  | lw | hw | dw
  deriving DecidableEq, Repr, Inhabited

/-- Integer comparisons (R138). -/
inductive Cmp
  | eq | ne | lt | le | gt | ge
  deriving DecidableEq, Repr, Inhabited

/-- Floating-point comparisons (R162). -/
inductive FCmp
  | eq | ne | lt | le | gt | ge | num | nan
  deriving DecidableEq, Repr, Inhabited

/-- Votes (R141). -/
inductive PollOp
  | every | some | same | mask
  deriving DecidableEq, Repr, Inhabited

/-- Lane exchange modes (R141). -/
inductive XchMode
  | from | back | fwd | flip
  deriving DecidableEq, Repr, Inhabited

/-- Lane reductions (R141). -/
inductive RedOp
  | add | min | max | and | or | xor
  deriving DecidableEq, Repr, Inhabited

/-- PCVT element counts (R73). -/
inductive PCount
  | two | four | eight
  deriving DecidableEq, Repr, Inhabited

/-- Domain, scope, order and policy of a memory instruction (R76, R77). -/
structure MemQ where
  dom : Dom
  scope : Scope
  ord : Ord
  pol : Pol
  deriving DecidableEq, Repr, Inhabited

/-- Bead qualifiers of a scratchpad load (R199). -/
inductive BeadL
  | none | full | take
  deriving DecidableEq, Repr, Inhabited

/-- Atomic operations (R90). -/
inductive AOp
  | add | minS | maxS | minN | maxN | and | or | xor | exch | cas | fadd
  deriving DecidableEq, Repr, Inhabited

/-- Address modes of ATOM and RED (R202). -/
inductive AMode
  | record | generic | scratch | cluster
  deriving DecidableEq, Repr, Inhabited

/-- Usxon's or the host's answer to a fault: the pages are mapped by writing these page-table words
(address, 64-bit entry), or the fault is declined (R267, R445, R480). -/
inductive FixAnswer
  | decline
  | fix (ptes : List (Nat × W64))
  deriving DecidableEq, Repr, Inhabited

/-- An ATS translation reply for one 4 KiB host page (R453). -/
inductive AtsReply
  | denied
  | grant (frame : Nat) (r w : Bool)
  deriving DecidableEq, Repr, Inhabited

/-- What a host or peer agent does to one line or granule of memory. -/
inductive OutsideAccess
  | read
  | write (bytes : List Byte)
  deriving DecidableEq, Repr, Inhabited

/-- A CXL.mem access of the host, over an IDE stream or none (R496, R502). -/
structure CxlAccess where
  stream : Option Nat
  acc : OutsideAccess
  deriving DecidableEq, Repr, Inhabited

/-- What the host writes in the register spaces of an interface, but for SQTAIL, CQHEAD, the mailbox and EN := 1 (R490): a field of
a queue block; the enable of vector n in the MSI-X table of BAR2, and an offset of BAR0 that holds nothing (R487). -/
inductive QField
  | sqBase | cqBase | pasid | sqLog | cqLog | disable
  | vector (n : Nat)
  | other (off : Nat)
  deriving DecidableEq, Repr, Inhabited

/-- TDISP requests that move an interface's state (R502). -/
inductive TdispReq
  | lock | start (stream : Nat) | stop
  deriving DecidableEq, Repr, Inhabited

/-- The rows of spec/opcode_table.json. -/
inductive Instr
  -- class 0b000 (R85, R130 to R140)
  | zadd (h : Hd) (d : Du) (ty : Ty) (sat : Bool) (a b : Src)
  | zaddImm (h : Hd) (d : Du) (ty : Ty) (sat : Bool) (a : Src) (imm : W32)
  | zsub (h : Hd) (d : Du) (ty : Ty) (sat : Bool) (a b : Src)
  | zmul (h : Hd) (d : Du) (ty : Ty) (part : Part) (a b : Src)
  | zmulImm (h : Hd) (d : Du) (ty : Ty) (part : Part) (a : Src) (imm : W32)
  | zmac (h : Hd) (d : Du) (ty : Ty) (part : Part) (a b c : Src)
  | zmin (h : Hd) (d : Du) (ty : Ty) (a b : Src)
  | zminImm (h : Hd) (d : Du) (ty : Ty) (a : Src) (imm : W32)
  | zmax (h : Hd) (d : Du) (ty : Ty) (a b : Src)
  | zmaxImm (h : Hd) (d : Du) (ty : Ty) (a : Src) (imm : W32)
  | aadd (h : Hd) (d : Du) (ty : Ty) (sh : BitVec 3) (a b : Src)
  | aaddImm (h : Hd) (d : Du) (ty : Ty) (sh : BitVec 3) (a : Src) (imm : W32)
  | ltab (h : Hd) (d : Du) (tab : BitVec 8) (a b c : Src)
  | shl (h : Hd) (d : Du) (ty : Ty) (wrap : Bool) (a b : Src)
  | shlImm (h : Hd) (d : Du) (ty : Ty) (wrap : Bool) (a : Src) (imm : W32)
  | shr (h : Hd) (d : Du) (ty : Ty) (wrap : Bool) (a b : Src)
  | shrImm (h : Hd) (d : Du) (ty : Ty) (wrap : Bool) (a : Src) (imm : W32)
  | shf (h : Hd) (d : Du) (right wrap : Bool) (a b c : Src)
  | bfe (h : Hd) (d : Du) (ty : Ty) (a b : Src)
  | bfeImm (h : Hd) (d : Du) (ty : Ty) (a : Src) (imm : W32)
  | bfi (h : Hd) (d : Du) (a b c : Src)
  | popc (h : Hd) (d : Du) (ty : Ty) (a : Src)
  | clz (h : Hd) (d : Du) (ty : Ty) (a : Src)
  | ctz (h : Hd) (d : Du) (ty : Ty) (a : Src)
  | brev (h : Hd) (d : Du) (ty : Ty) (a : Src)
  | bysel (h : Hd) (d : Du) (a b c : Src)
  | byselImm (h : Hd) (d : Du) (a : Src) (imm : W32)
  | zcmp (h : Hd) (d : Dv) (ty : Ty) (cmp : Cmp) (a b : Src)
  | zcmpImm (h : Hd) (d : Dv) (ty : Ty) (cmp : Cmp) (a : Src) (imm : W32)
  | sel (h : Hd) (d : Du) (ty : Ty) (a b : Src) (p : PSrc)
  | mov (h : Hd) (d : Du) (ty : Ty) (a : Src)
  | movImm (h : Hd) (d : Du) (ty : Ty) (imm : W32)
  -- class 0b001 (R86, R141 to R155)
  | qtab (h : Hd) (d : Dv) (tab : BitVec 8) (pa pb pc : PSrc)
  | qget (h : Hd) (d : Du) (hi : Bool)
  | qset (h : Hd) (hi : Bool) (a b : Src)
  | poll (h : Hd) (d : Du) (op : PollOp) (p : PSrc)
  | peers (h : Hd) (d : Dv) (ty : Ty) (unif : Bool) (a : Src)
  | lxch (h : Hd) (d : Dv) (ty : Ty) (mode : XchMode) (a b : Src)
  | lred (h : Hd) (d : Du) (ty : Ty) (op : RedOp) (a : Src)
  | lead (h : Hd) (d : Dv)
  | bra (h : Hd) (off : W32)
  | brx (h : Hd) (off : W32) (a : Src)
  | call (h : Hd) (d : Dv) (off : W32)
  | callInd (h : Hd) (d : Dv) (off : W32) (a : Src)
  | ret (h : Hd) (a : Src)
  | joinArm (h : Hd) (j : BitVec 4)
  | joinWait (h : Hd) (j : BitVec 4)
  | joinBreak (h : Hd) (j : BitVec 4)
  | exit (h : Hd)
  | nop (h : Hd)
  | yield (h : Hd)
  | vpoint (h : Hd) (n : BitVec 6)
  -- class 0b010 (R87, R157 to R168)
  | fadd (h : Hd) (d : Du) (ty : Ty) (rnd : Rnd) (a b : Src)
  | faddImm (h : Hd) (d : Du) (ty : Ty) (rnd : Rnd) (a : Src) (imm : W32)
  | fsub (h : Hd) (d : Du) (ty : Ty) (rnd : Rnd) (a b : Src)
  | fmul (h : Hd) (d : Du) (ty : Ty) (rnd : Rnd) (a b : Src)
  | fmulImm (h : Hd) (d : Du) (ty : Ty) (rnd : Rnd) (a : Src) (imm : W32)
  | fmac (h : Hd) (d : Du) (ty : Ty) (rnd : Rnd) (a b c : Src)
  | fmin (h : Hd) (d : Du) (ty : Ty) (a b : Src)
  | fminImm (h : Hd) (d : Du) (ty : Ty) (a : Src) (imm : W32)
  | fmax (h : Hd) (d : Du) (ty : Ty) (a b : Src)
  | fmaxImm (h : Hd) (d : Du) (ty : Ty) (a : Src) (imm : W32)
  | fabs (h : Hd) (d : Du) (ty : Ty) (a : Src)
  | fneg (h : Hd) (d : Du) (ty : Ty) (a : Src)
  | fdiv (h : Hd) (d : Du) (ty : Ty) (rnd : Rnd) (a b : Src)
  | fcmp (h : Hd) (d : Dv) (ty : Ty) (cmp : FCmp) (a b : Src)
  | fclass (h : Hd) (d : Du) (ty : Ty) (a : Src)
  | fsqrt (h : Hd) (d : Du) (ty : Ty) (rnd : Rnd) (a : Src)
  | frcp (h : Hd) (d : Du) (a : Src)
  | frsq (h : Hd) (d : Du) (a : Src)
  | fexp2 (h : Hd) (d : Du) (a : Src)
  | flog2 (h : Hd) (d : Du) (a : Src)
  | fsin (h : Hd) (d : Du) (a : Src)
  | fcos (h : Hd) (d : Du) (a : Src)
  | ftanh (h : Hd) (d : Du) (a : Src)
  | f2add (h : Hd) (d : Du) (ty : Ty) (rnd : Rnd) (a b : Src)
  | f2mul (h : Hd) (d : Du) (ty : Ty) (rnd : Rnd) (a b : Src)
  | f2mac (h : Hd) (d : Du) (ty : Ty) (rnd : Rnd) (a b c : Src)
  | f2min (h : Hd) (d : Du) (ty : Ty) (a b : Src)
  | f2max (h : Hd) (d : Du) (ty : Ty) (a b : Src)
  -- class 0b011 (R88, R169 to R179)
  | cvt (h : Hd) (d : Du) (td ts : Ty) (rnd : Rnd) (satf : Bool) (a : Src)
  | pcvt (h : Hd) (d : Dv) (td ts : Ty) (cnt : PCount) (rnd : Rnd) (satf : Bool) (a sc : Src)
  | fmtw (h : Hd) (d : Du) (a : Src)
  | fmtwImm (h : Hd) (d : Du) (imm : W32)
  | pack (h : Hd) (d : Du) (ty : Ty) (a b : Src)
  | unpk (h : Hd) (d : Dv) (ty : Ty) (sx : Bool) (a : Src)
  | frnd (h : Hd) (d : Du) (ty : Ty) (rnd : Rnd) (a : Src)
  | fldex (h : Hd) (d : Du) (ty : Ty) (rnd : Rnd) (a b : Src)
  -- class 0b100 (R89, R181 to R215)
  | ld (h : Hd) (r : BitVec 8) (sz : Size) (q : MemQ) (b : BitVec 4) (off : Src) (imm : BitVec 12)
  | st (h : Hd) (sz : Size) (q : MemQ) (b : BitVec 4) (off dat : Src) (imm : BitVec 12)
  | ldx (h : Hd) (r : BitVec 8) (sz : Size) (q : MemQ) (addr : Src) (imm : BitVec 12)
  | stx (h : Hd) (sz : Size) (q : MemQ) (addr dat : Src) (imm : BitVec 12)
  | lds (h : Hd) (r : BitVec 8) (sz : Size) (q : MemQ) (bead : BeadL) (off : Src) (imm : BitVec 12)
  | sts (h : Hd) (sz : Size) (q : MemQ) (fill : Bool) (off dat : Src) (imm : BitVec 12)
  | ldcl (h : Hd) (r : BitVec 8) (sz : Size) (q : MemQ) (cw : Src) (imm : BitVec 12)
  | stcl (h : Hd) (sz : Size) (q : MemQ) (cw dat : Src) (imm : BitVec 12)
  | bset (h : Hd) (off : Src) (imm : BitVec 12)
  | bclr (h : Hd) (off : Src) (imm : BitVec 12)
  | btest (h : Hd) (d : Dv) (off : Src) (imm : BitVec 12)
  | pref (h : Hd) (mlc : Bool) (pol : Pol) (b : BitVec 4) (bar : Option Src)
  | prefDemote (h : Hd) (b : BitVec 4)
  | bridge (h : Hd) (d1 d2 : Dom) (scope : Scope)
  | fence (h : Hd) (dom : Dom) (scope : Scope) (ord : Ord)
  | monitor (h : Hd) (dom : Dom) (scope : Scope) (addr : Src) (imm : BitVec 12)
  | mwait (h : Hd) (d : Dv) (limit : Src)
  | acvtTogen (h : Hd) (d : Dv) (space : BitVec 2) (off : Src)
  | acvtFromgen (h : Hd) (d : Dv) (space : BitVec 2) (addr : Src)
  | atest (h : Hd) (d : Dv) (space : BitVec 3) (addr : Src)
  | ldrec (h : Hd) (q : MemQ) (b : BitVec 4) (addr : Src) (imm : BitVec 12)
  -- class 0b101 (R90, R202 to R204, R241 to R246)
  | atom (h : Hd) (r : BitVec 8) (op : AOp) (wide : Bool) (q : MemQ) (am : AMode) (b : BitVec 4)
      (addr dat : Src) (imm : BitVec 12)
  | red (h : Hd) (op : AOp) (wide : Bool) (q : MemQ) (am : AMode) (b : BitVec 4)
      (addr dat : Src) (imm : BitVec 12)
  | rally (h : Hd) (id : BitVec 4) (count : BitVec 6)
  | rallyGo (h : Hd) (id : BitVec 4) (count : BitVec 6)
  | crally (h : Hd)
  | crallyGo (h : Hd)
  | crallyHold (h : Hd)
  | barinit (h : Hd) (off count : Src) (imm : BitVec 12)
  | arrive (h : Hd) (d : Dv) (off n : Src) (imm : BitVec 12)
  | trywait (h : Hd) (d : Dv) (off tok : Src) (imm : BitVec 12)
  | wait (h : Hd) (off tok : Src) (imm : BitVec 12)
  -- class 0b110 (R91, R217 to R256)
  | mxacq (h : Hd)
  | mxrel (h : Hd)
  | mma (h : Hd) (acc cv : BitVec 3) (fmt ads : Src) (dh : BitVec 4) (rows : BitVec 7) (ovw : Bool)
  | mxrun (h : Hd) (acc cv : BitVec 3) (fmt ads : Src) (dh : BitVec 4) (rows : BitVec 7) (ovw : Bool)
  | mxwait (h : Hd) (d : Dv) (cv : BitVec 3)
  | dkld (h : Hd) (fmt addr : Src) (dh : BitVec 4) (slot : BitVec 7) (isRef : Bool)
  | dkfree (h : Hd) (dh : BitVec 4)
  | accz (h : Hd) (acc : BitVec 3)
  | accrd (h : Hd) (acc cv : BitVec 3) (row off : Src) (rows : BitVec 7)
  | accwr (h : Hd) (acc cv : BitVec 3) (row off : Src) (rows : BitVec 7)
  | acccvt (h : Hd) (acc cv : BitVec 3) (cw off : Src) (rows : BitVec 7)
  | accstat (h : Hd) (d : Dv) (acc : BitVec 3) (clr : Bool)
  | opfence (h : Hd)
  | xpost (h : Hd) (d : Dv) (off : Src) (count : BitVec 4)
  | xcancel (h : Hd) (d : Dv) (id : Src)
  | xquery (h : Hd) (d : Dv) (id : Src)
  -- class 0b111 (R92, R258 to R277)
  | trap (h : Hd) (code : BitVec 16)
  | svcInfo (h : Hd) (d : Dv) (a b : Src)
  | svcReside (h : Hd) (d : Dv) (a b : Src)
  | svcNotify (h : Hd) (d : Dv) (a b : Src)
  | svcBias (h : Hd) (d : Dv) (a b : Src)
  /-- SVC with a service number from 4 to 255, which Usxon does not define (R271, R506). -/
  | svcUndefined (h : Hd) (d : Dv) (n : BitVec 8) (a b : Src)
  | resume (h : Hd)
  | resumeNext (h : Hd)
  | frec (h : Hd) (d : Dv) (field : BitVec 8) (rec : BitVec 4)
  | ffixMap (h : Hd) (d : Dv) (rec : BitVec 2)
  | ffixEmul (h : Hd) (d : Dv) (rec : BitVec 2) (dat : Src)
  | ffixSkip (h : Hd) (rec : BitVec 2)
  | bpt (h : Hd) (id : BitVec 16)
  | srd (h : Hd) (d : Dv) (idx : BitVec 8)
  | swr (h : Hd) (idx : BitVec 8) (a : Src)
  | acct (h : Hd) (d : Dv) (cause : BitVec 8) (quad saved : Bool)
  | acctSnap (h : Hd)
  | cnt (h : Hd) (d : Dv) (n : BitVec 6) (shadow : Bool)
  | mark (h : Hd) (code : BitVec 16) (a : Src)
  -- events of the issue stage (R55, R317, R329 to R333)
  | runFetch (warp grp : Nat)
  | quadrantArbitration (core quad : Nat)
  | longLatencyResult (warp id : Nat)
  | swapOut (core quad : Nat)
  | swapIn (core quad : Nat)
  | swapMoveComplete (warp : Nat)
  -- events of the memory side (R196, R365, R391 to R395, R442 to R455)
  | loadDataArrival (warp txn acc : Nat)
  | storeAcknowledge (warp txn acc : Nat)
  | storeDrain (warp txn acc : Nat)
  | causalUpdate (die : Nat)
  | publishDemand (warp txn : Nat)
  | memorySideFaultReport (warp txn : Nat)
  | memPark (warp : Nat)
  | autoResolution (warp rec : Nat) (ans : FixAnswer)
  | trapVector (warp : Nat)
  | usxonMappingAnswer (warp grp : Nat) (ans : FixAnswer)
  | hostFaultAnswer (warp rec : Nat) (ans : FixAnswer)
  | mtuWalk (warp txn acc : Nat)
  | atsReply (die ctx page : Nat) (ans : AtsReply)
  | priResponse (ctx page : Nat) (success : Bool)
  | invalidation (ctx lo hi : Nat)
  | invalidationAck (die idx : Nat)
  | domainFloorChange (ctx ia : Nat) (floor : Dom)
  | pageMigration (ctx ia dst : Nat) (ok : Bool)
  | beadWaitEnd (warp grp : Nat)
  | monitorCompare (warp : Nat)
  | monitorPoll (warp : Nat)
  | mwaitDeadline (warp grp : Nat)
  | prefetchProgress (core idx bytes : Nat)
  -- events of the engines (R218 to R256, R416 to R429)
  | engineGrant (core : Nat)
  | mmaExecute (core : Nat)
  | mxrunStep (core : Nat)
  | acczExecute (core : Nat)
  | accrdExecute (core : Nat)
  | accwrExecute (core : Nat)
  | acccvtExecute (core : Nat)
  | eccReplay (core : Nat)
  | deckFillComplete (core idx : Nat)
  | requestHandoff (core : Nat)
  | copyGranule (engine : Nat)
  | routeEntry (engine : Nat)
  | routeClaimReturn (engine idx : Nat)
  -- events of launches and dispatch (R285 to R309, R463 to R473)
  | submissionEntryTake (iface q : Nat)
  | dependencesSatisfied (launch : Nat)
  | blockDispatch (core launch : Nat)
  | clusterReservation (launch die : Nat)
  | reservationBackoffExpiry (launch die : Nat)
  | vpointJoinsDone (block : Nat)
  | variantMove (block : Nat)
  | variantMoveComplete (block : Nat)
  | blockEnd (block : Nat)
  | blockKill (block : Nat)
  | launchComplete (launch : Nat)
  | sliceExpiry (iface q : Nat)
  | preemptStopRequest (core : Nat)
  | preemptSaveComplete (core : Nat)
  | restore (save core : Nat)
  | debugHalt (warp : Nat) (lanes : LMask)
  | debugRelease (warp : Nat) (lanes : LMask)
  -- events of errors, accounts and service calls
  | poisonDetect (addr : Nat)
  | liveStateError (block : Nat)
  | correctedEccEvent (site : Nat)
  | controlParityError (core : Option Nat)
  | hbmScrub
  | mlcScrub
  | globalTrigger (t : Nat)
  | seriesTick (ctx : Nat)
  | svcReply (warp grp : Nat) (resident : Nat)
  -- events of the host links (R485 to R505)
  | sqDoorbell (iface q : Nat) (tail : W32)
  | cqheadWrite (iface q : Nat) (head : W32)
  | queueEnable (iface q : Nat)
  | queueRegisterWrite (iface q : Nat) (field : QField) (value : W64)
  | ctxCreate (iface : Nat) (root devBase devLen hostBase : Nat)
  | ctxDestroy (iface : Nat)
  | windowSet (iface : Nat)
  | queueBind (iface : Nat)
  | biasSet (iface : Nat)
  | debugAttach (iface : Nat)
  | traceSet (iface : Nat)
  | acctRead (iface : Nat)
  | vfBudget (iface : Nat)
  | vfQueue (iface : Nat)
  | saveRead (iface : Nat)
  | acctAny (iface : Nat)
  | mailboxCommandComplete (iface : Nat)
  | mailboxGo (iface : Nat) (cmd : BitVec 16) (a0 a1 a2 : W64)
  | functionLevelReset (iface : Nat)
  | tdiConfigWrite (iface : Nat)
  | tdispRequest (iface : Nat) (req : TdispReq)
  | spdmRequest (index : Nat)
  | configurationRequest (iface : Nat)
  | hostCxlMemAccess (pa : Nat) (acc : CxlAccess)
  | hostSnoop (addr : Nat) (acc : OutsideAccess)
  -- events of the fabric (R519 to R528)
  | fabricRequest (peer pa : Nat) (acc : OutsideAccess)
  | peerLineMiss (fa : Nat) (modified : Bool) (bytes : List Byte) (granted : Bool)
  | directoryInvalidation (line : Nat)
  | peerWriteback (fa : Nat)
  | fabricPlaneFailure (plane : Nat)
  | planeDrainTimeout
  -- events of power and bring-up (R307, R529 to R533)
  | powerPointChange (die : Nat) (point : Nat)
  | thermalLimit (die : Nat)
  | thermalShutdown
  | corePowerGate (core : Nat)
  | powerRemoval
  | perstDeassert
  | interfaceBudgetWindow (iface : Nat) (bytes power : Nat)
  deriving DecidableEq, Repr, Inhabited

end Sys2Proof
end

