-- ==== Sys2Proof/Machine/Bits.lean ====
section
/-! DEFINITION. Bit fields, extensions and codes that every other file uses. -/

namespace Sys2Proof.Machine

/-- Bits [hi:lo] of a natural number. -/
def nbits (x hi lo : Nat) : Nat := x / 2 ^ lo % 2 ^ (hi + 1 - lo)

/-- The w-bit two's complement value of x. -/
def sextN (x w : Nat) : Int :=
  let y := x % 2 ^ w
  if 2 * y < 2 ^ w then (y : Int) else (y : Int) - (2 ^ w : Nat)

/-- The low w bits of an integer. -/
def wrapI (x : Int) (w : Nat) : Nat := (x % ((2 ^ w : Nat) : Int)).toNat

/-- x limited to the range lo to hi. -/
def clampI (x lo hi : Int) : Int := if x < lo then lo else if hi < x then hi else x

/-- Bit l of a lane mask. -/
def hasLane (m : LMask) (l : Nat) : Bool := m.getLsbD l

/-- The mask of one lane. -/
def laneBit (l : Nat) : LMask := BitVec.ofNat 32 (2 ^ l)

/-- The 32 lanes. -/
def allLanes : List Nat := List.range 32

/-- The lanes of a mask, ascending. -/
def lanesOf (m : LMask) : List Nat := allLanes.filter (hasLane m)

/-- The number of lanes of a mask. -/
def laneCount (m : LMask) : Nat := (lanesOf m).length

/-- The mask of the lanes that satisfy p. -/
def maskOf (p : Nat → Bool) : LMask :=
  allLanes.foldl (fun m l => if p l then m ||| laneBit l else m) 0

/-- The lowest lane of a mask; 0 for an empty one. -/
def lowLane (m : LMask) : Nat := (lanesOf m).headD 0

/-- Little-endian value of bytes (R4). -/
def leNat : List Byte → Nat
  | [] => 0
  | b :: r => b.toNat + 256 * leNat r

/-- The n low bytes of x, lowest first (R4). -/
def leBytes : Nat → Nat → List Byte
  | 0, _ => []
  | n + 1, x => BitVec.ofNat 8 x :: leBytes n (x / 256)

/-- Widths of the types in bits (R70). -/
def tyBits : Ty → Nat
  | .s8 | .n8 | .b8 | .e4m3 | .e5m2 | .d8 => 8
  | .s16 | .n16 | .b16 | .f16 | .bf16 => 16
  | .s32 | .n32 | .b32 | .f32 => 32
  | .s64 | .n64 | .b64 => 64
  | .e2m1 => 4

/-- Signed integer types. -/
def tySigned : Ty → Bool
  | .s8 | .s16 | .s32 | .s64 => true
  | _ => false

/-- Integer types with a sign convention: S and N. -/
def tyInt : Ty → Bool
  | .s8 | .s16 | .s32 | .s64 | .n8 | .n16 | .n32 | .n64 => true
  | _ => false

/-- Raw-bit types. -/
def tyRaw : Ty → Bool
  | .b8 | .b16 | .b32 | .b64 => true
  | _ => false

/-- The wide float types. -/
def tyWide : Ty → Bool
  | .f16 | .bf16 | .f32 => true
  | _ => false

/-- The narrow float types (R69, R169). -/
def tyNarrow : Ty → Bool
  | .e4m3 | .e5m2 | .e2m1 | .d8 => true
  | _ => false

/-- Registers that a value of a type fills (R16). -/
def tyRegs (t : Ty) : Nat := if tyBits t = 64 then 2 else 1

/-- Access sizes in bytes (R89). -/
def sizeBytes : Size → Nat
  | .b8 => 1
  | .b16 => 2
  | .b32 => 4
  | .b64 => 8
  | .b128 => 16

/-- Registers that a loaded or stored value fills (R194). -/
def sizeRegs : Size → Nat
  | .b64 => 2
  | .b128 => 4
  | _ => 1

/-- Domain codes (R77); a stronger domain has the lower code (R193). -/
def domCode : Dom → Nat
  | .sc => 0
  | .tso => 1
  | .rc => 2
  | .causal => 3
  | .bulk => 4

/-- Scope codes (R77). -/
def scopeCode : Scope → Nat
  | .warp => 0
  | .team => 1
  | .block => 2
  | .cluster => 3
  | .die => 4
  | .device => 5
  | .system => 6

/-- Policy codes (R77). -/
def polCode : Pol → Nat
  | .dflt => 0
  | .evictFirst => 1
  | .evictLast => 2
  | .noAllocate => 3

/-- Order codes (R77). -/
def ordCode : Ord → Nat
  | .plain => 0
  | .acquire => 1
  | .release => 2
  | .acqRel => 3

/-- Rounding codes (R71). -/
def rndCode : Rnd → Nat
  | .fpctl => 0
  | .rn => 1
  | .rz => 2
  | .rd => 3
  | .ru => 4

/-- Type codes (R70). -/
def tyCode : Ty → Nat
  | .s8 => 0 | .s16 => 1 | .s32 => 2 | .s64 => 3 | .n8 => 4 | .n16 => 5 | .n32 => 6 | .n64 => 7
  | .b8 => 8 | .b16 => 9 | .b32 => 10 | .b64 => 11 | .f16 => 12 | .bf16 => 13 | .f32 => 14
  | .e4m3 => 15 | .e5m2 => 16 | .e2m1 => 17 | .d8 => 18

/-- The type of a code; none for 19 to 31 (R70). -/
def tyOf (n : Nat) : Option Ty :=
  [Ty.s8, .s16, .s32, .s64, .n8, .n16, .n32, .n64, .b8, .b16, .b32, .b64, .f16, .bf16, .f32, .e4m3,
    .e5m2, .e2m1, .d8][n]?

/-- The rounding of a MOD code; none for 5 to 7 (R71). -/
def rndOf (n : Nat) : Option Rnd := [Rnd.fpctl, .rn, .rz, .rd, .ru][n]?

/-- The domain of a code; none for 5 to 7 (R77). -/
def domOf (n : Nat) : Option Dom := [Dom.sc, .tso, .rc, .causal, .bulk][n]?

/-- The scope of a code; none for 7 (R77). -/
def scopeOf (n : Nat) : Option Scope :=
  [Scope.warp, .team, .block, .cluster, .die, .device, .system][n]?

/-- The policy of a code (R77). -/
def polOf (n : Nat) : Option Pol := [Pol.dflt, .evictFirst, .evictLast, .noAllocate][n]?

/-- The order of a code (R77). -/
def ordOf (n : Nat) : Option Ord := [Ord.plain, .acquire, .release, .acqRel][n]?

end Sys2Proof.Machine
end

