-- ==== Sys2Proof/Machine/Forms.lean ====
section
/-! DEFINITION. The operand shape of every instruction and the checks that its encoding must pass (R60 to R94,
R130 to R274): one table from which allocation, last reads, pending checks and well-formedness are read. -/

namespace Sys2Proof.Machine

/-- Why an encoding is illegal (R94). -/
inductive Illegal
  | undefinedOpcode
  | undefinedShort
  | reservedCode
  | unusedField
  | guard
  | runEnd
  | source
  | destination
  | form
  deriving DecidableEq, Repr, Inhabited

/-- The kinds of source an operand accepts. -/
inductive OpdKind
  | any | noConst | vOnly
  deriving DecidableEq, Repr, Inhabited

/-- One source operand with the number of registers it reads (R16, R194). -/
structure Opd where
  src : Src
  n : Nat
  kind : OpdKind
  deriving DecidableEq, Repr, Inhabited

/-- A destination: n v registers, a uniform register with a result of n registers, or a predicate (R61). -/
inductive Dst
  | none
  | v (r n : Nat)
  | s (r n : Nat)
  | q (r : Nat)
  deriving DecidableEq, Repr, Inhabited

/-- The operand shape of an instruction. `d` suppresses write-back; `lt` is absent where no latch is
written (R62, R196). `rd` and `wr` are the buffer record read and written. -/
structure Shape where
  h : Hd
  dst : Dst := .none
  d : Bool := false
  lt : Option (BitVec 2) := none
  srcs : List Opd := []
  ps : List PSrc := []
  rd : Option (BitVec 4) := none
  wr : Option (BitVec 4) := none
  deriving DecidableEq, Repr, Inhabited

/-- A source of n registers of any kind. -/
def Opd.of (a : Src) (n : Nat) : Opd := ⟨a, n, .any⟩
/-- A 64-bit source that takes no inline constant (R144, R182, R225). -/
def Opd.wide (a : Src) : Opd := ⟨a, 2, .noConst⟩
/-- A register group of kind v (R194, R203). -/
def Opd.grp (a : Src) (n : Nat) : Opd := ⟨a, n, .vOnly⟩

/-- The data operand of a store (R194). -/
def Opd.store (a : Src) (z : Size) : Opd :=
  match z with
  | .b64 => .wide a
  | .b128 => .grp a 4
  | _ => .of a 1

/-- The shape with a destination that may be uniform (R128). -/
def Shape.du (h : Hd) (d : Du) (n : Nat) (srcs : List Opd) (ps : List PSrc := []) : Shape :=
  { h := h, dst := if d.ud then .s d.r.toNat n else .v d.r.toNat n, d := d.d, lt := some d.lt, srcs := srcs,
    ps := ps }
/-- The shape with a v destination. -/
def Shape.dv (h : Hd) (d : Dv) (n : Nat) (srcs : List Opd) : Shape :=
  { h := h, dst := .v d.r.toNat n, d := d.d, lt := some d.lt, srcs := srcs }
/-- The shape with a predicate destination (R61). -/
def Shape.dq (h : Hd) (d : Dv) (srcs : List Opd) (ps : List PSrc := []) : Shape :=
  { h := h, dst := .q d.r.toNat, d := d.d, lt := some d.lt, srcs := srcs, ps := ps }
/-- The shape without a destination (R62). -/
def Shape.no (h : Hd) (srcs : List Opd) : Shape := { h := h, srcs := srcs }
/-- The shape of a load's destination: no latch (R196). -/
def Shape.ldv (h : Hd) (r : BitVec 8) (n : Nat) (srcs : List Opd) : Shape :=
  { h := h, dst := .v r.toNat n, srcs := srcs }

/-- Registers of one side of PCVT (R171); 8 or more is illegal. -/
def pcvtRegs (c : PCount) (t : Ty) : Nat :=
  ((match c with | .two => 2 | .four => 4 | .eight => 8) * tyBits t + 31) / 32

/-- The address operands of ATOM and RED (R202). -/
def atomAddr (am : AMode) (a : Src) : Opd := match am with | .generic => .wide a | _ => .of a 1

/-- The data operand of ATOM and RED (R203). -/
def atomData (op : AOp) (wide : Bool) (x : Src) : Opd :=
  match op, wide with
  | .cas, w => .grp x (if w then 4 else 2)
  | .fadd, _ => .of x 1
  | _, true => .wide x
  | _, false => .of x 1

/-- Registers of an atomic's old value (R203). -/
def atomRegs (op : AOp) (wide : Bool) : Nat := if wide && op != .fadd then 2 else 1

/-- The record that a record-mode atomic reads. -/
def atomRec (am : AMode) (b : BitVec 4) : Option (BitVec 4) :=
  match am with | .record => some b | _ => none

/-- Special registers of 64 bits (R44). -/
def srWide (idx : Nat) : Bool := idx = 4 || idx = 6 || idx = 16 || idx = 17

/-- The operand shape of an instruction row; none for an event row. -/
def shape : Instr → Option Shape
  | .zadd h d ty _ a b | .zsub h d ty _ a b =>
    some (.du h d (tyRegs ty) [.of a (tyRegs ty), .of b (tyRegs ty)])
  | .zaddImm h d ty _ a _ => some (.du h d (tyRegs ty) [.of a (tyRegs ty)])
  | .zmul h d _ p a b => some (.du h d (if p = .dw then 2 else 1) [.of a 1, .of b 1])
  | .zmulImm h d _ p a _ => some (.du h d (if p = .dw then 2 else 1) [.of a 1])
  | .zmac h d _ p a b c =>
    some (.du h d (if p = .dw then 2 else 1) [.of a 1, .of b 1, .of c (if p = .dw then 2 else 1)])
  | .zmin h d ty a b | .zmax h d ty a b =>
    some (.du h d (tyRegs ty) [.of a (tyRegs ty), .of b (tyRegs ty)])
  | .zminImm h d ty a _ | .zmaxImm h d ty a _ => some (.du h d (tyRegs ty) [.of a (tyRegs ty)])
  | .aadd h d _ _ a b => some (.du h d 2 [.of a 2, .of b 1])
  | .aaddImm h d _ _ a _ => some (.du h d 2 [.of a 2])
  | .ltab h d _ a b c => some (.du h d 1 [.of a 1, .of b 1, .of c 1])
  | .shl h d ty _ a b | .shr h d ty _ a b => some (.du h d (tyRegs ty) [.of a (tyRegs ty), .of b 1])
  | .shlImm h d ty _ a _ | .shrImm h d ty _ a _ => some (.du h d (tyRegs ty) [.of a (tyRegs ty)])
  | .shf h d _ _ a b c => some (.du h d 1 [.of a 1, .of b 1, .of c 1])
  | .bfe h d _ a b => some (.du h d 1 [.of a 1, .of b 1])
  | .bfeImm h d _ a _ => some (.du h d 1 [.of a 1])
  | .bfi h d a b c => some (.du h d 1 [.of a 1, .of b 1, .of c 1])
  | .popc h d ty a | .clz h d ty a | .ctz h d ty a => some (.du h d 1 [.of a (tyRegs ty)])
  | .brev h d ty a => some (.du h d (tyRegs ty) [.of a (tyRegs ty)])
  | .bysel h d a b c => some (.du h d 1 [.of a 1, .of b 1, .of c 1])
  | .byselImm h d a _ => some (.du h d 1 [.of a 1])
  | .zcmp h d ty _ a b => some (.dq h d [.of a (tyRegs ty), .of b (tyRegs ty)])
  | .zcmpImm h d ty _ a _ => some (.dq h d [.of a (tyRegs ty)])
  | .sel h d ty a b p => some (.du h d (tyRegs ty) [.of a (tyRegs ty), .of b (tyRegs ty)] [p])
  | .mov h d ty a => some (.du h d (tyRegs ty) [.of a (tyRegs ty)])
  | .movImm h d ty _ => some (.du h d (tyRegs ty) [])
  | .qtab h d _ pa pb pc => some (.dq h d [] [pa, pb, pc])
  | .qget h d _ => some (.du h d 1 [])
  | .qset h _ a b => some (.no h [.of a 1, .of b 1])
  | .poll h d op p =>
    some (if op = .mask then .du h d 1 [] [p]
      else { h := h, dst := .q d.r.toNat, d := d.d, lt := some d.lt, ps := [p] })
  | .peers h d ty _ a => some (.dv h d 1 [.of a (tyRegs ty)])
  | .lxch h d ty _ a b => some (.dv h d (tyRegs ty) [.of a (tyRegs ty), .of b 1])
  | .lred h d ty _ a => some (.du h d (tyRegs ty) [.of a (tyRegs ty)])
  | .lead h d => some (.dq h d [])
  | .bra h _ => some (.no h [])
  | .brx h _ a => some (.no h [.wide a])
  | .call h d _ => some (.dv h d 2 [])
  | .callInd h d _ a => some (.dv h d 2 [.wide a])
  | .ret h a => some (.no h [.wide a])
  | .joinArm h _ | .joinWait h _ | .joinBreak h _ => some (.no h [])
  | .exit h | .nop h | .yield h => some (.no h [])
  | .vpoint h _ => some (.no h [])
  | .fadd h d _ _ a b | .fsub h d _ _ a b | .fmul h d _ _ a b | .fdiv h d _ _ a b =>
    some (.du h d 1 [.of a 1, .of b 1])
  | .faddImm h d _ _ a _ | .fmulImm h d _ _ a _ => some (.du h d 1 [.of a 1])
  | .fmac h d _ _ a b c => some (.du h d 1 [.of a 1, .of b 1, .of c 1])
  | .fmin h d _ a b | .fmax h d _ a b => some (.du h d 1 [.of a 1, .of b 1])
  | .fminImm h d _ a _ | .fmaxImm h d _ a _ => some (.du h d 1 [.of a 1])
  | .fabs h d _ a | .fneg h d _ a | .fclass h d _ a => some (.du h d 1 [.of a 1])
  | .fcmp h d _ _ a b => some (.dq h d [.of a 1, .of b 1])
  | .fsqrt h d _ _ a => some (.du h d 1 [.of a 1])
  | .frcp h d a | .frsq h d a | .fexp2 h d a | .flog2 h d a | .fsin h d a | .fcos h d a | .ftanh h d a =>
    some (.du h d 1 [.of a 1])
  | .f2add h d _ _ a b | .f2mul h d _ _ a b => some (.du h d 1 [.of a 1, .of b 1])
  | .f2mac h d _ _ a b c => some (.du h d 1 [.of a 1, .of b 1, .of c 1])
  | .f2min h d _ a b | .f2max h d _ a b => some (.du h d 1 [.of a 1, .of b 1])
  | .cvt h d td ts _ _ a => some (.du h d (tyRegs td) [.of a (tyRegs ts)])
  | .pcvt h d td ts c _ _ a sc =>
    some (.dv h d (pcvtRegs c td)
      [⟨a, pcvtRegs c ts, if pcvtRegs c ts ≤ 2 then .noConst else .vOnly⟩, .of sc 1])
  | .fmtw h d a => some (.du h d 1 [.of a 1])
  | .fmtwImm h d _ => some (.du h d 1 [])
  | .pack h d _ a b => some (.du h d 1 [.of a 1, .of b 1])
  | .unpk h d _ _ a => some (.dv h d 2 [.of a 1])
  | .frnd h d _ _ a => some (.du h d 1 [.of a 1])
  | .fldex h d _ _ a b => some (.du h d 1 [.of a 1, .of b 1])
  | .ld h r z _ b off _ => some { Shape.ldv h r (sizeRegs z) [.of off 1] with rd := some b }
  | .st h z _ b off x _ => some { Shape.no h [.of off 1, .store x z] with rd := some b }
  | .ldx h r z _ a _ => some (.ldv h r (sizeRegs z) [.wide a])
  | .stx h z _ a x _ => some (.no h [.wide a, .store x z])
  | .lds h r z _ _ off _ => some (.ldv h r (sizeRegs z) [.of off 1])
  | .sts h z _ _ off x _ => some (.no h [.of off 1, .store x z])
  | .ldcl h r z _ cw _ => some (.ldv h r (sizeRegs z) [.of cw 1])
  | .stcl h z _ cw x _ => some (.no h [.of cw 1, .store x z])
  | .bset h off _ | .bclr h off _ => some (.no h [.of off 1])
  | .btest h d off _ => some (.dq h d [.of off 1])
  | .pref h _ _ b (some off) => some { Shape.no h [.of off 1] with rd := some b }
  | .pref h _ _ b none | .prefDemote h b => some { Shape.no h [] with rd := some b }
  | .bridge h _ _ _ | .fence h _ _ _ => some (.no h [])
  | .monitor h _ _ a _ => some (.no h [.of a 2])
  | .mwait h d a => some (.dq h d [.of a 1])
  | .acvtTogen h d _ off => some (.dv h d 2 [.of off 1])
  | .acvtFromgen h d _ a => some (.dv h d 1 [.of a 2])
  | .atest h d _ a => some (.dq h d [.of a 2])
  | .ldrec h _ b a _ => some { Shape.no h [.of a 2] with wr := some b }
  | .atom h r op w _ am b a x _ =>
    some { Shape.ldv h r (atomRegs op w) [atomAddr am a, atomData op w x] with rd := atomRec am b }
  | .red h op w _ am b a x _ =>
    some { Shape.no h [atomAddr am a, atomData op w x] with rd := atomRec am b }
  | .rally h _ _ | .rallyGo h _ _ => some (.no h [])
  | .crally h | .crallyGo h | .crallyHold h => some (.no h [])
  | .barinit h off n _ => some (.no h [.of off 1, .of n 1])
  | .arrive h d off n _ => some (.dv h d 1 [.of off 1, .of n 1])
  | .trywait h d off t _ => some (.dq h d [.of off 1, .of t 1])
  | .wait h off t _ => some (.no h [.of off 1, .of t 1])
  | .mxacq h | .mxrel h | .opfence h => some (.no h [])
  | .mma h _ _ f a _ _ _ => some (.no h [.of f 1, .wide a])
  | .mxrun h _ _ f a _ _ _ => some (.no h [.of f 1, .of a 1])
  | .mxwait h d _ => some (.dq h d [])
  | .dkld h f a _ _ _ => some (.no h [.of f 1, .wide a])
  | .dkfree h _ | .accz h _ => some (.no h [])
  | .accrd h _ _ r o _ | .accwr h _ _ r o _ | .acccvt h _ _ r o _ => some (.no h [.of r 1, .of o 1])
  | .accstat h d _ _ => some (.dv h d 1 [])
  | .xpost h d off _ => some (.dv h d 1 [.of off 1])
  | .xcancel h d i => some (.dq h d [.of i 1])
  | .xquery h d i => some (.dv h d 2 [.of i 1])
  | .trap h _ | .bpt h _ => some (.no h [])
  | .svcInfo h d a b | .svcReside h d a b | .svcNotify h d a b | .svcBias h d a b =>
    some (.dv h d 2 [.of a 2, .of b 2])
  | .svcUndefined h d _ a b => some (.dv h d 2 [.of a 2, .of b 2])
  | .resume h | .resumeNext h => some (.no h [])
  | .frec h d f _ => some (.dv h d (if f = 2 || f = 3 then 2 else 1) [])
  | .ffixMap h d _ => some (.dq h d [])
  | .ffixEmul h d _ x => some (.dq h d [.grp x 1])
  | .ffixSkip h _ => some (.no h [])
  | .srd h d i => some (.dv h d (if srWide i.toNat then 2 else 1) [])
  | .swr h _ a => some (.no h [.of a 1])
  | .acct h d _ _ _ => some (.dv h d 2 [])
  | .acctSnap h => some (.no h [])
  | .cnt h d _ _ => some (.dv h d 2 [])
  | .mark h _ a => some (.no h [.of a 1])
  | _ => none

/-- An event row: it has no instruction word. -/
def isEvent (i : Instr) : Bool := (shape i).isNone

/-- Instructions that must end their run (R64). -/
def endsRun : Instr → Bool
  | .bra .. | .brx .. | .call .. | .callInd .. | .ret .. | .joinWait .. | .exit .. | .yield .. | .vpoint ..
  | .resume .. | .resumeNext .. => true
  | _ => false

/-- A source is legal for its operand (R66, R16, R67). -/
def Opd.ok (o : Opd) : Bool :=
  match o.src with
  | .v r _ _ => r.toNat % o.n == 0
  | .x _ | .s _ => o.kind != .vOnly
  | .k _ => o.kind == .any

/-- A destination is legal (R16, R25, R61, R194). -/
def Dst.ok : Dst → Bool
  | .none => true
  | .v r n => r % n == 0
  | .s r _ => r < 64
  | .q r => r < 48

/-- A format word is legal (R177, R178). -/
def fmtLegal (w : Nat) : Bool :=
  let a := w % 16
  let b := w / 16 % 16
  let acc := w / 256 % 4
  let sca := w / 1024 % 2
  let scb := w / 2048 % 2
  let fp8 := fun x => x == 2 || x == 3 || x == 5
  let sc := fun x s => if x == 4 then s == 1 else if x == 2 || x == 3 then true else s == 0
  w / 4096 == 0
    && ((a == 0 && b == 0 && acc == 0) || (a == 1 && b == 1 && acc == 0)
      || (fp8 a && fp8 b && acc == 0) || (a == 4 && b == 4 && acc == 0) || (a == 6 && b == 6 && acc == 1))
    && sc a sca && sc b scb

/-- S32, N32, S64 and N64. -/
def tyZ (t : Ty) : Bool := t == .s32 || t == .n32 || t == .s64 || t == .n64
/-- S32 and N32. -/
def tyZ32 (t : Ty) : Bool := t == .s32 || t == .n32
/-- B32 and B64. -/
def tyB (t : Ty) : Bool := t == .b32 || t == .b64
/-- F16 and BF16. -/
def tyH (t : Ty) : Bool := t == .f16 || t == .bf16

/-- Domain, scope, order and policy of a global load or store (R188). -/
def memQ (ld : Bool) (q : MemQ) : Bool :=
  (q.dom != .bulk || q.scope == .warp) && (q.ord == .plain || (q.dom == .rc && q.ord == (if ld then .acquire else .release)))

/-- Domain, scope, order and policy of a scratchpad or cluster load or store (R188). -/
def spQ (ld : Bool) (widest : Nat) (q : MemQ) : Bool :=
  memQ ld q && (q.dom == .rc || q.dom == .bulk) && scopeCode q.scope ≤ widest && q.pol == .dflt

/-- Domain, scope and order of an atomic (R188, R202). -/
def atQ (am : AMode) (b : BitVec 4) (q : MemQ) : Bool :=
  q.pol == .dflt && (q.ord == .plain || q.dom == .rc) &&
  (match am with
   | .record => true
   | .generic => b == 0
   | .scratch => b == 0 && (q.dom == .rc || q.dom == .bulk) && scopeCode q.scope ≤ 2
   | .cluster => b == 0 && (q.dom == .rc || q.dom == .bulk) && scopeCode q.scope ≤ 3)

/-- The conversion pairs of CVT (R169). -/
def cvtOk (d : Du) (td ts : Ty) (r : Rnd) : Bool :=
  !tyRaw td && !tyRaw ts && td != ts && !(tyNarrow td && tyNarrow ts)
    && (!(tyInt td && tyInt ts) || r == .fpctl) && (!d.ud || tyBits td ≤ 32)

/-- A constant may not stand for a narrow float (R69). -/
def noNarrowConst (t : Ty) (a : Src) : Bool :=
  match a with
  | .k _ => !tyNarrow t
  | _ => true

/-- The conversion pairs and groups of PCVT (R171, R173). -/
def pcvtOk (td ts : Ty) (c : PCount) (sc : Src) : Bool :=
  let other := fun t => tyWide t || tyNarrow t || t == .s8
  ((tyWide td && other ts) || (tyWide ts && other td)) && td != ts
    && pcvtRegs c td ≤ 4 && pcvtRegs c ts ≤ 4 && (!(tyWide td && tyWide ts) || sc == .k 0)

/-- The types, qualifiers and codes that an instruction's entry allows. -/
def formOk : Instr → Bool
  | .zadd _ _ ty _ _ _ | .zaddImm _ _ ty _ _ _ | .zsub _ _ ty _ _ _ => tyZ ty
  | .zmul _ _ ty _ _ _ | .zmulImm _ _ ty _ _ _ | .zmac _ _ ty _ _ _ _ => tyZ32 ty
  | .zmin _ _ ty _ _ | .zminImm _ _ ty _ _ | .zmax _ _ ty _ _ | .zmaxImm _ _ ty _ _ => tyZ ty
  | .aadd _ _ ty sh _ _ | .aaddImm _ _ ty sh _ _ => tyZ32 ty && sh.toNat ≤ 4
  | .shl _ _ ty _ _ _ | .shlImm _ _ ty _ _ _ => tyB ty
  | .shr _ _ ty _ _ _ | .shrImm _ _ ty _ _ _ => tyZ ty
  | .bfe _ _ ty _ _ | .bfeImm _ _ ty _ _ => tyZ32 ty
  | .popc _ _ ty _ | .clz _ _ ty _ | .ctz _ _ ty _ | .brev _ _ ty _ => tyB ty
  | .zcmp _ _ ty _ _ _ | .zcmpImm _ _ ty _ _ _ => tyZ ty
  | .sel _ _ ty _ _ p => tyB ty && p.q.toNat < 48
  | .mov _ _ ty _ => tyB ty
  | .movImm _ _ ty _ => tyB ty || ty == .s64
  | .qtab _ _ _ pa pb pc => pa.q.toNat < 48 && pb.q.toNat < 48 && pc.q.toNat < 48
  | .poll _ d op p => p.q.toNat < 48 && (op == .mask || !d.ud)
  | .peers _ _ ty _ _ | .lxch _ _ ty _ _ _ => tyB ty
  | .lred _ _ ty op _ =>
    match op with
    | .add | .min | .max => tyZ ty
    | .and | .or | .xor => tyB ty
  | .yield h => h.g == 0 && !h.gn
  | .vpoint h _ => h.g == 0 && !h.gn
  | .fadd _ _ ty _ _ _ | .faddImm _ _ ty _ _ _ | .fsub _ _ ty _ _ _ | .fmul _ _ ty _ _ _
  | .fmulImm _ _ ty _ _ _ | .fdiv _ _ ty _ _ _ => tyWide ty
  | .fmac _ _ ty _ _ _ _ => tyWide ty
  | .fmin _ _ ty _ _ | .fminImm _ _ ty _ _ | .fmax _ _ ty _ _ | .fmaxImm _ _ ty _ _ => tyWide ty
  | .fabs _ _ ty _ | .fneg _ _ ty _ | .fclass _ _ ty _ => tyWide ty
  | .fcmp _ _ ty _ _ _ => tyWide ty
  | .fsqrt _ _ ty _ _ => tyWide ty
  | .f2add _ _ ty _ _ _ | .f2mul _ _ ty _ _ _ => tyH ty
  | .f2mac _ _ ty _ _ _ _ => tyH ty
  | .f2min _ _ ty _ _ | .f2max _ _ ty _ _ => tyH ty
  | .cvt _ d td ts r _ a => cvtOk d td ts r && noNarrowConst ts a
  | .pcvt _ _ td ts c _ _ _ sc => pcvtOk td ts c sc
  | .fmtwImm _ _ imm => fmtLegal imm.toNat
  | .pack _ _ ty _ _ => ty == .b16 || ty == .b8
  | .unpk _ _ ty _ _ => ty == .b16 || ty == .b8
  | .frnd _ _ ty _ _ | .fldex _ _ ty _ _ _ => tyWide ty
  | .ld _ _ _ q _ _ _ => memQ true q
  | .ldx _ _ _ q _ _ => memQ true q
  | .st _ _ q _ _ _ _ => memQ false q
  | .stx _ _ q _ _ _ => memQ false q
  | .lds _ _ _ q _ _ _ => spQ true 2 q
  | .sts _ _ q _ _ _ _ => spQ false 2 q
  | .ldcl _ _ _ q _ _ => spQ true 3 q
  | .stcl _ _ q _ _ _ => spQ false 3 q
  | .pref _ _ pol _ _ => pol != .noAllocate
  | .bridge _ d1 d2 _ => d1 != d2
  | .fence _ _ _ o => o != .plain
  | .monitor _ d s _ _ => (d == .sc || d == .rc) && 3 ≤ scopeCode s
  | .atest _ _ sp _ => sp.toNat ≤ 5
  | .ldrec _ q _ _ _ => memQ true q && q.pol == .dflt
  | .atom _ _ _ _ q am b _ _ _ => atQ am b q
  | .red _ op _ q am b _ _ _ =>
    atQ am b q && (q.ord == .plain || q.ord == .release) && op != .exch && op != .cas
  | .rally _ _ c | .rallyGo _ _ c => c.toNat ≤ 32
  | .frec _ _ f r => f.toNat ≤ 10 && r.toNat ≤ 4 && (r.toNat < 4 || f.toNat < 7)
  | .svcUndefined _ _ n _ _ => 4 ≤ n.toNat
  | .srd _ _ i => i.toNat < 20
  | .swr _ i _ => i.toNat == 14 || i.toNat == 15
  | .acct _ _ c _ _ => c.toNat ≤ 17
  | _ => true

/-- The first check that an instruction's encoding fails (R94); none for a legal one. -/
def formCheck (i : Instr) : Option Illegal :=
  match shape i with
  | none => some .undefinedOpcode
  | some p =>
    if 48 ≤ p.h.g.toNat then some .guard
    else if endsRun i && !p.h.e then some .runEnd
    else if !p.srcs.all Opd.ok then some .source
    else if !p.dst.ok then some .destination
    else if !formOk i then some .form
    else none

end Sys2Proof.Machine
end

