-- ==== Sys2Proof/WellFormed.lean ====
section
/-! DEFINITION. Well-formed instructions: those that an instruction word stands for (R84, R94). -/

namespace Sys2Proof

/-- An instruction row whose operands, codes and fields pass every check of R60 to R94. No event row is
well formed: it has no word. -/
def Instr.wellFormed (i : Instr) : Bool := (Machine.formCheck i).isNone

end Sys2Proof
end

