-- ==== Sys2Proof/Decode.lean ====
section
/-! DEFINITION. The stored forms, the canonical word, the decoder and the encoder (R48 to R93). A word is legal
exactly when it is the encoding of a well-formed instruction: so every field that an instruction does
not use is checked to be 0 (R63). -/

namespace Sys2Proof

open Machine

/-- Packs fields given from bit 0 upward as (width, value). -/
def packL : List (Nat × Nat) → Nat
  | [] => 0
  | (w, v) :: r => v % 2 ^ w + 2 ^ w * packL r

/-- Splits a number into fields of the given widths, from bit 0 upward. -/
def unpackL : List Nat → Nat → List Nat
  | [], _ => []
  | w :: ws, x => x % 2 ^ w :: unpackL ws (x / 2 ^ w)

/-- The fields outside BODY (R58). -/
structure Head where
  opc : Nat
  e : Nat
  g : Nat
  gn : Nat
  dst : Nat
  d : Nat
  lt : Nat
  deriving DecidableEq, Repr

/-- The six body formats (R72 to R81), fields from the low bits upward. -/
inductive Body
  | fa (ud md ty sc sb sa : Nat)
  | fi (ext ud md ty imm sa : Nat)
  | fm (bead ord pol scope dom imm dat off brec : Nat)
  | fb (imm bsub sind jb off : Nat)
  | fx (res ref amode rows dh ads fmt cv acc : Nat)
  | fs (sub imm sb sa sel : Nat)
  deriving DecidableEq, Repr

/-- The formats. -/
inductive Fmt
  | fa | fi | fm | fb | fx | fs
  deriving DecidableEq, Repr

/-- The format that an opcode fixes (R84 to R92); unassigned opcodes read as F-A. -/
def fmtOf (opc : Nat) : Fmt :=
  match opc / 64 with
  | 1 | 5 | 7 => .fi
  | 3 => .fb
  | 8 | 9 | 10 => .fm
  | 11 => if opc < 0x2C2 then .fi else .fm
  | 12 => .fx
  | 13 => .fm
  | 14 => .fs
  | _ => .fa

/-- Widths of the body fields, from bit 1 upward. -/
def bodyWidths : Fmt → List Nat
  | .fa => [1, 3, 5, 19, 19, 19]
  | .fi => [6, 1, 3, 5, 32, 19]
  | .fm => [2, 2, 2, 3, 3, 12, 19, 19, 4]
  | .fb => [8, 3, 19, 4, 32]
  | .fx => [8, 1, 2, 7, 4, 19, 19, 3, 3]
  | .fs => [4, 16, 19, 19, 8]

/-- The body's fields as a list, in the order of `bodyWidths`. -/
def Body.list : Body → Fmt × List Nat
  | .fa a b c d e f => (.fa, [a, b, c, d, e, f])
  | .fi a b c d e f => (.fi, [a, b, c, d, e, f])
  | .fm a b c d e f g h i => (.fm, [a, b, c, d, e, f, g, h, i])
  | .fb a b c d e => (.fb, [a, b, c, d, e])
  | .fx a b c d e f g h i => (.fx, [a, b, c, d, e, f, g, h, i])
  | .fs a b c d e => (.fs, [a, b, c, d, e])

/-- The body from its fields. -/
def Body.ofList : Fmt → List Nat → Option Body
  | .fa, [a, b, c, d, e, f] => some (.fa a b c d e f)
  | .fi, [a, b, c, d, e, f] => some (.fi a b c d e f)
  | .fm, [a, b, c, d, e, f, g, h, i] => some (.fm a b c d e f g h i)
  | .fb, [a, b, c, d, e] => some (.fb a b c d e)
  | .fx, [a, b, c, d, e, f, g, h, i] => some (.fx a b c d e f g h i)
  | .fs, [a, b, c, d, e] => some (.fs a b c d e)
  | _, _ => none

/-- Widths of the head fields, from bit 67 upward (R58). -/
def headWidths : List Nat := [2, 1, 8, 1, 6, 1, 10]

/-- The head's fields in the order of `headWidths`. -/
def Head.list (h : Head) : List Nat := [h.lt, h.d, h.dst, h.gn, h.g, h.e, h.opc]

/-- The canonical word of its fields (R58). -/
def packWord (h : Head) (b : Body) : Nat :=
  packL ((1, 1) :: ((bodyWidths b.list.1).zip b.list.2 ++ headWidths.zip h.list))

/-- The fields of a canonical word: bit 0 apart, the format is the opcode's. -/
def unpackWord (x : Nat) : Option (Head × Body) :=
  let f := fmtOf (x / 2 ^ 86)
  let l := unpackL (1 :: (bodyWidths f ++ headWidths)) x
  let n := (bodyWidths f).length
  match Body.ofList f ((l.drop 1).take n), l.drop (n + 1) with
  | some b, [lt, d, dst, gn, g, e, opc] => some (⟨opc, e, g, gn, dst, d, lt⟩, b)
  | _, _ => none

/-- The permutation fields PK and PN (R67). -/
def permN : Perm → Nat
  | .none => 0
  | .rot n => 32 + n.toNat
  | .bc n => 64 + n.toNat
  | .bf n => 96 + n.toNat
  | .mir => 128
  | .shu n => 160 + n.toNat
  | .shd n => 192 + n.toNat

/-- A permutation from PK and PN; none for PK = 7 (R67). -/
def permOf (x : Nat) : Option Perm :=
  match x / 32 with
  | 0 => some .none
  | 1 => some (.rot (BitVec.ofNat 5 x))
  | 2 => some (.bc (BitVec.ofNat 5 x))
  | 3 => some (.bf (BitVec.ofNat 5 x))
  | 4 => some .mir
  | 5 => some (.shu (BitVec.ofNat 5 x))
  | 6 => some (.shd (BitVec.ofNat 5 x))
  | _ => none

/-- A source operand field (R65). -/
def srcN : Src → Nat
  | .v r l p => r.toNat * 512 + l.toNat * 256 + permN p
  | .x r => 2 ^ 17 + r.toNat * 512
  | .s r => 2 * 2 ^ 17 + r.toNat * 512
  | .k i => 3 * 2 ^ 17 + i.toNat * 512

/-- A source from its field (R65, R66). -/
def srcOf (x : Nat) : Option Src :=
  let idx := x / 512 % 256
  match x / 2 ^ 17 with
  | 0 => (permOf (x % 256)).map (.v (BitVec.ofNat 8 idx) (x / 256 % 2 == 1))
  | 1 => some (.x (BitVec.ofNat 2 idx))
  | 2 => some (.s (BitVec.ofNat 6 idx))
  | _ => some (.k (BitVec.ofNat 8 idx))

/-- A predicate source field (R137). -/
def psrcN (p : PSrc) : Nat := p.q.toNat * 512 + p.neg.toNat * 256

/-- A predicate source from its field (R137). -/
def psrcOf (x : Nat) : PSrc := ⟨BitVec.ofNat 8 (x / 512), x / 256 % 2 == 1⟩

/-- The head of an instruction with no destination. -/
def hdN (opc : Nat) (h : Hd) : Head := ⟨opc, h.e.toNat, h.g.toNat, h.gn.toNat, 0, 0, 0⟩
/-- The head with a destination. -/
def hdD (opc : Nat) (h : Hd) (d : Dv) : Head :=
  ⟨opc, h.e.toNat, h.g.toNat, h.gn.toNat, d.r.toNat, d.d.toNat, d.lt.toNat⟩
/-- The head with a destination that may be uniform. -/
def hdU (opc : Nat) (h : Hd) (d : Du) : Head :=
  ⟨opc, h.e.toNat, h.g.toNat, h.gn.toNat, d.r.toNat, d.d.toNat, d.lt.toNat⟩
/-- The head of a load: no latch, write-back always on (R196). -/
def hdL (opc : Nat) (h : Hd) (r : BitVec 8) : Head :=
  ⟨opc, h.e.toNat, h.g.toNat, h.gn.toNat, r.toNat, 0, 0⟩

/-- An F-A encoding with up to three sources, uniform destination allowed. -/
def encA (opc : Nat) (h : Hd) (d : Du) (md ty : Nat) (sa sb sc : Nat) : Head × Body :=
  (hdU opc h d, .fa d.ud.toNat md ty sc sb sa)
/-- An F-A encoding with a v or predicate destination. -/
def encV (opc : Nat) (h : Hd) (d : Dv) (md ty : Nat) (sa sb sc : Nat) : Head × Body :=
  (hdD opc h d, .fa 0 md ty sc sb sa)
/-- An F-I encoding (R74). -/
def encI (opc : Nat) (h : Hd) (d : Du) (md ty : Nat) (sa : Nat) (imm : W32) : Head × Body :=
  (hdU opc h d, .fi 0 d.ud.toNat md ty imm.toNat sa)
/-- An F-M encoding (R76). -/
def encM (h : Head) (q : MemQ) (bead b off dat imm : Nat) : Head × Body :=
  (h, .fm bead (ordCode q.ord) (polCode q.pol) (scopeCode q.scope) (domCode q.dom) imm dat off b)
/-- An F-M encoding whose code fields are all 0. -/
def encM0 (h : Head) (off dat imm : Nat) : Head × Body := (h, .fm 0 0 0 0 0 imm dat off 0)
/-- An F-B encoding (R79). -/
def encB (h : Head) (imm bsub sind jb off : Nat) : Head × Body := (h, .fb imm bsub sind jb off)
/-- An F-X encoding (R80). -/
def encX (h : Head) (ref amode rows dh ads fmt cv acc : Nat) : Head × Body :=
  (h, .fx 0 ref amode rows dh ads fmt cv acc)
/-- An F-S encoding (R81). -/
def encS (h : Head) (sub imm sb sa sel : Nat) : Head × Body := (h, .fs sub imm sb sa sel)

def partN : Part → Nat
  | .lw => 0 | .hw => 1 | .dw => 2
def partOf (n : Nat) : Part := match n with | 0 => .lw | 1 => .hw | _ => .dw
def cmpN : Cmp → Nat
  | .eq => 0 | .ne => 1 | .lt => 2 | .le => 3 | .gt => 4 | .ge => 5
def cmpOf (n : Nat) : Option Cmp := [Cmp.eq, .ne, .lt, .le, .gt, .ge][n]?
def fcmpN : FCmp → Nat
  | .eq => 0 | .ne => 1 | .lt => 2 | .le => 3 | .gt => 4 | .ge => 5 | .num => 6 | .nan => 7
def fcmpOf (n : Nat) : Option FCmp := [FCmp.eq, .ne, .lt, .le, .gt, .ge, .num, .nan][n]?
def pollN : PollOp → Nat
  | .every => 0 | .some => 1 | .same => 2 | .mask => 3
def pollOf (n : Nat) : Option PollOp := [PollOp.every, .some, .same, .mask][n]?
def xchN : XchMode → Nat
  | .from => 0 | .back => 1 | .fwd => 2 | .flip => 3
def xchOf (n : Nat) : Option XchMode := [XchMode.from, .back, .fwd, .flip][n]?
def redN : RedOp → Nat
  | .add => 0 | .min => 1 | .max => 2 | .and => 3 | .or => 4 | .xor => 5
def redOf (n : Nat) : Option RedOp := [RedOp.add, .min, .max, .and, .or, .xor][n]?
def cntN : PCount → Nat
  | .two => 0 | .four => 1 | .eight => 2
def cntOf (n : Nat) : Option PCount := [PCount.two, .four, .eight][n]?
def sizeN : Size → Nat
  | .b8 => 0 | .b16 => 1 | .b32 => 2 | .b64 => 3 | .b128 => 4
def sizeOf' (n : Nat) : Option Size := [Size.b8, .b16, .b32, .b64, .b128][n]?
def aopN : AOp → Nat
  | .add => 0 | .minS => 1 | .maxS => 2 | .minN => 3 | .maxN => 4 | .and => 5 | .or => 6 | .xor => 7
  | .exch => 8 | .cas => 9 | .fadd => 10
def aopOf (n : Nat) : Option AOp :=
  [AOp.add, .minS, .maxS, .minN, .maxN, .and, .or, .xor, .exch, .cas, .fadd][n]?
def amN : AMode → Nat
  | .record => 0 | .generic => 1 | .scratch => 2 | .cluster => 3
def amOf (n : Nat) : Option AMode := [AMode.record, .generic, .scratch, .cluster][n]?
def beadN : BeadL → Nat
  | .none => 0 | .full => 1 | .take => 2
def beadOf (n : Nat) : Option BeadL := [BeadL.none, .full, .take][n]?

/-- MOD code of ZADD's and the shifts' one-bit variants. -/
def bN (b : Bool) : Nat := b.toNat

/-- The CVT and PCVT fields in the place of SC (R73). -/
def cvtSC (ts : Ty) (cnt : Nat) (satf : Bool) : Nat :=
  satf.toNat * 2 ^ 11 + cnt * 2 ^ 12 + tyCode ts * 2 ^ 14

/-- The fields of an instruction's word (R85 to R92); none for an event. -/
def toFields : Instr → Option (Head × Body)
  | .zadd h d ty s a b => some (encA 0x000 h d (bN s) (tyCode ty) (srcN a) (srcN b) 0)
  | .zaddImm h d ty s a i => some (encI 0x040 h d (bN s) (tyCode ty) (srcN a) i)
  | .zsub h d ty s a b => some (encA 0x001 h d (bN s) (tyCode ty) (srcN a) (srcN b) 0)
  | .zmul h d ty p a b => some (encA 0x002 h d (partN p) (tyCode ty) (srcN a) (srcN b) 0)
  | .zmulImm h d ty p a i => some (encI 0x042 h d (partN p) (tyCode ty) (srcN a) i)
  | .zmac h d ty p a b c => some (encA 0x003 h d (partN p) (tyCode ty) (srcN a) (srcN b) (srcN c))
  | .zmin h d ty a b => some (encA 0x004 h d 0 (tyCode ty) (srcN a) (srcN b) 0)
  | .zminImm h d ty a i => some (encI 0x044 h d 0 (tyCode ty) (srcN a) i)
  | .zmax h d ty a b => some (encA 0x005 h d 0 (tyCode ty) (srcN a) (srcN b) 0)
  | .zmaxImm h d ty a i => some (encI 0x045 h d 0 (tyCode ty) (srcN a) i)
  | .aadd h d ty sh a b => some (encA 0x014 h d sh.toNat (tyCode ty) (srcN a) (srcN b) 0)
  | .aaddImm h d ty sh a i => some (encI 0x054 h d sh.toNat (tyCode ty) (srcN a) i)
  | .ltab h d t a b c => some (encA 0x006 h d (t.toNat % 8) (t.toNat / 8) (srcN a) (srcN b) (srcN c))
  | .shl h d ty w a b => some (encA 0x007 h d (bN w) (tyCode ty) (srcN a) (srcN b) 0)
  | .shlImm h d ty w a i => some (encI 0x047 h d (bN w) (tyCode ty) (srcN a) i)
  | .shr h d ty w a b => some (encA 0x008 h d (bN w) (tyCode ty) (srcN a) (srcN b) 0)
  | .shrImm h d ty w a i => some (encI 0x048 h d (bN w) (tyCode ty) (srcN a) i)
  | .shf h d r w a b c => some (encA 0x009 h d (bN r + 2 * bN w) 10 (srcN a) (srcN b) (srcN c))
  | .bfe h d ty a b => some (encA 0x00A h d 0 (tyCode ty) (srcN a) (srcN b) 0)
  | .bfeImm h d ty a i => some (encI 0x04A h d 0 (tyCode ty) (srcN a) i)
  | .bfi h d a b c => some (encA 0x00B h d 0 10 (srcN a) (srcN b) (srcN c))
  | .popc h d ty a => some (encA 0x00C h d 0 (tyCode ty) (srcN a) 0 0)
  | .clz h d ty a => some (encA 0x00D h d 0 (tyCode ty) (srcN a) 0 0)
  | .ctz h d ty a => some (encA 0x00E h d 0 (tyCode ty) (srcN a) 0 0)
  | .brev h d ty a => some (encA 0x00F h d 0 (tyCode ty) (srcN a) 0 0)
  | .bysel h d a b c => some (encA 0x010 h d 0 10 (srcN a) (srcN b) (srcN c))
  | .byselImm h d a i => some (encI 0x050 h d 0 10 (srcN a) i)
  | .zcmp h d ty c a b => some (encV 0x011 h d (cmpN c) (tyCode ty) (srcN a) (srcN b) 0)
  | .zcmpImm h d ty c a i => some (encI 0x051 h ⟨false, d.r, d.d, d.lt⟩ (cmpN c) (tyCode ty) (srcN a) i)
  | .sel h d ty a b p => some (encA 0x012 h d 0 (tyCode ty) (srcN a) (srcN b) (psrcN p))
  | .mov h d ty a => some (encA 0x013 h d 0 (tyCode ty) (srcN a) 0 0)
  | .movImm h d ty i => some (encI 0x053 h d 0 (tyCode ty) 0 i)
  | .qtab h d t a b c => some (encV 0x080 h d (t.toNat % 8) (t.toNat / 8) (psrcN a) (psrcN b) (psrcN c))
  | .qget h d hi => some (encA 0x081 h d (bN hi) 10 0 0 0)
  | .qset h hi a b => some (hdN 0x082 h, .fa 0 (bN hi) 10 0 (srcN b) (srcN a))
  | .poll h d op p => some (encA 0x083 h d (pollN op) (if op = .mask then 10 else 0) (psrcN p) 0 0)
  | .peers h d ty u a => some (encV 0x084 h d (bN u) (tyCode ty) (srcN a) 0 0)
  | .lxch h d ty m a b => some (encV 0x085 h d (xchN m) (tyCode ty) (srcN a) (srcN b) 0)
  | .lred h d ty op a => some (encA 0x086 h d (redN op) (tyCode ty) (srcN a) 0 0)
  | .lead h d => some (encV 0x087 h d 0 0 0 0 0)
  | .bra h off => some (encB (hdN 0x0C0 h) 0 0 0 0 off.toNat)
  | .brx h off a => some (encB (hdN 0x0C1 h) 0 0 (srcN a) 0 off.toNat)
  | .call h d off => some (encB (hdD 0x0C2 h d) 0 0 0 0 off.toNat)
  | .callInd h d off a => some (encB (hdD 0x0C2 h d) 0 1 (srcN a) 0 off.toNat)
  | .ret h a => some (encB (hdN 0x0C3 h) 0 0 (srcN a) 0 0)
  | .joinArm h j => some (encB (hdN 0x0C4 h) 0 0 0 j.toNat 0)
  | .joinWait h j => some (encB (hdN 0x0C5 h) 0 0 0 j.toNat 0)
  | .joinBreak h j => some (encB (hdN 0x0C6 h) 0 0 0 j.toNat 0)
  | .exit h => some (encB (hdN 0x0C7 h) 0 0 0 0 0)
  | .nop h => some (encB (hdN 0x0C8 h) 0 0 0 0 0)
  | .yield h => some (encB (hdN 0x0C9 h) 0 0 0 0 0)
  | .vpoint h n => some (encB (hdN 0x0CA h) n.toNat 0 0 0 0)
  | .fadd h d ty r a b => some (encA 0x100 h d (rndCode r) (tyCode ty) (srcN a) (srcN b) 0)
  | .faddImm h d ty r a i => some (encI 0x140 h d (rndCode r) (tyCode ty) (srcN a) i)
  | .fsub h d ty r a b => some (encA 0x101 h d (rndCode r) (tyCode ty) (srcN a) (srcN b) 0)
  | .fmul h d ty r a b => some (encA 0x102 h d (rndCode r) (tyCode ty) (srcN a) (srcN b) 0)
  | .fmulImm h d ty r a i => some (encI 0x142 h d (rndCode r) (tyCode ty) (srcN a) i)
  | .fmac h d ty r a b c => some (encA 0x103 h d (rndCode r) (tyCode ty) (srcN a) (srcN b) (srcN c))
  | .fmin h d ty a b => some (encA 0x104 h d 0 (tyCode ty) (srcN a) (srcN b) 0)
  | .fminImm h d ty a i => some (encI 0x144 h d 0 (tyCode ty) (srcN a) i)
  | .fmax h d ty a b => some (encA 0x105 h d 0 (tyCode ty) (srcN a) (srcN b) 0)
  | .fmaxImm h d ty a i => some (encI 0x145 h d 0 (tyCode ty) (srcN a) i)
  | .fabs h d ty a => some (encA 0x106 h d 0 (tyCode ty) (srcN a) 0 0)
  | .fneg h d ty a => some (encA 0x107 h d 0 (tyCode ty) (srcN a) 0 0)
  | .fdiv h d ty r a b => some (encA 0x108 h d (rndCode r) (tyCode ty) (srcN a) (srcN b) 0)
  | .fcmp h d ty c a b => some (encV 0x109 h d (fcmpN c) (tyCode ty) (srcN a) (srcN b) 0)
  | .fclass h d ty a => some (encA 0x10A h d 0 (tyCode ty) (srcN a) 0 0)
  | .fsqrt h d ty r a => some (encA 0x111 h d (rndCode r) (tyCode ty) (srcN a) 0 0)
  | .frcp h d a => some (encA 0x110 h d 0 14 (srcN a) 0 0)
  | .frsq h d a => some (encA 0x112 h d 0 14 (srcN a) 0 0)
  | .fexp2 h d a => some (encA 0x113 h d 0 14 (srcN a) 0 0)
  | .flog2 h d a => some (encA 0x114 h d 0 14 (srcN a) 0 0)
  | .fsin h d a => some (encA 0x115 h d 0 14 (srcN a) 0 0)
  | .fcos h d a => some (encA 0x116 h d 0 14 (srcN a) 0 0)
  | .ftanh h d a => some (encA 0x117 h d 0 14 (srcN a) 0 0)
  | .f2add h d ty r a b => some (encA 0x120 h d (rndCode r) (tyCode ty) (srcN a) (srcN b) 0)
  | .f2mul h d ty r a b => some (encA 0x121 h d (rndCode r) (tyCode ty) (srcN a) (srcN b) 0)
  | .f2mac h d ty r a b c => some (encA 0x122 h d (rndCode r) (tyCode ty) (srcN a) (srcN b) (srcN c))
  | .f2min h d ty a b => some (encA 0x123 h d 0 (tyCode ty) (srcN a) (srcN b) 0)
  | .f2max h d ty a b => some (encA 0x124 h d 0 (tyCode ty) (srcN a) (srcN b) 0)
  | .cvt h d td ts r sf a => some (encA 0x180 h d (rndCode r) (tyCode td) (srcN a) 0 (cvtSC ts 0 sf))
  | .pcvt h d td ts c r sf a sc =>
    some (encV 0x181 h d (rndCode r) (tyCode td) (srcN a) (srcN sc) (cvtSC ts (cntN c) sf))
  | .fmtw h d a => some (encA 0x182 h d 0 10 (srcN a) 0 0)
  | .fmtwImm h d i => some (encI 0x1C2 h d 0 10 0 i)
  | .pack h d ty a b => some (encA 0x183 h d 0 (tyCode ty) (srcN a) (srcN b) 0)
  | .unpk h d ty s a => some (encV 0x184 h d (bN s) (tyCode ty) (srcN a) 0 0)
  | .frnd h d ty r a => some (encA 0x185 h d (rndCode r) (tyCode ty) (srcN a) 0 0)
  | .fldex h d ty r a b => some (encA 0x186 h d (rndCode r) (tyCode ty) (srcN a) (srcN b) 0)
  | .ld h r z q b off i => some (encM (hdL (0x200 + sizeN z) h r) q 0 b.toNat (srcN off) 0 i.toNat)
  | .st h z q b off x i => some (encM (hdN (0x208 + sizeN z) h) q 0 b.toNat (srcN off) (srcN x) i.toNat)
  | .ldx h r z q a i => some (encM (hdL (0x210 + sizeN z) h r) q 0 0 (srcN a) 0 i.toNat)
  | .stx h z q a x i => some (encM (hdN (0x218 + sizeN z) h) q 0 0 (srcN a) (srcN x) i.toNat)
  | .lds h r z q bd off i => some (encM (hdL (0x220 + sizeN z) h r) q (beadN bd) 0 (srcN off) 0 i.toNat)
  | .sts h z q fl off x i =>
    some (encM (hdN (0x228 + sizeN z) h) q (if fl then 3 else 0) 0 (srcN off) (srcN x) i.toNat)
  | .ldcl h r z q cw i => some (encM (hdL (0x230 + sizeN z) h r) q 0 0 (srcN cw) 0 i.toNat)
  | .stcl h z q cw x i => some (encM (hdN (0x238 + sizeN z) h) q 0 0 (srcN cw) (srcN x) i.toNat)
  | .bset h off i => some (encM0 (hdN 0x240 h) (srcN off) 0 i.toNat)
  | .bclr h off i => some (encM0 (hdN 0x241 h) (srcN off) 0 i.toNat)
  | .btest h d off i => some (encM0 (hdD 0x242 h d) (srcN off) 0 i.toNat)
  | .pref h m p b none => some (hdN 0x243 h, .fm 0 0 (polCode p) 0 0 (bN m) 0 0 b.toNat)
  | .pref h m p b (some o) => some (hdN 0x243 h, .fm 0 0 (polCode p) 0 0 (bN m + 2) 0 (srcN o) b.toNat)
  | .prefDemote h b => some (hdN 0x244 h, .fm 0 0 0 0 0 0 0 0 b.toNat)
  | .bridge h d1 d2 s => some (hdN 0x245 h, .fm 0 0 0 (scopeCode s) (domCode d1) (domCode d2) 0 0 0)
  | .fence h d s o => some (hdN 0x246 h, .fm 0 (ordCode o) 0 (scopeCode s) (domCode d) 0 0 0 0)
  | .monitor h d s a i => some (hdN 0x247 h, .fm 0 0 0 (scopeCode s) (domCode d) i.toNat 0 (srcN a) 0)
  | .mwait h d a => some (encM0 (hdD 0x248 h d) (srcN a) 0 0)
  | .acvtTogen h d sp off => some (encM0 (hdD 0x249 h d) (srcN off) 0 sp.toNat)
  | .acvtFromgen h d sp a => some (encM0 (hdD 0x249 h d) (srcN a) 0 (8 + sp.toNat))
  | .atest h d sp a => some (encM0 (hdD 0x24A h d) (srcN a) 0 sp.toNat)
  | .ldrec h q b a i => some (encM (hdN 0x24B h) q 0 b.toNat (srcN a) 0 i.toNat)
  | .atom h r op w q am b a x i =>
    some (encM (hdL (0x280 + 2 * aopN op + bN w) h r) q (amN am) b.toNat (srcN a) (srcN x) i.toNat)
  | .red h op w q am b a x i =>
    some (encM (hdN (0x2A0 + 2 * aopN op + bN w) h) q (amN am) b.toNat (srcN a) (srcN x) i.toNat)
  | .rally h i c => some (hdN 0x2C0 h, .fi 0 0 0 0 (i.toNat + 16 * c.toNat) 0)
  | .rallyGo h i c => some (hdN 0x2C0 h, .fi 0 0 1 0 (i.toNat + 16 * c.toNat) 0)
  | .crallyGo h => some (hdN 0x2C1 h, .fi 0 0 0 0 0 0)
  | .crallyHold h => some (hdN 0x2C1 h, .fi 0 0 1 0 0 0)
  | .crally h => some (hdN 0x2C1 h, .fi 0 0 2 0 0 0)
  | .barinit h off n i => some (encM0 (hdN 0x2C2 h) (srcN off) (srcN n) i.toNat)
  | .arrive h d off n i => some (encM0 (hdD 0x2C3 h d) (srcN off) (srcN n) i.toNat)
  | .trywait h d off t i => some (encM0 (hdD 0x2C4 h d) (srcN off) (srcN t) i.toNat)
  | .wait h off t i => some (encM0 (hdN 0x2C5 h) (srcN off) (srcN t) i.toNat)
  | .mxacq h => some (encX (hdN 0x300 h) 0 0 0 0 0 0 0 0)
  | .mxrel h => some (encX (hdN 0x301 h) 0 0 0 0 0 0 0 0)
  | .mma h ac cv f a dh rw o =>
    some (encX (hdN 0x302 h) 0 (bN o) rw.toNat dh.toNat (srcN a) (srcN f) cv.toNat ac.toNat)
  | .mxrun h ac cv f a dh rw o =>
    some (encX (hdN 0x303 h) 0 (bN o) rw.toNat dh.toNat (srcN a) (srcN f) cv.toNat ac.toNat)
  | .mxwait h d cv => some (encX (hdD 0x304 h d) 0 0 0 0 0 0 cv.toNat 0)
  | .dkld h f a dh sl rf => some (encX (hdN 0x305 h) (bN rf) 0 sl.toNat dh.toNat (srcN a) (srcN f) 0 0)
  | .dkfree h dh => some (encX (hdN 0x306 h) 0 0 0 dh.toNat 0 0 0 0)
  | .accz h ac => some (encX (hdN 0x307 h) 0 0 0 0 0 0 0 ac.toNat)
  | .accrd h ac cv r o rw => some (encX (hdN 0x308 h) 0 0 rw.toNat 0 (srcN o) (srcN r) cv.toNat ac.toNat)
  | .accwr h ac cv r o rw => some (encX (hdN 0x309 h) 0 0 rw.toNat 0 (srcN o) (srcN r) cv.toNat ac.toNat)
  | .acccvt h ac cv r o rw => some (encX (hdN 0x30A h) 0 0 rw.toNat 0 (srcN o) (srcN r) cv.toNat ac.toNat)
  | .accstat h d ac c => some (encX (hdD 0x30B h d) 0 (bN c) 0 0 0 0 0 ac.toNat)
  | .opfence h => some (encX (hdN 0x30C h) 0 0 0 0 0 0 0 0)
  | .xpost h d off c => some (encM0 (hdD 0x340 h d) (srcN off) 0 c.toNat)
  | .xcancel h d i => some (encM0 (hdD 0x341 h d) (srcN i) 0 0)
  | .xquery h d i => some (encM0 (hdD 0x342 h d) (srcN i) 0 0)
  | .trap h c => some (encS (hdN 0x380 h) 0 c.toNat 0 0 0)
  | .svcInfo h d a b => some (encS (hdD 0x381 h d) 0 0 (srcN b) (srcN a) 0)
  | .svcReside h d a b => some (encS (hdD 0x381 h d) 0 0 (srcN b) (srcN a) 1)
  | .svcNotify h d a b => some (encS (hdD 0x381 h d) 0 0 (srcN b) (srcN a) 2)
  | .svcBias h d a b => some (encS (hdD 0x381 h d) 0 0 (srcN b) (srcN a) 3)
  | .svcUndefined h d n a b => some (encS (hdD 0x381 h d) 0 0 (srcN b) (srcN a) n.toNat)
  | .resume h => some (encS (hdN 0x382 h) 0 0 0 0 0)
  | .resumeNext h => some (encS (hdN 0x382 h) 1 0 0 0 0)
  | .frec h d f r => some (encS (hdD 0x383 h d) r.toNat 0 0 0 f.toNat)
  | .ffixMap h d r => some (encS (hdD 0x384 h d) r.toNat 0 0 0 0)
  | .ffixEmul h d r x => some (encS (hdD 0x385 h d) r.toNat 0 0 (srcN x) 0)
  | .ffixSkip h r => some (encS (hdN 0x386 h) r.toNat 0 0 0 0)
  | .bpt h i => some (encS (hdN 0x387 h) 0 i.toNat 0 0 0)
  | .srd h d i => some (encS (hdD 0x388 h d) 0 0 0 0 i.toNat)
  | .swr h i a => some (encS (hdN 0x389 h) 0 0 0 (srcN a) i.toNat)
  | .acct h d c q s => some (encS (hdD 0x38A h d) (bN q) (bN s) 0 0 c.toNat)
  | .acctSnap h => some (encS (hdN 0x38A h) 0 0 0 0 18)
  | .cnt h d n s => some (encS (hdD 0x38B h d) 0 (bN s) 0 0 n.toNat)
  | .mark h c a => some (encS (hdN 0x38C h) 0 c.toNat 0 (srcN a) 0)
  | _ => none

/-- The canonical word of an instruction (R58); 0, which is no word, for an event. -/
def encode (i : Instr) : Word :=
  match toFields i with
  | some (h, b) => BitVec.ofNat 96 (packWord h b)
  | none => 0

/-- The head fields as an instruction carries them. -/
def Head.hd (h : Head) : Hd := ⟨h.e == 1, BitVec.ofNat 6 h.g, h.gn == 1⟩
/-- The destination fields. -/
def Head.dv (h : Head) : Dv := ⟨BitVec.ofNat 8 h.dst, h.d == 1, BitVec.ofNat 2 h.lt⟩
/-- The destination fields with UD. -/
def Head.du (h : Head) (ud : Nat) : Du := ⟨ud == 1, BitVec.ofNat 8 h.dst, h.d == 1, BitVec.ofNat 2 h.lt⟩

/-- F-A and F-I integer opcodes (R85). -/
def parseInt (n : Nat) (h : Head) (ud md : Nat) (ty : Option Ty) (tc : Nat) (sa sb sc : Option Src)
    (fsc : Nat) : Option Instr := do
  let k := h.hd
  let d := h.du ud
  let tab := BitVec.ofNat 8 (tc * 8 + md)
  match n with
  | 0x00 => return .zadd k d (← ty) (md == 1) (← sa) (← sb)
  | 0x01 => return .zsub k d (← ty) (md == 1) (← sa) (← sb)
  | 0x02 => return .zmul k d (← ty) (partOf md) (← sa) (← sb)
  | 0x03 => return .zmac k d (← ty) (partOf md) (← sa) (← sb) (← sc)
  | 0x04 => return .zmin k d (← ty) (← sa) (← sb)
  | 0x05 => return .zmax k d (← ty) (← sa) (← sb)
  | 0x06 => return .ltab k d tab (← sa) (← sb) (← sc)
  | 0x07 => return .shl k d (← ty) (md == 1) (← sa) (← sb)
  | 0x08 => return .shr k d (← ty) (md == 1) (← sa) (← sb)
  | 0x09 => return .shf k d (md % 2 == 1) (md / 2 == 1) (← sa) (← sb) (← sc)
  | 0x0A => return .bfe k d (← ty) (← sa) (← sb)
  | 0x0B => return .bfi k d (← sa) (← sb) (← sc)
  | 0x0C => return .popc k d (← ty) (← sa)
  | 0x0D => return .clz k d (← ty) (← sa)
  | 0x0E => return .ctz k d (← ty) (← sa)
  | 0x0F => return .brev k d (← ty) (← sa)
  | 0x10 => return .bysel k d (← sa) (← sb) (← sc)
  | 0x11 => return .zcmp k h.dv (← ty) (← cmpOf md) (← sa) (← sb)
  | 0x12 => return .sel k d (← ty) (← sa) (← sb) (psrcOf fsc)
  | 0x13 => return .mov k d (← ty) (← sa)
  | 0x14 => return .aadd k d (← ty) (BitVec.ofNat 3 md) (← sa) (← sb)
  | _ => none

/-- F-I integer opcodes: n is the opcode less 0x040 (R85). -/
def parseIntImm (n : Nat) (h : Head) (ud md : Nat) (ty : Option Ty) (sa : Option Src) (i : W32) :
    Option Instr := do
  let k := h.hd
  let d := h.du ud
  match n with
  | 0x00 => return .zaddImm k d (← ty) (md == 1) (← sa) i
  | 0x02 => return .zmulImm k d (← ty) (partOf md) (← sa) i
  | 0x04 => return .zminImm k d (← ty) (← sa) i
  | 0x05 => return .zmaxImm k d (← ty) (← sa) i
  | 0x07 => return .shlImm k d (← ty) (md == 1) (← sa) i
  | 0x08 => return .shrImm k d (← ty) (md == 1) (← sa) i
  | 0x0A => return .bfeImm k d (← ty) (← sa) i
  | 0x10 => return .byselImm k d (← sa) i
  | 0x11 => return .zcmpImm k h.dv (← ty) (← cmpOf md) (← sa) i
  | 0x13 => return .movImm k d (← ty) i
  | 0x14 => return .aaddImm k d (← ty) (BitVec.ofNat 3 md) (← sa) i
  | _ => none

/-- F-A opcodes of class 0b001: n is the opcode less 0x080 (R86). -/
def parsePred (n : Nat) (h : Head) (ud md : Nat) (ty : Option Ty) (tc : Nat) (sa sb : Option Src)
    (fa fb fc : Nat) : Option Instr := do
  let k := h.hd
  match n with
  | 0x00 => return .qtab k h.dv (BitVec.ofNat 8 (tc * 8 + md)) (psrcOf fa) (psrcOf fb) (psrcOf fc)
  | 0x01 => return .qget k (h.du ud) (md == 1)
  | 0x02 => return .qset k (md == 1) (← sa) (← sb)
  | 0x03 => return .poll k (h.du ud) (← pollOf md) (psrcOf fa)
  | 0x04 => return .peers k h.dv (← ty) (md == 1) (← sa)
  | 0x05 => return .lxch k h.dv (← ty) (← xchOf md) (← sa) (← sb)
  | 0x06 => return .lred k (h.du ud) (← ty) (← redOf md) (← sa)
  | 0x07 => return .lead k h.dv
  | _ => none

/-- F-B opcodes: n is the opcode less 0x0C0 (R86). -/
def parseCtl (n : Nat) (h : Head) (imm bsub jb off : Nat) (s : Option Src) : Option Instr := do
  let k := h.hd
  let o := BitVec.ofNat 32 off
  let j := BitVec.ofNat 4 jb
  match n with
  | 0x0 => return .bra k o
  | 0x1 => return .brx k o (← s)
  | 0x2 => if bsub == 1 then return .callInd k h.dv o (← s) else return .call k h.dv o
  | 0x3 => return .ret k (← s)
  | 0x4 => return .joinArm k j
  | 0x5 => return .joinWait k j
  | 0x6 => return .joinBreak k j
  | 0x7 => return .exit k
  | 0x8 => return .nop k
  | 0x9 => return .yield k
  | 0xA => return .vpoint k (BitVec.ofNat 6 imm)
  | _ => none

/-- F-A opcodes of class 0b010: n is the opcode less 0x100 (R87). -/
def parseFloat (n : Nat) (h : Head) (ud md : Nat) (ty : Option Ty) (sa sb sc : Option Src) :
    Option Instr := do
  let k := h.hd
  let d := h.du ud
  let r := rndOf md
  match n with
  | 0x00 => return .fadd k d (← ty) (← r) (← sa) (← sb)
  | 0x01 => return .fsub k d (← ty) (← r) (← sa) (← sb)
  | 0x02 => return .fmul k d (← ty) (← r) (← sa) (← sb)
  | 0x03 => return .fmac k d (← ty) (← r) (← sa) (← sb) (← sc)
  | 0x04 => return .fmin k d (← ty) (← sa) (← sb)
  | 0x05 => return .fmax k d (← ty) (← sa) (← sb)
  | 0x06 => return .fabs k d (← ty) (← sa)
  | 0x07 => return .fneg k d (← ty) (← sa)
  | 0x08 => return .fdiv k d (← ty) (← r) (← sa) (← sb)
  | 0x09 => return .fcmp k h.dv (← ty) (← fcmpOf md) (← sa) (← sb)
  | 0x0A => return .fclass k d (← ty) (← sa)
  | 0x10 => return .frcp k d (← sa)
  | 0x11 => return .fsqrt k d (← ty) (← r) (← sa)
  | 0x12 => return .frsq k d (← sa)
  | 0x13 => return .fexp2 k d (← sa)
  | 0x14 => return .flog2 k d (← sa)
  | 0x15 => return .fsin k d (← sa)
  | 0x16 => return .fcos k d (← sa)
  | 0x17 => return .ftanh k d (← sa)
  | 0x20 => return .f2add k d (← ty) (← r) (← sa) (← sb)
  | 0x21 => return .f2mul k d (← ty) (← r) (← sa) (← sb)
  | 0x22 => return .f2mac k d (← ty) (← r) (← sa) (← sb) (← sc)
  | 0x23 => return .f2min k d (← ty) (← sa) (← sb)
  | 0x24 => return .f2max k d (← ty) (← sa) (← sb)
  | _ => none

/-- F-I opcodes of class 0b010: n is the opcode less 0x140 (R87). -/
def parseFloatImm (n : Nat) (h : Head) (ud md : Nat) (ty : Option Ty) (sa : Option Src) (i : W32) :
    Option Instr := do
  let k := h.hd
  let d := h.du ud
  match n with
  | 0x0 => return .faddImm k d (← ty) (← rndOf md) (← sa) i
  | 0x2 => return .fmulImm k d (← ty) (← rndOf md) (← sa) i
  | 0x4 => return .fminImm k d (← ty) (← sa) i
  | 0x5 => return .fmaxImm k d (← ty) (← sa) i
  | _ => none

/-- F-A opcodes of class 0b011: n is the opcode less 0x180 (R88, R73). -/
def parseCvt (n : Nat) (h : Head) (ud md : Nat) (ty : Option Ty) (sa sb : Option Src) (fsc : Nat) :
    Option Instr := do
  let k := h.hd
  let d := h.du ud
  let r := rndOf md
  let ts := tyOf (fsc / 2 ^ 14)
  let sf := fsc / 2 ^ 11 % 2 == 1
  match n with
  | 0x0 => return .cvt k d (← ty) (← ts) (← r) sf (← sa)
  | 0x1 => return .pcvt k h.dv (← ty) (← ts) (← cntOf (fsc / 2 ^ 12 % 4)) (← r) sf (← sa) (← sb)
  | 0x2 => return .fmtw k d (← sa)
  | 0x3 => return .pack k d (← ty) (← sa) (← sb)
  | 0x4 => return .unpk k h.dv (← ty) (md == 1) (← sa)
  | 0x5 => return .frnd k d (← ty) (← r) (← sa)
  | 0x6 => return .fldex k d (← ty) (← r) (← sa) (← sb)
  | _ => none

/-- The load and store family: n is the opcode less 0x200 (R89). -/
def parseLs (n : Nat) (h : Head) (q : Option MemQ) (bead b imm : Nat) (off dat : Option Src) :
    Option Instr := do
  let k := h.hd
  let r := BitVec.ofNat 8 h.dst
  let z ← sizeOf' (n % 8)
  let q ← q
  let b := BitVec.ofNat 4 b
  let i := BitVec.ofNat 12 imm
  match n / 8 with
  | 0 => return .ld k r z q b (← off) i
  | 1 => return .st k z q b (← off) (← dat) i
  | 2 => return .ldx k r z q (← off) i
  | 3 => return .stx k z q (← off) (← dat) i
  | 4 => return .lds k r z q (← beadOf bead) (← off) i
  | 5 => return .sts k z q (bead == 3) (← off) (← dat) i
  | 6 => return .ldcl k r z q (← off) i
  | 7 => return .stcl k z q (← off) (← dat) i
  | _ => none

/-- The rest of class 0b100: n is the opcode less 0x240 (R89). -/
def parseMem (n : Nat) (h : Head) (q : Option MemQ) (ord pol scope dom b imm : Nat) (off : Option Src) :
    Option Instr := do
  let k := h.hd
  let i := BitVec.ofNat 12 imm
  let rb := BitVec.ofNat 4 b
  let sp := BitVec.ofNat 2 imm
  match n with
  | 0x0 => return .bset k (← off) i
  | 0x1 => return .bclr k (← off) i
  | 0x2 => return .btest k h.dv (← off) i
  | 0x3 =>
    if imm / 2 == 1 then return .pref k (imm % 2 == 1) (← polOf pol) rb (some (← off))
    else return .pref k (imm % 2 == 1) (← polOf pol) rb none
  | 0x4 => return .prefDemote k rb
  | 0x5 => return .bridge k (← domOf dom) (← domOf imm) (← scopeOf scope)
  | 0x6 => return .fence k (← domOf dom) (← scopeOf scope) (← ordOf ord)
  | 0x7 => return .monitor k (← domOf dom) (← scopeOf scope) (← off) i
  | 0x8 => return .mwait k h.dv (← off)
  | 0x9 => if imm / 8 == 1 then return .acvtFromgen k h.dv sp (← off) else return .acvtTogen k h.dv sp (← off)
  | 0xA => return .atest k h.dv (BitVec.ofNat 3 imm) (← off)
  | 0xB => return .ldrec k (← q) rb (← off) i
  | _ => none

/-- ATOM and RED: n is the opcode less 0x280 (R90, R202). -/
def parseAtom (n : Nat) (h : Head) (q : Option MemQ) (bead b imm : Nat) (off dat : Option Src) :
    Option Instr := do
  let k := h.hd
  let op ← aopOf (n % 32 / 2)
  let w := n % 2 == 1
  let am ← amOf bead
  let rb := BitVec.ofNat 4 b
  let i := BitVec.ofNat 12 imm
  if n < 32 then return .atom k (BitVec.ofNat 8 h.dst) op w (← q) am rb (← off) (← dat) i
  else return .red k op w (← q) am rb (← off) (← dat) i

/-- RALLY and CRALLY (R90, R245, R246). -/
def parseRally (n : Nat) (h : Head) (md imm : Nat) : Option Instr :=
  let k := h.hd
  let i := BitVec.ofNat 4 imm
  let c := BitVec.ofNat 6 (imm / 16)
  match n, md with
  | 0, 0 => some (.rally k i c)
  | 0, 1 => some (.rallyGo k i c)
  | 1, 0 => some (.crallyGo k)
  | 1, 1 => some (.crallyHold k)
  | 1, 2 => some (.crally k)
  | _, _ => none

/-- BARINIT, ARRIVE, TRYWAIT and WAIT: n is the opcode less 0x2C2 (R90, R243). -/
def parseBar (n : Nat) (h : Head) (imm : Nat) (off dat : Option Src) : Option Instr := do
  let k := h.hd
  let i := BitVec.ofNat 12 imm
  match n with
  | 0 => return .barinit k (← off) (← dat) i
  | 1 => return .arrive k h.dv (← off) (← dat) i
  | 2 => return .trywait k h.dv (← off) (← dat) i
  | 3 => return .wait k (← off) (← dat) i
  | _ => none

/-- F-X opcodes: n is the opcode less 0x300 (R91, R225). -/
def parseMx (n : Nat) (h : Head) (ref amode rows dh cv acc : Nat) (ads fmt : Option Src) :
    Option Instr := do
  let k := h.hd
  let ac := BitVec.ofNat 3 acc
  let c := BitVec.ofNat 3 cv
  let d := BitVec.ofNat 4 dh
  let rw := BitVec.ofNat 7 rows
  let o := amode == 1
  match n with
  | 0x0 => return .mxacq k
  | 0x1 => return .mxrel k
  | 0x2 => return .mma k ac c (← fmt) (← ads) d rw o
  | 0x3 => return .mxrun k ac c (← fmt) (← ads) d rw o
  | 0x4 => return .mxwait k h.dv c
  | 0x5 => return .dkld k (← fmt) (← ads) d rw (ref == 1)
  | 0x6 => return .dkfree k d
  | 0x7 => return .accz k ac
  | 0x8 => return .accrd k ac c (← fmt) (← ads) rw
  | 0x9 => return .accwr k ac c (← fmt) (← ads) rw
  | 0xA => return .acccvt k ac c (← fmt) (← ads) rw
  | 0xB => return .accstat k h.dv ac o
  | 0xC => return .opfence k
  | _ => none

/-- XPOST, XCANCEL and XQUERY: n is the opcode less 0x340 (R91). -/
def parseXfer (n : Nat) (h : Head) (imm : Nat) (off : Option Src) : Option Instr := do
  match n with
  | 0 => return .xpost h.hd h.dv (← off) (BitVec.ofNat 4 imm)
  | 1 => return .xcancel h.hd h.dv (← off)
  | 2 => return .xquery h.hd h.dv (← off)
  | _ => none

/-- F-S opcodes: n is the opcode less 0x380 (R92, R260). -/
def parseSys (n : Nat) (h : Head) (sub imm sel : Nat) (sa sb : Option Src) : Option Instr := do
  let k := h.hd
  let d := h.dv
  let fr := BitVec.ofNat 2 sub
  let s8 := BitVec.ofNat 8 sel
  match n with
  | 0x0 => return .trap k (BitVec.ofNat 16 imm)
  | 0x1 =>
    match sel with
    | 0 => return .svcInfo k d (← sa) (← sb)
    | 1 => return .svcReside k d (← sa) (← sb)
    | 2 => return .svcNotify k d (← sa) (← sb)
    | 3 => return .svcBias k d (← sa) (← sb)
    | _ => return .svcUndefined k d s8 (← sa) (← sb)
  | 0x2 => if sub == 1 then return .resumeNext k else return .resume k
  | 0x3 => return .frec k d s8 (BitVec.ofNat 4 sub)
  | 0x4 => return .ffixMap k d fr
  | 0x5 => return .ffixEmul k d fr (← sa)
  | 0x6 => return .ffixSkip k fr
  | 0x7 => return .bpt k (BitVec.ofNat 16 imm)
  | 0x8 => return .srd k d s8
  | 0x9 => return .swr k s8 (← sa)
  | 0xA => if sel == 18 then return .acctSnap k else return .acct k d s8 (sub == 1) (imm == 1)
  | 0xB => return .cnt k d (BitVec.ofNat 6 sel) (imm == 1)
  | 0xC => return .mark k (BitVec.ofNat 16 imm) (← sa)
  | _ => none

/-- The qualifier fields of F-M; none when a code is reserved (R77). -/
def memQOf (dom scope ord pol : Nat) : Option MemQ := do
  return ⟨← domOf dom, ← scopeOf scope, ← ordOf ord, ← polOf pol⟩

/-- The instruction of a word's fields; none where the opcode is unassigned or a code is reserved. -/
def ofFields (h : Head) : Body → Option Instr
  | .fa ud md ty sc sb sa =>
    match h.opc / 128 with
    | 0 => parseInt h.opc h ud md (tyOf ty) ty (srcOf sa) (srcOf sb) (srcOf sc) sc
    | 1 => parsePred (h.opc % 128) h ud md (tyOf ty) ty (srcOf sa) (srcOf sb) sa sb sc
    | 2 => parseFloat (h.opc % 128) h ud md (tyOf ty) (srcOf sa) (srcOf sb) (srcOf sc)
    | 3 => parseCvt (h.opc % 128) h ud md (tyOf ty) (srcOf sa) (srcOf sb) sc
    | _ => none
  | .fi _ ud md ty imm sa =>
    match h.opc / 64 with
    | 1 => parseIntImm (h.opc % 64) h ud md (tyOf ty) (srcOf sa) (BitVec.ofNat 32 imm)
    | 5 => parseFloatImm (h.opc % 64) h ud md (tyOf ty) (srcOf sa) (BitVec.ofNat 32 imm)
    | 7 => if h.opc = 0x1C2 then some (.fmtwImm h.hd (h.du ud) (BitVec.ofNat 32 imm)) else none
    | 11 => parseRally (h.opc % 64) h md imm
    | _ => none
  | .fm bead ord pol scope dom imm dat off b =>
    let q := memQOf dom scope ord pol
    match h.opc / 64 with
    | 8 => parseLs (h.opc % 64) h q bead b imm (srcOf off) (srcOf dat)
    | 9 => parseMem (h.opc % 64) h q ord pol scope dom b imm (srcOf off)
    | 10 => parseAtom (h.opc % 64) h q bead b imm (srcOf off) (srcOf dat)
    | 11 => parseBar (h.opc % 64 - 2) h imm (srcOf off) (srcOf dat)
    | 13 => parseXfer (h.opc % 64) h imm (srcOf off)
    | _ => none
  | .fb imm bsub sind jb off =>
    if h.opc / 64 = 3 then parseCtl (h.opc % 64) h imm bsub jb off (srcOf sind) else none
  | .fx _ ref amode rows dh ads fmt cv acc =>
    if h.opc / 64 = 12 then parseMx (h.opc % 64) h ref amode rows dh cv acc (srcOf ads) (srcOf fmt) else none
  | .fs sub imm sb sa sel =>
    if h.opc / 64 = 14 then parseSys (h.opc % 64) h sub imm sel (srcOf sa) (srcOf sb) else none

/-- What decoding a word gives. -/
inductive Decoded
  | ok (i : Instr)
  | illegal (why : Illegal)
  deriving DecidableEq, Repr

/-- Opcodes that stand for an instruction (R84 to R92). -/
def assigned (opc : Nat) : Bool :=
  let n := opc % 64
  match opc / 64 with
  | 0 => n ≤ 0x14
  | 1 => n ∈ [0, 2, 4, 5, 7, 8, 10, 0x10, 0x11, 0x13, 0x14]
  | 2 => n ≤ 7
  | 3 => n ≤ 10
  | 4 => n ≤ 10 || (0x10 ≤ n && n ≤ 0x17) || (0x20 ≤ n && n ≤ 0x24)
  | 5 => n ∈ [0, 2, 4, 5]
  | 6 => n ≤ 6
  | 7 => n == 2
  | 8 => n % 8 ≤ 4
  | 9 => n ≤ 11
  | 10 => n % 32 / 2 ≤ 10 && (n < 32 || (n % 32 / 2 != 8 && n % 32 / 2 != 9))
  | 11 => n ≤ 5
  | 12 => n ≤ 12
  | 13 => n ≤ 2
  | 14 => n ≤ 12
  | _ => false

/-- The decoder of a canonical word: total, and every rejection has its name (R94). -/
def decodeWord (w : Word) : Decoded :=
  if !assigned (w.toNat / 2 ^ 86) then .illegal .undefinedOpcode
  else
    match (unpackWord w.toNat).bind (fun p => ofFields p.1 p.2) with
    | none => .illegal .reservedCode
    | some i =>
      match formCheck i with
      | some why => .illegal why
      | none => if encode i = w then .ok i else .illegal .unusedField

/-- A short opcode's opcode, word bits [9:1], whether it is unary, and SC (R93). -/
def shortTable (sop : Nat) : Option (Nat × Nat × Bool × Nat) :=
  let m := fun (ty : Nat) => ty * 16
  match sop with
  | 0x00 => some (0x000, m 2, false, 0)
  | 0x01 => some (0x001, m 2, false, 0)
  | 0x02 => some (0x002, m 2, false, 0)
  | 0x03 => some (0x004, m 2, false, 0)
  | 0x04 => some (0x005, m 2, false, 0)
  | 0x05 => some (0x004, m 6, false, 0)
  | 0x06 => some (0x005, m 6, false, 0)
  | 0x07 => some (0x007, m 10, false, 0)
  | 0x08 => some (0x008, m 6, false, 0)
  | 0x09 => some (0x008, m 2, false, 0)
  | 0x0A => some (0x006, 0x88 * 2, false, 0x60000)
  | 0x0B => some (0x006, 0xEE * 2, false, 0x60000)
  | 0x0C => some (0x006, 0x66 * 2, false, 0x60000)
  | 0x0D => some (0x013, m 10, true, 0)
  | 0x0E => some (0x00C, m 10, true, 0)
  | 0x0F => some (0x00D, m 10, true, 0)
  | 0x20 => some (0x100, m 14, false, 0)
  | 0x21 => some (0x101, m 14, false, 0)
  | 0x22 => some (0x102, m 14, false, 0)
  | 0x23 => some (0x104, m 14, false, 0)
  | 0x24 => some (0x105, m 14, false, 0)
  | 0x25 => some (0x120, m 12, false, 0)
  | 0x26 => some (0x121, m 12, false, 0)
  | 0x27 => some (0x120, m 13, false, 0)
  | 0x28 => some (0x121, m 13, false, 0)
  | 0x29 => some (0x110, m 14, true, 0)
  | 0x2A => some (0x111, m 14, true, 0)
  | 0x2B => some (0x112, m 14, true, 0)
  | 0x2C => some (0x113, m 14, true, 0)
  | 0x2D => some (0x114, m 14, true, 0)
  | 0x2E => some (0x106, m 14, true, 0)
  | 0x2F => some (0x107, m 14, true, 0)
  | _ => none

/-- The canonical word that a 48-bit short form expands to (R82, R83). An undefined short opcode keeps its head and gets the
unassigned opcode 0x3FF, so it traps when it issues (R93, R94, log 8). -/
def expandShort (x : Nat) : Word :=
  let bit := fun n => x / 2 ^ n % 2
  let sa := bit 3 * 2 ^ 17 + x / 2 ^ 17 % 256 * 512 + bit 16 * 256
  let sb := bit 2 * 2 ^ 17 + x / 2 ^ 8 % 256 * 512 + bit 7 * 256
  let h := fun opc => Head.mk opc (bit 33) (x / 2 ^ 34 % 64) 0 (x / 2 ^ 25 % 256) (bit 4) (x / 2 ^ 5 % 4)
  let w := match shortTable (x / 2 ^ 40 % 256) with
    | some (opc, mods, unary, c) => packWord (h opc) (.fa (mods % 2) (mods / 2 % 8) (mods / 16) c (if unary then 0 else sb) sa)
    | none => packWord (h 0x3FF) (.fa 0 0 0 0 sb sa)
  BitVec.ofNat 96 w

/-- A short form that raises ILLEGAL whatever its canonical word is: its reserved bit is 1 (R94), or a unary entry's B fields
are not 0 (R83). -/
def shortBad (x : Nat) : Bool :=
  x / 2 % 2 == 1 || (match shortTable (x / 2 ^ 40 % 256) with
    | some (_, _, unary, _) => unary && (x / 4 % 2 != 0 || x / 2 ^ 8 % 256 != 0 || x / 2 ^ 7 % 2 != 0)
    | none => false)

/-- A stored form: its canonical word, its length in bytes, and whether it is a short form that traps as such. -/
structure Form where
  word : Word
  len : Nat
  bad : Bool
  deriving DecidableEq, Repr

/-- The form at the front of a byte stream (R48, R49); none when the bytes end first. -/
def takeForm (bs : List Byte) : Option Form :=
  match bs with
  | [] => none
  | b :: _ =>
    let n := if b.toNat % 2 = 1 then 12 else 6
    if bs.length < n then none
    else
      let x := leNat (bs.take n)
      some (if n = 12 then ⟨BitVec.ofNat 96 x, n, false⟩ else ⟨expandShort x, n, shortBad x⟩)

/-- Decoding a form: a short form that traps as such is no instruction (R83, R94). -/
def decodeForm (w : Word) (bad : Bool) : Decoded := if bad then .illegal .unusedField else decodeWord w

/-- Decoding from bytes: an instruction or a named rejection, with the rest of the stream. -/
def decodeBytes (bs : List Byte) : Option (Decoded × List Byte) :=
  (takeForm bs).map fun f => (decodeForm f.word f.bad, bs.drop f.len)

/-- The instruction whose stored bits are w, bit 0 the lowest bit of its first byte: the bytes go
through `decodeBytes`. -/
def decodeTableWord (_nbits w : Nat) : Option Instr :=
  match decodeBytes (leBytes 12 w) with
  | some (.ok i, _) => some i
  | _ => none

end Sys2Proof
end

