-- ==== Sys2Proof/Machine/Cells.lean ====
section
/-! DEFINITION. Sparse tables: values under rising keys. -/

namespace Sys2Proof.Machine

/-- The value under key k, or the default d. -/
def cget {α : Type} (c : Cells α) (d : α) (k : Nat) : α :=
  match c.find? (fun p => p.1 == k) with
  | some p => p.2
  | none => d

/-- The table without key k. -/
def cdel {α : Type} (c : Cells α) (k : Nat) : Cells α := c.filter (fun p => p.1 != k)

/-- Inserts at the key's place; used on tables without that key. -/
def cins {α : Type} : Cells α → Nat → α → Cells α
  | [], k, v => [(k, v)]
  | p :: r, k, v => if k < p.1 then (k, v) :: p :: r else p :: cins r k v

/-- The table with v under k, listed whatever v is. -/
def cput {α : Type} (c : Cells α) (k : Nat) (v : α) : Cells α := cins (cdel c k) k v

/-- The table with v under k; an entry equal to the default d is not listed. -/
def cset {α : Type} [DecidableEq α] (c : Cells α) (d : α) (k : Nat) (v : α) : Cells α :=
  if v = d then cdel c k else cput c k v

/-- The table without the keys from lo up to, not including, hi. -/
def cclear {α : Type} (c : Cells α) (lo hi : Nat) : Cells α :=
  c.filter (fun p => p.1 < lo || hi ≤ p.1)

/-- Keys strictly rising. -/
def csorted {α : Type} : Cells α → Bool
  | [] => true
  | [_] => true
  | p :: q :: r => p.1 < q.1 && csorted (q :: r)

/-- Adds n to a counter. -/
def cadd (c : Cells Nat) (k n : Nat) : Cells Nat := cset c 0 k (cget c 0 k + n)

end Sys2Proof.Machine
end

