-- ==== Sys2Proof/Config.lean ====
section
/-! DEFINITION. What an implementation fixes and the free values. Every constant without a body is a
value the manual leaves open: nothing in the model can evaluate it. -/

namespace Sys2Proof

/-- UNKNOWN (R9, R10): the n-th free 64-bit value; n is the counter `State.ctr`. Log 3. -/
opaque Config.unknown64 : Nat → W64

/-- The byte an address outside device memory holds before anything wrote it: host memory and the
memory of peer devices, whose contents the manual does not give. Log 2. -/
opaque Config.outsideByte : Nat → Byte

/-- The byte a scratchpad or lane-slice location holds before it is written: UNKNOWN (R358, R359).
The first argument is the draw (`State.ctr` at the block's start), the second the byte. Log 3. -/
opaque Config.startByte : Nat → Nat → Byte

/-- The special functions' own approximations (R164): not published. The first argument is the opcode,
the second the input's bits. `Machine/Special.lean` keeps the result within the bounds. Log 6. -/
opaque Config.sfu : Nat → W32 → W32

/-- Entries of one domain's store queue of a core (R365): the manual gives no number. Log 13. -/
opaque Config.storeQueue : Nat

/-- The fabric device id that Usxon assigns at bring-up (R519). Log 3. -/
opaque Config.deviceId : BitVec 16

/-- The version number that the running Usxon image carries (R506). Log 3. -/
opaque Config.usxonVersion : W64

/-- Whether Usxon has exported an address of this device's memory to a device, for reading or for writing (R521):
the first argument is the moment (`State.ctr`). Log 3. -/
opaque Config.exported : Nat → Nat → Nat → Bool → Bool

/-- What a byte of a 64-byte granule of device memory reads as under another key or tweak than its ciphertext was made with (R499): the
two, the granule as it was written, and the byte's place in it. Log 96. -/
opaque Config.recrypt : Nat → Nat → Nat → Nat → Byte

/-- Bytes of AES and signature output, whose keys no interface can read (R471, R499, R500, R503):
the first argument names the use, the second the byte. Log 7. -/
opaque Config.cryptByte : Nat → Nat → Byte

/-- A byte of a field of a save area whose inner layout the manual does not give (R470, R330): it depends on what the field holds, the
first argument, and on the byte's place in the field, the second. Log 7. -/
opaque Config.layoutByte : List Nat → Nat → Byte

/-- Usxon finds the device memory of a context's handler tile regions (R461), at a moment (`State.ctr`). Log 46. -/
opaque Config.deviceRoom : Nat → Bool

/-- The tag of an encrypted save area holds when it is restored (R500), at a moment (`State.ctr`). Log 7. -/
opaque Config.tagHolds : Nat → Bool

/-- Image k that a step of bring-up verifies (R503, R533), 1 the security processor's firmware and 2 Usxon: its signature is valid
under the fused key. Log 3. -/
opaque Config.imageSigned : Nat → Bool

/-- The version number that the security processor's firmware carries (R503). Log 3. -/
opaque Config.firmwareVersion : Nat

/-- The version number that image k carries (R503). -/
def Config.imageVersion (k : Nat) : Nat := if k = 2 then Config.usxonVersion.toNat else Config.firmwareVersion

/-- The fused rollback count that image k's version is held to (R503). Log 3. -/
opaque Config.rollback : Nat → Nat

/-- The ring of the physical function's device stream at a moment (`State.ctr`), when Usxon has enabled it (R345): its place in
device memory, the log2 of its data area, and the exponent. The manual names no command for it. Log 58. -/
opaque Config.deviceStream : Nat → Option (Nat × Nat × Nat)

/-- Device memory in bytes: 768 GiB (R2). -/
def Config.deviceBytes : Nat := 768 * 2 ^ 30

end Sys2Proof
end

