-- ==== Sys2Proof/Machine/State.lean ====
section
/-! DEFINITION. The state of the machine: everything the manual names, as plain data. INVENTORY.md lists
each piece with its rule and its value at reset. -/

namespace Sys2Proof.Machine

/-- Trap, fault and kill kinds (R265). -/
inductive Kind
  | illegal | regUndef | range | misalign | fmtDiverge | userTrap
  | fpInvalid | fpDivzero | fpOverflow | fpUnderflow | fpInexact | memPark
  | notPresent | readDenied | writeDenied | domainFloor | poison | walk | hostPage | deferred
  | refused | liveError | controlParity | cluster
  deriving DecidableEq, Repr, Inhabited

/-- The Reckoner's causes, in the order of their codes (R335). -/
inductive Cause
  | issued | noWarp | preempt | trap | switch | fetch | swap | regAlloc | barrier | engine
  | translation | memory | dependence | pipe | arbitration | singlePc | throttle
  deriving DecidableEq, Repr, Inhabited

/-- One fetched instruction of a run: its PC, its canonical word and its length in bytes (R51, R55); `bad`: it is a short form
that traps as such (R83). -/
structure Fetched where
  pc : W64
  word : Word
  len : Nat
  bad : Bool
  deriving DecidableEq, Repr, Inhabited

/-- A position in a run (R46): the run's start, its fetched instructions (none before the fetch), and
the offset, counted in instructions. -/
structure Pos where
  start : W64
  run : List Fetched
  off : Nat
  deriving DecidableEq, Repr, Inhabited

/-- The record of a precise trap or a MEM-PARK stop of one lane (R438, R263). -/
structure TrapRec where
  kind : Kind
  pc : W64
  code : BitVec 16
  word : Word
  mask : LMask
  deriving DecidableEq, Repr, Inhabited

/-- The four latches of a lane (R14). -/
structure Latches where
  x0 : W64
  x1 : W64
  x2 : W64
  x3 : W64
  deriving DecidableEq, Repr, Inhabited

/-- What the core reports of a fetch fault (R56): its kind and level, the first byte of the instruction, whether that
instruction lies in two lines, and the intermediate address of the line that faulted. -/
structure FetchFault where
  kind : Kind
  level : Nat
  pc : W64
  straddle : Bool
  line : Nat
  deriving DecidableEq, Repr, Inhabited

/-- What a lane does when it is in no subgroup (R125). -/
inductive LaneSt
  /-- in a subgroup of `Warp.groups` -/
  | live
  | exited
  /-- waits at join barrier j; the JOIN.WAIT is at pc (R148) -/
  | atJoin (j : Nat) (pc : W64)
  /-- waits at VPOINT n, which is at pc (R154) -/
  | atVpoint (n : Nat) (pc : W64)
  /-- parked by a precise trap at this position of a run instance (R438) -/
  | parked (p : Pos) (runId : Nat)
  /-- stopped at a run end by memory-side faults, to continue at pc (R442, R444) -/
  | memStopped (pc : W64)
  /-- parked at a run start by a fetch fault, with its report (R56) -/
  | fetchStopped (pc : W64) (why : FetchFault)
  deriving DecidableEq, Repr, Inhabited

/-- What a lane at trap depth 1 keeps of the interrupted code (R258). -/
structure Interrupted where
  pos : Pos
  runId : Nat
  lat : Latches
  kind : Kind
  deriving DecidableEq, Repr, Inhabited

/-- One lane of a warp (R14). -/
structure Thread where
  st : LaneSt
  lat : Latches
  fpstat : BitVec 5
  depth : Bool
  trec : Option TrapRec
  intr : Option Interrupted
  /-- a memory-side fault of this lane has been reported: it stops at the end of its run (R442) -/
  stop : Bool
  /-- stopped by the debugger (R459, R460) -/
  halt : Bool
  /-- one more than the cycle in which it last issued, 0 for none (R320) -/
  last : Nat
  deriving DecidableEq, Repr, Inhabited

/-- The values that one signing or posting instruction names, read from its lowest active lane when it
issued; `same`: every active lane supplied the same ones (R223); `whole`: the subgroup was the whole live warp, so the
last reads are freed once no trap can come any more (R19, R22); `rm`: the rounding mode then (R42, R234); `signed`: the
lanes that have signed already (R223); `vals`: per-lane operands, window offsets of the scratchpad (R201, R243). -/
structure Args where
  a : W64 := 0
  b : W64 := 0
  same : Bool := true
  whole : Bool := false
  rm : Nat := 0
  signed : LMask := 0
  vals : List (Nat × Nat) := []
  deriving DecidableEq, Repr, Inhabited

/-- What a suspended subgroup waits for (R318). The instruction is the one at its position. -/
inductive Wait
  /-- it has not issued; it issues when nothing blocks it any more -/
  | unissued (c : Cause)
  /-- it has issued in these lanes, and completes when its condition holds -/
  | issued (c : Cause) (act : LMask) (args : Args)
  /-- WAIT and bead loads: per-lane operands kept for the wait (R200, R243) -/
  | lanes (act : LMask) (vals : List (Nat × Nat))
  /-- MWAIT with its deadline, 0 for none (R212) -/
  | mwait (act : LMask) (deadline : Nat)
  /-- the group has arrived at RALLY or CRALLY and waits for this phase (R245, R246) -/
  | rally (phase : Nat)
  /-- RESUME replays these records (R270) -/
  | resume (act : LMask) (next : Bool) (stage : Nat)
  /-- SVC or FFIX.MAP: the call has been passed to Usxon (R271, R267) -/
  | usxon (act : LMask) (args : Args)
  deriving DecidableEq, Repr, Inhabited

/-- A subgroup (R125): lanes at one position. -/
structure Group where
  gid : Nat
  mask : LMask
  pos : Pos
  wait : Option Wait
  /-- names the run instance for latches and same-run reads (R29, R196) -/
  runId : Nat
  /-- long-latency results whose exceptions or uniform value its last run still awaits (R167, R325) -/
  after : List Nat
  deriving DecidableEq, Repr, Inhabited

/-- A space an access falls in after decoding (R183). -/
inductive Space
  | lane
  | scratch (core : Nat)
  | diescr
  | global
  deriving DecidableEq, Repr, Inhabited

/-- Translation of one access (R452, R453): its physical location in `State.mem`. -/
inductive Xl
  | none
  | loc (l : Nat)
  /-- a migrating node or page holds the walk -/
  | wait
  /-- the host has not answered its ATS request, or a page-table node's peer line is not here yet -/
  | asked
  | fault (k : Kind) (level : Nat)
  deriving DecidableEq, Repr, Inhabited

/-- Where one access stands. -/
inductive AccSt
  | issued
  /-- a CAUSAL store performed at its die's causal home (R391) -/
  | causal
  /-- performed at its home; a store not yet acknowledged -/
  | performed
  /-- data delivered, or store acknowledged -/
  | done
  deriving DecidableEq, Repr, Inhabited

/-- One single-copy atomic access of one lane (R378): n bytes at a key of a space; `part` is its byte
offset in the lane's operand. -/
structure Acc where
  lane : Nat
  part : Nat
  n : Nat
  sp : Space
  key : Nat
  data : Nat
  cmp : Nat
  got : Nat
  user : Bool
  xl : Xl
  st : AccSt
  /-- arbitrations that it has lost in a row at its core's port (R401) -/
  lost : Nat
  deriving DecidableEq, Repr, Inhabited

/-- What a memory instruction in flight does. -/
inductive TxKind
  | load
  | store
  | atomic (op : AOp) (wide red : Bool)
  | ldrec (b : Nat)
  | monitor
  /-- the reads of a DKLD from global memory (R230), of deck handle dh -/
  | fill (dh : Nat)
  /-- a FENCE or BRIDGE that is deferred (R197): the domain whose later accesses it orders, and whether it
  invalidates that domain's filter -/
  | fence (after : Dom) (inv : Bool)
  deriving DecidableEq, Repr, Inhabited

/-- A memory instruction in flight: an entry of its domain's queue (R195, R365). `id` rises in the
warp's program order. -/
structure Txn where
  id : Nat
  kind : TxKind
  f : Fetched
  runId : Nat
  mask : LMask
  dst : Nat
  nregs : Nat
  size : Nat
  dom : Dom
  scope : Scope
  ord : Ord
  pol : Pol
  accs : List Acc
  /-- a fence, a bridge or a publish demand covers it (R208, R209, R394) -/
  publish : Bool
  /-- the line fills of this load are dropped: a filter was invalidated meanwhile (R209) -/
  drop : Bool
  /-- a narrow RC release store that was issued while the core held earlier stores of its warp: its lines are held (R394) -/
  holds : Bool := false
  /-- the directory has demanded its publish (R394) -/
  demanded : Bool := false
  deriving DecidableEq, Repr, Inhabited

/-- A fault record (R32, R264): the transaction with the record's lanes in `txn.mask`; `user`: the lanes whose faulting access
used a window with the policy USER (R444). -/
structure FaultRec where
  txn : Txn
  kind : Kind
  level : Nat
  seq : Nat
  user : LMask
  deriving DecidableEq, Repr, Inhabited

/-- A long-latency result on its way (R167): per lane its value and exceptions. -/
structure Llr where
  id : Nat
  gid : Nat
  runId : Nat
  f : Fetched
  pos : Pos
  act : LMask
  uni : Bool
  /-- the exceptions enabled when it issued (R167) -/
  exc : BitVec 5
  dst : Nat
  d : Bool
  lt : Nat
  /-- lanes whose latch the result is still to write (R167) -/
  latch : LMask
  vals : List (Nat × W32 × BitVec 5)
  /-- the latches at issue, for a trap at arrival -/
  lats : List (Nat × Latches)
  /-- sources marked as last reads, freed when it arrives without a trap (R19, R22) -/
  frees : List Nat
  deriving DecidableEq, Repr, Inhabited

/-- What lanes of one run have loaded: the v registers and records whose use in that run is ILLEGAL (R196). -/
structure Loaded where
  runId : Nat
  mask : LMask
  regs : List Nat
  recs : List Nat
  deriving DecidableEq, Repr, Inhabited

/-- A join barrier (R31). -/
structure JoinB where
  armed : Bool
  expected : LMask
  arrived : LMask
  deriving DecidableEq, Repr, Inhabited

/-- The monitor (R14, R211). -/
structure Monitor where
  armed : Bool
  line : Nat
  loc : Nat
  scope : Scope
  dom : Dom
  snap : BitVec 1024
  /-- a restore found the line changed (R467) -/
  hit : Bool
  deriving DecidableEq, Repr, Inhabited

/-- The registers whose reads in a cycle see the state before the cycle (R68, R324). -/
structure RegFile where
  /-- v registers: key r * 32 + lane, default 0 -/
  v : Cells W32
  /-- allocation map of v0 to v255 (R17) -/
  alloc : BitVec 256
  /-- predicates q1 to q47: key q, default none set -/
  q : Cells LMask
  /-- s0 to s63, default 0 -/
  s : Cells W64
  /-- b0 to b15, default all zero -/
  b : Cells (BitVec 256)
  fpctl : W32
  deriving DecidableEq, Repr, Inhabited

/-- A trap event not yet vectored (R438, R439). -/
structure TrapEv where
  mask : LMask
  mem : Bool
  deriving DecidableEq, Repr, Inhabited

/-- A swap image (R330): its size in units of 1 KiB, and whether it lies in the overflow area. -/
structure Image where
  units : Nat
  spill : Bool
  deriving DecidableEq, Repr, Inhabited

/-- Where a warp is (R313, R330). A swap-out serves the warp that asked for it (R329, R334). -/
inductive Place
  | seated (seat : Nat)
  | movingOut (seat serves : Nat)
  | swapped (order : Nat)
  | movingIn (seat : Nat)
  | saved
  | ended
  deriving DecidableEq, Repr, Inhabited

/-- A warp. `id` is its index in `State.warps`. -/
structure Warp where
  id : Nat
  block : Nat
  index : Nat
  core : Nat
  quad : Nat
  place : Place
  /-- the swap image that it has or is moved to or from (R330) -/
  image : Option Image
  live : LMask
  thr : List Thread
  groups : List Group
  nextGid : Nat
  rf : RegFile
  /-- the registers and latches before the cycle, as side B reads them (R68, R324) -/
  rf0 : Option RegFile
  lat0 : List Latches
  /-- results with this name or a later one were issued in this cycle, by side A: they are not pending for side B (R324) -/
  ids0 : Option Nat
  joins : List JoinB
  fr : List (Option FaultRec)
  mon : Monitor
  txns : List Txn
  /-- what its subgroups have loaded in the runs that they stand in (R196) -/
  loads : List Loaded
  llr : List Llr
  events : List TrapEv
  /-- lanes of the one handler subgroup (R439) -/
  handler : LMask
  /-- it holds the matrix engine's mark (R218) -/
  holding : Bool
  /-- lanes stopped at run ends are not yet in a MEM-PARK event (R444) -/
  parkDue : Bool
  /-- lane-private slices: key lane * 65536 + offset (R358) -/
  lane : Cells Byte
  laneDraw : Nat
  age : Nat
  stall : Nat
  wins : Nat
  yielded : Bool
  ready : Option Nat
  snap : List Nat
  lastCause : Cause
  deriving DecidableEq, Repr, Inhabited

/-- A convergence register (R37, R222). Lane masks are one per warp of the block. -/
structure Conv where
  opened : Bool
  busy : Bool
  opc : Nat
  acc : Nat
  dh : Nat
  rows : Nat
  ovw : Bool
  fmt : W64
  ads : W64
  expected : Cells LMask
  signed : Cells LMask
  err : Bool
  rm : Nat
  owner : Nat
  deriving DecidableEq, Repr, Inhabited

/-- A deck handle (R36, R229). -/
structure Handle where
  valid : Bool
  fmt : Nat
  scb : Bool
  slot : Nat
  count : Nat
  isRef : Bool
  src : W64
  deriving DecidableEq, Repr, Inhabited

/-- A send-list entry of a route at work (R253, R429): its choice and expert, the counter's old value once it is claimed,
and the bytes of the slot written since. -/
structure Claim where
  entry : Nat
  choice : Nat
  expert : Nat
  /-- the send-list entry as it was read -/
  ent : Nat
  /-- the destination-table entry, from the claim on -/
  dest : Nat
  old : Option Nat
  pos : Nat
  deriving DecidableEq, Repr, Inhabited

/-- States of a transfer request (R256). -/
inductive ReqSt
  | queued | running | done
  deriving DecidableEq, Repr, Inhabited

/-- A transfer request of a block (R247): its record, and where it stands (R421). -/
structure Req where
  id : W32
  st : ReqSt
  outcome : Nat
  record : BitVec 512
  /-- bytes of a copy, iterations of a loop, entries dropped by a route -/
  count : Nat
  /-- bytes of a copy or loop written; those of CAUSAL updates are counted down later (R254) -/
  moved : Nat := 0
  /-- XCANCEL has named it while it was inside a granule (R256) -/
  cancel : Bool := false
  /-- granule offset in the current iteration (R421) -/
  goff : Nat
  /-- bytes or entries counted down so far (R254) -/
  counted : Nat
  /-- next send-list entry of a route, and the entries at work (R429) -/
  entry : Nat
  claims : List Claim
  launch : Nat
  /-- an access of it has faulted and waits for Usxon (R255): the virtual address and the kind -/
  fault : Option (Nat × Kind) := none
  deriving DecidableEq, Repr, Inhabited

/-- A rally point (R245): once a warp has arrived in the phase, the count that it gave and the number of warps that it
came to; and per warp the lanes that have executed it and the count that they named. -/
structure Rally where
  first : Option (Nat × Nat)
  lanes : Cells LMask
  asks : Cells Nat
  phase : Nat
  deriving DecidableEq, Repr, Inhabited

/-- The VPOINT rendezvous of a block (R154, R470). -/
inductive Vp
  | none
  | opened (n : Nat)
  | joinsDone (n : Nat)
  /-- it moves to variant k, with a window at base (R301) -/
  | moving (n k base : Nat)
  /-- its registers and window have moved from variant `old`; its lanes go on next -/
  | moved (n old : Nat)
  deriving DecidableEq, Repr, Inhabited

/-- Why a block is being killed (R472, R473): the cause's code, the causing lanes, PC and thread. -/
structure KillInfo where
  code : Nat
  mask : LMask
  pc : W64
  thread : Nat
  deriving DecidableEq, Repr, Inhabited

/-- A block. -/
structure Block where
  id : Nat
  launch : Nat
  ctx : Nat
  index : Nat
  attempt : Nat
  variant : Nat
  core : Nat
  rank : Nat
  /-- the first block index of its cluster (R302) -/
  clus : Nat
  base : Nat
  size : Nat
  clock : Nat
  warps : List Nat
  cv : List Conv
  dh : List Handle
  rally : List Rally
  crArr : Nat
  crLanes : Cells LMask
  crPhase : Nat
  vp : Vp
  nextReq : W32
  reqs : List Req
  aside : List (Nat × Conv)
  ecol : Bool
  saved : Bool
  /-- an unrecoverable event: its warps issue nothing more (R473) -/
  kill : Option KillInfo
  ended : Bool
  order : Nat
  deriving DecidableEq, Repr, Inhabited

/-- The kinds of engine operation in engine order (R221). -/
inductive EngKind
  | mma | mxrun | accz | accrd | accwr | acccvt
  deriving DecidableEq, Repr, Inhabited

/-- An operation in engine order, with the parameters of its collection (R222). `seq` orders it against
deck fills and ACCSTATs; `group` is `Owner.tag`. `record` is the loop record of an MXRUN, once read; `vec`
counts its committed steps (R421); `fault` is an address that waits for Usxon, and the kind of its fault. -/
structure EngOp where
  seq : Nat
  kind : EngKind
  block : Nat
  group : Nat
  cv : Nat
  record : Option (BitVec 512)
  acc : Nat
  hdl : Handle
  rows : Nat
  ovw : Bool
  fmt : W64
  ads : W64
  rm : Nat
  vec : Nat
  fault : Option (Nat × Kind)
  /-- its twin was discarded: what it does next is a replay (R420) -/
  redo : Bool
  deriving DecidableEq, Repr, Inhabited

/-- A DKLD fill in progress (R230): from the scratchpad, or by the reads of a transaction of a warp. -/
structure Fill where
  seq : Nat
  block : Nat
  dh : Nat
  hdl : Handle
  txn : Option Nat
  warp : Nat
  deriving DecidableEq, Repr, Inhabited

/-- An entry of the operand cache (R417): its operand handle, generation and bytes. -/
structure OpEnt where
  tag : Nat
  gen : BitVec 16
  /-- its bytes: 256, or 128 of an E2M1 row, which takes half an entry -/
  n : Nat
  data : Nat
  deriving DecidableEq, Repr, Inhabited

/-- An accumulator tile: key row * 512 + column, default 0; ACCSTAT overflow, saturation, invalid
in bits 0 to 2 (R34, R122). -/
structure Tile where
  cells : Cells W32
  stat : BitVec 3
  deriving DecidableEq, Repr, Inhabited

/-- A PREF in progress (R206). -/
structure Pref where
  ctx : Nat
  die : Nat
  mlc : Bool
  pol : Pol
  va : Nat
  left : Nat
  block : Nat
  bar : Option Nat
  /-- it brings no line of the addresses below this one: the host has denied their page (R206) -/
  skip : Nat := 0
  deriving DecidableEq, Repr, Inhabited

/-- One line of instruction bytes that a core holds (R52): the context and the image that it was fetched for, its
place divided by 128, and the core's cycle from which it is there (R315, R284). -/
structure CodeLine where
  ctx : Nat
  image : W64
  line : Nat
  data : BitVec 1024
  due : Nat
  deriving DecidableEq, Repr, Inhabited

/-- One line of L1 with its bytes (R364), RC and BULK filter bits, priority and recency. -/
structure L1Line where
  line : Nat
  ctx : Nat
  data : BitVec 1024
  rc : Bool
  bulk : Bool
  prio : Nat
  used : Nat
  deriving DecidableEq, Repr, Inhabited

/-- One line of the die L2 or the MLC: tag, priority, recency (R363, R368). -/
structure CLine where
  line : Nat
  prio : Nat
  used : Nat
  deriving DecidableEq, Repr, Inhabited

/-- A tag store with its miss counters (R369): key set, default 0. -/
structure CacheT where
  lines : List CLine
  miss : Cells Nat
  deriving DecidableEq, Repr, Inhabited

/-- An owner of the matrix engine: a block and its group, warps by a mask of warp indices (R217);
`hand` is a handler's lanes of one warp (R220). -/
structure Owner where
  block : Nat
  warps : Nat
  hand : Option (Nat × LMask)
  deriving DecidableEq, Repr, Inhabited

/-- A slot of the handler tile region in use (R461). -/
structure HSlot where
  owner : Owner
  tiles : List (Nat × Tile)
  back : Option Owner
  deriving DecidableEq, Repr, Inhabited

/-- A charge bin (R341). -/
structure Bin where
  pc : W64
  cause : Cause
  launch : Nat
  count : Nat
  used : Nat
  deriving DecidableEq, Repr, Inhabited

/-- A quadrant (R313 to R337). -/
structure Quad where
  seats : List (Option Nat)
  hold : Option Nat
  a : Option Nat
  b : Option Nat
  /-- the suspended PC of the arbitration cycle of R319, and its launch -/
  arb : Option (W64 × Nat)
  /-- the run of side A ended or was suspended in this cycle -/
  runOver : Bool
  /-- free physical registers as they stood before the cycle, less this cycle's allocations (R327) -/
  avail : Nat
  sfuUntil : Nat
  memUntil : Nat
  /-- cycles from this one on, while the memory port is held, are lost to bank conflicts (R342) -/
  lossFrom : Nat
  usedA : Option Nat
  prevCause : Cause
  bins : List Bin
  deriving DecidableEq, Repr, Inhabited

/-- What the core is doing for a pre-emption (R463). -/
inductive Stop
  | no | stopping | saving
  deriving DecidableEq, Repr, Inhabited

/-- A core (R14, R338 to R342). -/
structure Core where
  ctx : Option Nat
  /-- the context that the tiles and the deck belong to, 0 for none yet (R35, R415) -/
  last : Nat
  quads : List Quad
  /-- scratchpad bytes written: key physical offset; unwritten bytes are `Config.startByte` (R359) -/
  scr : Cells Byte
  /-- the draw of each KiB of the scratchpad -/
  scrDraw : Cells Nat
  /-- beads set, by granule (R370) -/
  beads : Cells Bool
  acc : List Tile
  /-- deck bytes: key (rod * 64 + slot) * 256 + byte, default 0 (R414) -/
  deck : Cells Byte
  fills : List Fill
  gen : BitVec 16
  /-- operand cache, most recently used first -/
  opc : List OpEnt
  owner : Option Owner
  fifo : List Owner
  eng : List EngOp
  hslots : List HSlot
  reqq : List (Nat × W32)
  pfq : List (Nat × FaultRec)
  prefs : List Pref
  /-- instruction lines held (R52) -/
  code : List CodeLine
  l1 : List L1Line
  l1miss : Cells Nat
  /-- live event counters: key n (R342) -/
  cnt : Cells Nat
  /-- live accounts: key 18 * quadrant + cause, HELD at 17 (R339) -/
  acct : Cells Nat
  /-- slots of the cycle in progress, added to `acct` at its end: quadrant, cause -/
  due : List (Nat × Cause)
  shCnt : Cells Nat
  shAcct : Cells Nat
  /-- the context that the shadows belong to, 0 for none (R276, R343) -/
  shCtx : Nat
  lostTrace : Nat
  lostSeries : Nat
  /-- records of the device stream dropped since the last one written (R345) -/
  lostDevice : Nat
  clock : Nat
  /-- the cycle count at which it was asked to stop (R468) -/
  stopClock : Nat
  stop : Stop
  gated : Bool
  parity : Bool
  cycleDone : Bool
  deriving DecidableEq, Repr, Inhabited

/-- Who made a CAUSAL write (R391): a lane, by its warp, its transaction and the access's name; or a request of a block. -/
inductive CSrc
  | lane (warp txn name : Nat)
  | job (block : Nat) (req : W32)
  deriving DecidableEq, Repr, Inhabited

/-- A pending CAUSAL update of a die (R391): who made it, and its place by intermediate address and by location. -/
structure CUpd where
  src : CSrc
  ia : Nat
  loc : Nat
  n : Nat
  data : Nat
  deriving DecidableEq, Repr, Inhabited

/-- A cached ATS translation of one 4 KiB host page (R453). -/
structure AtsEnt where
  ctx : Nat
  page : Nat
  frame : Nat
  r : Bool
  w : Bool
  deriving DecidableEq, Repr, Inhabited

/-- An ATS translation that the hub holds (R493), of a host page under a PASID of an interface's requests, or under none; one that
allows neither reading nor writing is a denial that has not been met yet. -/
structure HubEnt where
  iface : Nat
  pasid : Option Nat
  page : Nat
  frame : Nat
  r : Bool
  w : Bool
  deriving DecidableEq, Repr, Inhabited

/-- An invalidation applied and not yet completed (R454, R478): the accesses that each die waits for, and the dies that have not
acknowledged it. -/
structure Inv where
  ctx : Nat
  lo : Nat
  hi : Nat
  waits : List (List (Nat × Nat × Nat))
  left : List Nat
  deriving DecidableEq, Repr, Inhabited

/-- A compute die with its base die (R517). -/
structure Die where
  l2 : CacheT
  mlc : CacheT
  upd : List CUpd
  tlb : List (Nat × Nat × W64 × Nat)
  ats : List AtsEnt
  /-- outstanding ATS requests (context, page), one for each page (R478) -/
  asks : List (Nat × Nat)
  mhz : Nat
  deriving DecidableEq, Repr, Inhabited

/-- A running or queued request of a copy engine (R425, R426); `page`: the copy of a page that Usxon migrates, by its context and
its first IA (R456). -/
structure Job where
  core : Nat
  block : Nat
  req : W32
  page : Option (Nat × Nat) := none
  deriving DecidableEq, Repr, Inhabited

/-- A page that Usxon migrates (R456), from frame to frame: the bytes that the copy engine has moved, and whether the copy has met
poison. -/
structure Mig where
  ctx : Nat
  lo : Nat
  bits : Nat
  src : Nat
  dst : Nat
  pos : Nat
  bad : Bool
  deriving DecidableEq, Repr, Inhabited

/-- A ring of a context (R346): base VA, log2 of the data area, series exponent. -/
structure Ring where
  va : Nat
  m : Nat
  k : Nat
  deriving DecidableEq, Repr, Inhabited

/-- A context (R449, R495). -/
structure Ctx where
  id : Nat
  iface : Nat
  alive : Bool
  /-- its destruction has begun, and waits for its launches (R501) -/
  dying : Bool
  conf : Bool
  ways : Nat
  pasid : Option Nat
  root : Nat
  devBase : Nat
  devLen : Nat
  hostBase : Nat
  hostLen : Nat
  win : List (BitVec 128)
  keySlot : Option Nat
  /-- the debug session's enabled breakpoint ids, as the bits of a number (log 18) -/
  dbg : Option Nat
  trace : Option Ring
  series : Option Ring
  cntMask : BitVec 48
  /-- stored accounts: key 72 * core + 18 * quadrant + cause (R340) -/
  acct : Cells Nat
  /-- stored event counters: key 48 * core + n -/
  cnt : Cells Nat
  /-- sequence number of the next series tick, and one more than the time of the last (R345) -/
  tick : Nat
  ticked : Nat
  hregion : Bool
  deriving DecidableEq, Repr, Inhabited

/-- A die's ticket counter of one launch (R297, R298, R304). -/
structure Ticket where
  front : List Nat
  lo : Nat
  hi : Nat
  noSteal : Bool
  deriving DecidableEq, Repr, Inhabited

/-- States of a launch. -/
inductive LaunchSt
  | waiting
  | running
  /-- all indices have ended, or it was rejected; the completion is still to be written -/
  | ending (status : Nat)
  | complete (status : Nat)
  deriving DecidableEq, Repr, Inhabited

/-- A cluster reservation (R302). -/
structure Resv where
  die : Nat
  /-- the claimed indices -/
  idx : List Nat
  next : Nat
  fails : Nat
  until_ : Nat
  held : Bool
  cores : List Nat
  /-- the order of first attempts -/
  seq : Nat
  deriving DecidableEq, Repr, Inhabited

/-- A launch, or a marker entry of a queue (R285, R492). -/
structure Launch where
  id : Nat
  lid : W64
  iface : Nat
  queue : Nat
  ctx : Nat
  marker : Bool
  record : BitVec 4096
  tag : W64
  st : LaunchSt
  cls : Nat
  /-- the record's own WEIGHT (R305) -/
  weight : Nat
  count : Nat
  tickets : List Ticket
  ended : Nat
  killed : Nat
  tries : Cells Nat
  resv : List Resv
  /-- the switch-point entries by variant, once read at the first dispatch (R287, R289) -/
  tables : Option (List (Nat × BitVec 512))
  /-- an access of the command processor for it has faulted, and Usxon's resolution lasts (R285): the kind and the IA -/
  stuck : Option (Kind × Nat)
  deriving DecidableEq, Repr, Inhabited

/-- A queue block (R490) and its binding. -/
structure QBlk where
  sqBase : W64
  cqBase : W64
  pasid : BitVec 20
  sqLog : BitVec 4
  cqLog : BitVec 4
  en : Bool
  err : Bool
  errCode : BitVec 6
  sqTail : W32
  sqHead : W32
  cqHead : W32
  cqTail : W32
  weight : Nat
  clsLim : Nat
  bound : Option Nat
  /-- the read of its next record has faulted, and Usxon's resolution lasts (R285): the kind and the IA -/
  stuck : Option (Kind × Nat)
  /-- slice start, in ns, plus one; 0 while it has no slice (R306) -/
  slice : Nat
  /-- the span of 10 ms that core-time is measured over, and the core cycles that the queue's blocks have had in it (R306) -/
  span : Nat
  used : Nat
  deriving DecidableEq, Repr, Inhabited

/-- TDISP states (R502). -/
inductive Tdisp
  | unlocked | locked | run | error
  deriving DecidableEq, Repr, Inhabited

/-- The TDI configuration of a VF as it was locked (R503): the windows of its contexts, the BIAS of their pages that are shared
with the host (context, IA, BIAS), and the contexts that its queues are bound to. -/
structure Tdi where
  wins : List (Nat × List (BitVec 128))
  bias : List (Nat × Nat × Nat)
  binds : List (Option Nat)
  deriving DecidableEq, Repr, Inhabited

/-- A measurement that the SPDM responder has returned (R503): the block's index, the TDI configuration that it measures, where it
measures one, and the draw of its signature. -/
structure Measure where
  index : Nat
  tdi : Option Tdi
  draw : Nat
  deriving DecidableEq, Repr, Inhabited

/-- What the device reports, newest first in `State.log`. -/
inductive Report
  /-- an error that is logged, or an answer on a link: a code and an address (R496, R532, R533) -/
  | error (code addr : Nat)
  /-- a block was killed (R473) -/
  | kill (code block : Nat)
  /-- an engine's access faulted, at a context's IA, with the request's iteration vector (R421) -/
  | fault (kind : Kind) (ctx ia vec : Nat)
  /-- a fault that the host driver is to resolve (R445) -/
  | host (kind : Kind) (ctx ia : Nat)
  /-- a page-table entry met at an IA is malformed (R452) -/
  | malformed (ctx ia : Nat)
  /-- a migration was aborted (R456) -/
  | aborted (ctx ia : Nat)
  deriving DecidableEq, Repr, Inhabited

/-- A virtual interface (R487, R498, R504). -/
structure Iface where
  queues : List QBlk
  busy : Bool
  status : Nat
  cmd : BitVec 16
  reply : W64
  args : List W64
  nextLid : Nat
  cores : Nat
  bw : Nat
  power : Nat
  grants : BitVec 2
  tdisp : Tdisp
  stream : Option Nat
  /-- what it was locked with (R503) -/
  locked : Option Tdi
  /-- the vectors that the host has enabled in the MSI-X table of its BAR2 (R487) -/
  vecs : BitVec 48
  /-- the running mailbox command has had its effect (R504) -/
  ran : Bool
  /-- a function-level reset is under way (R489) -/
  flr : Bool
  bwOver : Bool
  pwOver : Bool
  irq : List Nat
  deriving DecidableEq, Repr, Inhabited

/-- A saved window with its beads and draws, by window offset, granule and KiB (R469). -/
structure SavedWin where
  block : Nat
  bytes : Cells Byte
  beads : Cells Bool
  draws : Cells Nat
  deriving DecidableEq, Repr, Inhabited

/-- A save area (R468 to R470): what a pre-emption saved of one core. -/
structure Save where
  core : Nat
  ctx : Nat
  time : Nat
  clock : Nat
  tiles : List Tile
  deck : Cells Byte
  blocks : List Nat
  warps : List Nat
  wins : List SavedWin
  owner : Option Owner
  fifo : List Owner
  eng : List EngOp
  fills : List Fill
  hslots : List HSlot
  reqq : List (Nat × W32)
  pfq : List (Nat × FaultRec)
  counter : Nat
  /-- the image's bytes are free values of this draw (log 7) -/
  draw : Nat
  deriving DecidableEq, Repr, Inhabited

/-- A peer line, by its number, held by the local MLC (R522); `fresh`: obtained Modified, and no access
has been performed since (R523). -/
structure PeerLine where
  fa : Nat
  modified : Bool
  fresh : Bool
  deriving DecidableEq, Repr, Inhabited

/-- A directory entry of the home device (R523): up to 8 sharers, or the coarse flag. -/
structure DirEnt where
  line : Nat
  owner : Option Nat
  sharers : List Nat
  coarse : Bool
  deriving DecidableEq, Repr, Inhabited

/-- Bring-up and power (R531, R533). `steps n` has completed steps 1 to n. -/
inductive Boot
  | off
  | inReset
  | steps (n : Nat)
  | up
  | shutdown
  deriving DecidableEq, Repr, Inhabited

/-- The sides of a quadrant's cycle. -/
inductive Side
  | A | B
  deriving DecidableEq, Repr, Inhabited

/-- The next issue slot. -/
structure Focus where
  core : Nat
  quad : Nat
  side : Side
  deriving DecidableEq, Repr, Inhabited

/-- What the slot's instruction came to. -/
inductive IssOut
  | issued
  | held (c : Cause)
  | suspended (c : Cause) (charged : Cause)
  | trapped
  deriving DecidableEq, Repr, Inhabited

/-- The instruction being executed in a slot. -/
structure Iss where
  core : Nat
  quad : Nat
  side : Side
  warp : Nat
  gid : Nat
  /-- the lanes of the subgroup -/
  mask : LMask
  f : Fetched
  out : IssOut
  deriving DecidableEq, Repr, Inhabited

/-- The machine. -/
structure State where
  warps : List Warp
  blocks : List Block
  launches : List Launch
  ctxs : List Ctx
  ifaces : List Iface
  cores : List Core
  dies : List Die
  /-- jobs of the 32 copy and routing engines, in arrival order (R425, R426) -/
  engines : List (List Job)
  saves : List Save
  /-- latest save counter of each context and core (R500): key 64 * context + core -/
  saveCtr : Cells Nat
  mem : List Host.Cell
  /-- what each 64-byte granule of device memory is encrypted under, by number (R499): `sealOf`, default 0, not encrypted -/
  seals : Cells Nat
  /-- poisoned 64-byte granules, by number (R457) -/
  poison : Cells Bool
  /-- the global timebase in ns (R44) -/
  time : Nat
  /-- half nanoseconds beyond `time` and clock debts of the dies, in MHz units -/
  debt : List Nat
  trigger : List Nat
  /-- the physical function's device stream: the sequence number of its next tick, and one more than the time of its last
  (R345) -/
  devTick : Nat
  devTicked : Nat
  devId : BitVec 16
  planemap : W64
  deadmask : BitVec 16
  /-- a plane whose entries wait to be rewritten (R528) -/
  draining : List Nat
  peers : List PeerLine
  dir : List DirEnt
  /-- outstanding page requests (context, page), at most 512 (R495) -/
  pri : List (Nat × Nat)
  /-- invalidations that have not completed (R454, R478) -/
  invs : List Inv
  /-- pages that Usxon migrates (R456) -/
  migs : List Mig
  /-- the hub's own ATS translations of host pages (R493, R488) -/
  hubAts : List HubEnt
  /-- the hub's outstanding ATS requests: interface, PASID, page -/
  hubAsks : List (Nat × Option Nat × Nat)
  /-- reports and logged errors, newest first -/
  log : List Report
  /-- the idle account (R338): key 72 * core + 18 * quadrant + cause -/
  idle : Cells Nat
  keySlots : List Nat
  boot : Boot
  spdm : List Measure
  /-- the model's own: the agent that moves next, and the counter behind every free value -/
  sched : List Instr
  ctr : Nat
  focus : Focus
  iss : Option Iss
  deriving DecidableEq, Repr, Inhabited

/-- Why the machine stops. -/
inductive Fault
  /-- `step` and every instruction row: an instruction row is run with no issue slot, which no core
  ever does. Safe: the machine stops. -/
  | noIssuer
  /-- MTU_WALK: a leaf names a physical address above the device memory of R2, which the manual does not
  give the machine. Safe: the machine stops. -/
  | noSuchMemory
  deriving DecidableEq, Repr

/-- Why a meaning is refused. -/
inductive Refusal
  /-- an instruction without a meaning in this model. Safe: the machine stops. -/
  | notModelled (mnemonic : String)
  deriving DecidableEq, Repr

/-- An empty tag store. -/
def CacheT.empty : CacheT := ⟨[], []⟩

/-- A zeroed tile. -/
def Tile.zero : Tile := ⟨[], 0⟩

/-- A quadrant with no warp (R313). -/
def Quad.empty : Quad :=
  ⟨List.replicate 16 none, none, none, none, none, false, 2048, 0, 0, 0, none, .noWarp, []⟩

/-- A core at reset. -/
def Core.reset : Core :=
  { ctx := none, last := 0, quads := List.replicate 4 .empty, scr := [], scrDraw := [], beads := [],
    acc := List.replicate 8 .zero, deck := [], fills := [], gen := 0, opc := [], owner := none,
    fifo := [], eng := [], hslots := [], reqq := [], pfq := [], prefs := [], code := [], l1 := [], l1miss := [],
    cnt := [], acct := [], due := [], shCnt := [], shAcct := [], shCtx := 0, lostTrace := 0, lostSeries := 0, lostDevice := 0, clock := 0, stopClock := 0,
    stop := .no, gated := true, parity := false, cycleDone := false }

/-- A die at reset; its clock point is log 5's. -/
def Die.reset : Die :=
  { l2 := .empty, mlc := .empty, upd := [], tlb := [], ats := [], asks := [], mhz := 2000 }

/-- A queue block at reset (R490). -/
def QBlk.reset : QBlk :=
  { sqBase := 0, cqBase := 0, pasid := 0, sqLog := 0, cqLog := 0, en := false, err := false, errCode := 0,
    sqTail := 0, sqHead := 0, cqHead := 0, cqTail := 0, weight := 0, clsLim := 0, bound := none, stuck := none,
    slice := 0, span := 0, used := 0 }

/-- An interface at reset (R498, R504); the PF, interface 0, holds both grants and reads BUSY until
bring-up ends (R533). -/
def Iface.reset (pf : Bool) : Iface :=
  { queues := List.replicate 16 .reset, busy := pf, status := 0, cmd := 0, reply := 0,
    args := [0, 0, 0], nextLid := 1, cores := 0, bw := 0, power := 0,
    grants := if pf then 3 else 0, tdisp := .unlocked, stream := none, locked := none, vecs := 0, ran := false, flr := false, bwOver := false,
    pwOver := false, irq := [] }

/-- The machine right after reset: power is on and PERST# is asserted (R531, R533). Values the manual
does not state are log 5's. -/
def State.reset : State :=
  { warps := [], blocks := [], launches := [], ctxs := [],
    ifaces := .reset true :: List.replicate 63 (.reset false),
    cores := List.replicate 64 .reset, dies := List.replicate 4 .reset,
    engines := List.replicate 32 [], saves := [], saveCtr := [], mem := [], seals := [], poison := [], time := 0,
    debt := [0, 0, 0, 0, 0], trigger := [], devTick := 0, devTicked := 0, devId := Config.deviceId, planemap := 0xFEDCBA9876543210,
    deadmask := 0, draining := [], peers := [], dir := [], pri := [],
    invs := [], migs := [], hubAts := [], hubAsks := [], log := [], idle := [], keySlots := [], boot := .inReset, spdm := [], sched := [],
    ctr := 0, focus := ⟨0, 0, .A⟩, iss := none }

end Sys2Proof.Machine
end

