-- ==== Sys2Proof/Machine/Mem.lean ====
section
/-! DEFINITION. The one coherent memory, its bytes, and the path from a virtual address to a place in it:
windows (R447, R448), page tables (R450 to R452) and ATS (R453). A place is a natural number: device
physical addresses below 2^56, peer fabric addresses from 2^56, host physical addresses from 2^60, die
scratchpad carve-outs from 2^61. -/

namespace Sys2Proof.Machine

/-- The place of a peer's fabric address (R519). -/
def peerBase : Nat := 2 ^ 56
/-- The place of host physical address 0. -/
def hostBase : Nat := 2 ^ 60
/-- The place of the carve-outs (R361). -/
def dieBase : Nat := 2 ^ 61

/-- What an unlisted byte reads as: device memory and carve-outs are zeroed (R361, R533); host and peer
bytes are free (log 2). -/
def memDefault (l : Nat) : Byte :=
  if l < peerBase || dieBase ≤ l then 0 else Config.outsideByte l

/-- One byte of memory. -/
def memGet (m : List Host.Cell) (l : Nat) : Byte := cget m (memDefault l) l

/-- Memory with one byte written. -/
def memSet (m : List Host.Cell) (l : Nat) (b : Byte) : List Host.Cell := cset m (memDefault l) l b

/-- The canonical form: addresses strictly rising, no entry that an unlisted address reads as. -/
def Memory.wf (m : List Host.Cell) : Bool := csorted m && m.all (fun p => p.2 != memDefault p.1)

/-- n bytes, little-endian (R4). -/
def memReadN (m : List Host.Cell) : Nat → Nat → Nat
  | _, 0 => 0
  | l, n + 1 => (memGet m l).toNat + 256 * memReadN m (l + 1) n

/-- n bytes as a list. -/
def memBytes (m : List Host.Cell) : Nat → Nat → List Byte
  | _, 0 => []
  | l, n + 1 => memGet m l :: memBytes m (l + 1) n

/-- Memory with a list of bytes written from l on. -/
def memWriteL (m : List Host.Cell) : Nat → List Byte → List Host.Cell
  | _, [] => m
  | l, b :: r => memWriteL (memSet m l b) (l + 1) r

/-- Memory with the n low bytes of x written. -/
def memWriteN (m : List Host.Cell) (l n x : Nat) : List Host.Cell := memWriteL m l (leBytes n x)

/-- What an access needs (R452). -/
structure Need where
  r : Bool
  w : Bool
  dom : Option Dom
  deriving DecidableEq, Repr, Inhabited

/-- A leaf that a walk met: the entry, the place it lies at, and log2 of the page size. -/
structure Leaf where
  pte : Nat
  at_ : Nat
  bits : Nat
  deriving DecidableEq, Repr, Inhabited

/-- The outcome of a walk. -/
inductive Walk
  | leaf (f : Leaf)
  | fault (k : Kind) (level : Nat)
  | wait
  /-- a node in a peer line, by its number, that the local MLC must obtain first (R452, R522) -/
  | away (line : Nat)
  deriving DecidableEq, Repr, Inhabited

/-- The place that an entry's ADDR names (R451): a fabric address when REMOTE is set. -/
def pteAddr (e : Nat) : Nat := nbits e 55 12 * 4096 + (if nbits e 11 11 = 1 then peerBase else 0)

/-- A reserved field of an entry is 0, and ADDR is aligned to `bits` (R451, R452). -/
def pteOk (e bits : Nat) (leaf : Bool) : Bool :=
  nbits e 63 56 == 0 && nbits e 55 12 * 4096 % 2 ^ bits == 0
    && (!leaf || (nbits e 6 4 ≤ 4 && nbits e 8 7 ≤ 2))

/-- A place on a peer device is not held here, by its line's number (R522). -/
def awayLine (s : State) (l : Nat) : Option Nat :=
  let n := (l - peerBase) / 128
  if peerBase ≤ l && l < hostBase && !s.peers.any (fun p => p.fa == n) then some n else none

/-- The walk from a node through the remaining levels (R450, R452). A level is (lowest index bit,
index width, alignment of the next node). -/
def walkFrom (s : State) (ia : Nat) : Nat → Nat → List (Nat × Nat × Nat) → Walk
  | _, _, [] => .fault .notPresent 0
  | level, node, (lo, w, next) :: more =>
    let a := node + 8 * (ia / 2 ^ lo % 2 ^ w)
    let e := memReadN s.mem a 8
    let leaf := more.isEmpty || (level != 0 && nbits e 1 1 == 1)
    if let some n := awayLine s a then .away n
    else if leaf then
      if !pteOk e lo true || nbits e 0 0 == 0 then .fault .notPresent 0 else .leaf ⟨e, a, lo⟩
    else if !pteOk e next false || nbits e 0 0 == 0 || nbits e 1 1 == 1 then .fault .walk (level + 1)
    else if nbits e 9 9 == 1 then .wait
    else walkFrom s ia (level + 1) (pteAddr e) more

/-- The four levels of R450; a level-3 node is 256 bytes, aligned to 4 KiB. -/
def walkLevels : List (Nat × Nat × Nat) := [(43, 13, 16), (30, 13, 12), (21, 9, 12), (16, 5, 12)]

/-- A walk of a device page table. -/
def walk (s : State) (root ia : Nat) : Walk := walkFrom s ia 0 root walkLevels

/-- A walk's last entry is malformed (R452). -/
def badFrom (s : State) (ia : Nat) : Nat → Nat → List (Nat × Nat × Nat) → Bool
  | _, _, [] => false
  | level, node, (lo, w, next) :: more =>
    let e := memReadN s.mem (node + 8 * (ia / 2 ^ lo % 2 ^ w)) 8
    if more.isEmpty || (level != 0 && nbits e 1 1 == 1) then !pteOk e lo true
    else if !pteOk e next false || (nbits e 0 0 == 1 && nbits e 1 1 == 1) then true
    else if nbits e 0 0 == 0 || nbits e 9 9 == 1 then false
    else badFrom s ia (level + 1) (pteAddr e) more

/-- The leaf rows of R452. -/
def leafXl (f : Leaf) (ia : Nat) (n : Need) : Xl :=
  let e := f.pte
  if n.r && nbits e 2 2 == 0 then .fault .readDenied 0
  else if n.w && nbits e 3 3 == 0 then .fault .writeDenied 0
  else if n.dom.any (fun d => decide (nbits e 6 4 < domCode d)) then .fault .domainFloor 0
  else if nbits e 10 10 == 1 then .fault .poison 0
  else if nbits e 9 9 == 1 && n.w then .wait
  else .loc (pteAddr e + ia % 2 ^ f.bits)

/-- The windows of a context that hold a virtual address; the lowest-numbered one decides (R448). -/
def findWindow (wins : List (BitVec 128)) (va : Nat) : Option Nat :=
  (List.range 8).find? fun i =>
    let w := (wins.getD i 0).toNat
    nbits w 126 126 == 1 && nbits w 40 0 ≤ nbits va 56 16 && nbits va 56 16 ≤ nbits w 81 41

/-- The intermediate address of R448. -/
def windowIa (w : BitVec 128) (va : Nat) : Nat :=
  (nbits w.toNat 121 82 + nbits va 56 16 - nbits w.toNat 40 0) % 2 ^ 40 * 65536 + va % 65536

/-- The window's permissions R, W, X and its policy USER. -/
def winR (w : BitVec 128) : Bool := w.getLsbD 122
def winW (w : BitVec 128) : Bool := w.getLsbD 123
def winX (w : BitVec 128) : Bool := w.getLsbD 124
def winUser (w : BitVec 128) : Bool := w.getLsbD 125

/-- Canonical addresses (R183): bits [63:57] all equal bit [56]. -/
def canonical (a : Nat) : Bool := nbits a 63 56 == 0 || nbits a 63 56 == 255

/-- An address of the host range (R449). -/
def inHost (c : Ctx) (ia : Nat) : Bool := c.hostLen != 0 && c.hostBase ≤ ia && ia < c.hostBase + c.hostLen

/-- The walk of a device page at the MTU of a die, from its cached leaves or its tables (R452). -/
def leafAt (s : State) (die : Nat) (c : Ctx) (ia : Nat) : Walk :=
  match (s.dies.getD die default).tlb.find? (fun e => e.1 == c.id && ia / 2 ^ e.2.2.2 == e.2.1) with
  | some e => .leaf ⟨e.2.2.1.toNat, 0, e.2.2.2⟩
  | none => walk s c.root ia

/-- A device page is under migration: its leaf, or a node above it, has MIG set (R452). -/
def migrating (s : State) (die : Nat) (c : Ctx) (ia : Nat) : Bool :=
  !inHost c ia && (match leafAt s die c ia with
    | .leaf f => nbits f.pte 9 9 == 1
    | .wait => true
    | .away _ | .fault _ _ => false)

/-- Translation of an intermediate address at the MTU of a die, from its cached leaves or a walk for
device pages (R450, R452), and from cached ATS translations for host pages (R453); a denial is not cached: it answers the requests
that wait for it. -/
def translate (s : State) (die : Nat) (c : Ctx) (ia : Nat) (n : Need) : Xl :=
  let d := s.dies.getD die default
  if inHost c ia then
    match d.ats.find? (fun e => e.ctx == c.id && e.page == ia / 4096) with
    | none => .asked
    | some e =>
      if n.r && !e.r then .fault .readDenied 0
      else if n.w && !e.w then .fault .writeDenied 0
      else .loc (hostBase + e.frame * 4096 + ia % 4096)
  else
    match leafAt s die c ia with
    | .leaf f => leafXl f ia n
    | .fault k l => .fault k l
    | .wait => .wait
    | .away _ => .asked

/-- A virtual address of a context at a die: the window rule, then translation. None when no window
with the permissions holds it. -/
def vaXl (s : State) (die : Nat) (c : Ctx) (va : Nat) (n : Need) : Option (Nat × Xl) :=
  if !canonical va then none
  else
    match findWindow c.win va with
    | none => none
    | some i =>
      let w := c.win.getD i 0
      if (n.r && !winR w) || (n.w && !winW w) then none
      else some (windowIa w va, translate s die c (windowIa w va) n)

/-- The TLB after a walk's leaf was used: 8,192 leaves, the oldest dropped first (R452). -/
def tlbFill (s : State) (die : Nat) (c : Ctx) (ia : Nat) : State :=
  let d := s.dies.getD die default
  if inHost c ia || d.tlb.any (fun e => e.1 == c.id && ia / 2 ^ e.2.2.2 == e.2.1) then s
  else
    match walk s c.root ia with
    | .leaf f =>
      let d' := { d with tlb := ((c.id, ia / 2 ^ f.bits, BitVec.ofNat 64 f.pte, f.bits) :: d.tlb).take 8192 }
      { s with dies := s.dies.set die d' }
    | _ => s

/-- A request that a die's cached ATS translations miss asks the host for its page; requests for one page wait for one reply (R453,
R478). -/
def askAts (s : State) (die : Nat) (c : Ctx) (ia : Nat) : State :=
  let page := ia / 4096
  let d := s.dies.getD die default
  if !inHost c ia || d.asks.contains (c.id, page) || d.ats.any (fun e => e.ctx == c.id && e.page == page) then s
  else { s with dies := s.dies.set die { d with asks := d.asks ++ [(c.id, page)] } }

/-- Usxon is told of a malformed entry that a walk has met (R452). -/
def tellBad (s : State) (c : Ctx) (ia : Nat) : State :=
  if !inHost c ia && badFrom s ia 0 c.root walkLevels then { s with log := .malformed c.id ia :: s.log } else s

/-- A granule of 64 bytes is poisoned (R457). -/
def poisoned (s : State) (l n : Nat) : Bool :=
  (List.range (n / 64 + 2)).any fun i =>
    (l / 64 + i) * 64 < l + n && cget s.poison false (l / 64 + i)

end Sys2Proof.Machine
end

