-- ==== Sys2Proof/Machine/Ops.lean ====
section
/-! DEFINITION. The named operations over the state: access to its parts, lanes and subgroups (R125,
R126), registers and allocation (R16 to R25), taking a precise trap (R438), kills (R472), trace records
(R348), and the gate that every instruction passes when it issues. -/

namespace Sys2Proof.Machine

/-- The outcome of a step. -/
abbrev Out := Host.Outcome State Fault Refusal

/-! ### Parts of the state -/

def State.warp (s : State) (i : Nat) : Warp := s.warps.getD i default
def State.modWarp (s : State) (i : Nat) (f : Warp → Warp) : State := { s with warps := s.warps.modify i f }
def State.block (s : State) (i : Nat) : Block := s.blocks.getD i default
def State.modBlock (s : State) (i : Nat) (f : Block → Block) : State :=
  { s with blocks := s.blocks.modify i f }
def State.launch (s : State) (i : Nat) : Launch := s.launches.getD i default
def State.modLaunch (s : State) (i : Nat) (f : Launch → Launch) : State :=
  { s with launches := s.launches.modify i f }
def State.core (s : State) (i : Nat) : Core := s.cores.getD i default
def State.modCore (s : State) (i : Nat) (f : Core → Core) : State := { s with cores := s.cores.modify i f }
def State.die (s : State) (i : Nat) : Die := s.dies.getD i default
def State.modDie (s : State) (i : Nat) (f : Die → Die) : State := { s with dies := s.dies.modify i f }
def State.iface (s : State) (i : Nat) : Iface := s.ifaces.getD i default
def State.modIface (s : State) (i : Nat) (f : Iface → Iface) : State :=
  { s with ifaces := s.ifaces.modify i f }
/-- Contexts are numbered from 1; 0 names the idle account (R505). -/
def State.ctx (s : State) (i : Nat) : Ctx := s.ctxs.getD (i - 1) default
def State.modCtx (s : State) (i : Nat) (f : Ctx → Ctx) : State :=
  { s with ctxs := s.ctxs.modify (i - 1) f }
def State.quad (s : State) (c q : Nat) : Quad := (s.core c).quads.getD q default
def State.modQuad (s : State) (c q : Nat) (f : Quad → Quad) : State :=
  s.modCore c (fun k => { k with quads := k.quads.modify q f })
/-- The counter behind the free values moves on (log 3). -/
def State.bump (s : State) : State := { s with ctr := s.ctr + 1 }
/-- The compute die of a core (R517). -/
def dieOf (core : Nat) : Nat := core / 16

/-- Adds n to an event counter of a core; it counts only while its bit in the context's enable mask is
1 (R342). -/
def State.count (s : State) (core n k : Nat) : State :=
  match (s.core core).ctx with
  | some x => if (s.ctx x).cntMask.getLsbD n then s.modCore core (fun c => { c with cnt := cadd c.cnt n k }) else s
  | none => s

/-- A core's request uses the leaf of an intermediate address: one that its die's TLB does not hold is walked, once, and held
(R452, R342). -/
def State.walkFor (s : State) (core : Nat) (c : Ctx) (ia : Nat) : State :=
  let d := s.die (dieOf core)
  if inHost c ia || d.tlb.any (fun e => e.1 == c.id && ia / 2 ^ e.2.2.2 == e.2.1) then s
  else (tlbFill s (dieOf core) c ia).count core 36 1

/-! ### Lanes and subgroups -/

def Warp.thread (w : Warp) (l : Nat) : Thread := w.thr.getD l default
def Warp.modThread (w : Warp) (l : Nat) (f : Thread → Thread) : Warp := { w with thr := w.thr.modify l f }
/-- Applies f to every lane of a mask. -/
def Warp.modLanes (w : Warp) (m : LMask) (f : Nat → Thread → Thread) : Warp :=
  (lanesOf m).foldl (fun w l => w.modThread l (f l)) w
def Warp.group? (w : Warp) (g : Nat) : Option Group := w.groups.find? (fun x => x.gid == g)
def Warp.group (w : Warp) (g : Nat) : Group := (w.group? g).getD default
def Warp.modGroup (w : Warp) (g : Nat) (f : Group → Group) : Warp :=
  { w with groups := w.groups.map (fun x => if x.gid == g then f x else x) }
/-- Takes lanes out of a subgroup; an empty subgroup goes. -/
def Warp.leave (w : Warp) (g : Nat) (m : LMask) : Warp :=
  let cut := w.groups.map (fun x => if x.gid == g then { x with mask := x.mask &&& ~~~m } else x)
  { w with groups := cut.filter (fun x => x.mask != 0) }

/-- Takes lanes out of every subgroup. -/
def Warp.leaveAll (w : Warp) (m : LMask) : Warp :=
  { w with groups := (w.groups.map (fun x => { x with mask := x.mask &&& ~~~m })).filter (fun x => x.mask != 0) }

/-- The lanes whose trap depth is 1. -/
def Warp.deep (w : Warp) : LMask := maskOf (fun l => (w.thread l).depth)
/-- The lanes stopped by the debugger. -/
def Warp.halted (w : Warp) : LMask := maskOf (fun l => (w.thread l).halt)

/-- The latches of a lane at a run start: UNKNOWN (R29). -/
def unkLatches (draw lane : Nat) : Latches :=
  ⟨Config.unknown64 (draw * 256 + lane * 4), Config.unknown64 (draw * 256 + lane * 4 + 1),
    Config.unknown64 (draw * 256 + lane * 4 + 2), Config.unknown64 (draw * 256 + lane * 4 + 3)⟩

/-- The subgroup stands at the start of a run at pc (R322). One that waits unissued at its run's first instruction does not,
while it waits: it merges once the wait has ended (DESIGN CHOICE, log 9: R125 and R322 do not say). -/
def Group.startsAt (g : Group) (pc : W64) : Bool := g.pos.start == pc && g.pos.off == 0 && g.wait.isNone

/-- A lane comes to the run start pc (R53, R125, R322): its latches become UNKNOWN, it stops there when a
memory-side fault has been reported (R442) and nothing of its last run can still trap (R435), and else it joins the subgroup of
the lanes that came there with it. Subgroups that stand at one run start become one from the next cycle on (`Warp.merge`). Lanes of different
trap depth, and stopped lanes, stay apart (log 9). -/
def Warp.land (w : Warp) (draw : Nat) (l : Nat) (pc : W64) (after : List Nat) : Warp :=
  let t := w.thread l
  if t.stop && after.isEmpty then
    { w.modThread l (fun t => { t with st := .memStopped pc, stop := false }) with parkDue := true }
  else
    let w1 := w.modThread l (fun t => { t with st := .live, lat := unkLatches draw l })
    match w1.groups.find? (fun g => g.runId / 64 == draw && g.startsAt pc && (w.thread (lowLane g.mask)).depth == t.depth
        && (w.thread (lowLane g.mask)).halt == t.halt) with
    | some g => w1.modGroup g.gid (fun g => { g with mask := g.mask ||| laneBit l })
    | none =>
      let g : Group := ⟨w1.nextGid, laneBit l, ⟨pc, [], 0⟩, none, draw * 64 + l, after⟩
      { w1 with groups := w1.groups ++ [g], nextGid := w1.nextGid + 1 }

/-- Lanes come to run starts of their own, lowest lane first. -/
def Warp.landAll (w : Warp) (draw : Nat) (ts : List (Nat × W64)) (after : List Nat) : Warp :=
  ts.foldl (fun w t => w.land draw t.1 t.2 after) w

/-- Two subgroups that stand at one run start are one (R125, R322): they have one trap depth and are alike stopped or
not. -/
def Warp.meets (w : Warp) (a b : Group) : Bool :=
  let x := w.thread (lowLane a.mask)
  let y := w.thread (lowLane b.mask)
  a.startsAt b.pos.start && b.startsAt b.pos.start && x.depth == y.depth && x.halt == y.halt

/-- A subgroup joins the first of a list that it meets, with the run that either has fetched. -/
def Warp.meetIn (w : Warp) (gs : List Group) (g : Group) : List Group :=
  match gs.find? (fun a => w.meets a g) with
  | some a =>
    let run := if a.pos.run.isEmpty then g.pos.run else a.pos.run
    gs.map (fun x => if x.gid == a.gid then { a with mask := a.mask ||| g.mask, pos := { a.pos with run := run }, after := a.after ++ g.after } else x)
  | none => gs ++ [g]

/-- Subgroups at one run start merge (R125, R322); those of `keep`, on the sides of the quadrant, keep their
names. -/
def Warp.merge (w : Warp) (keep : List Nat) : Warp :=
  let first := keep.eraseDups.filterMap w.group?
  let rest := w.groups.filter (fun g => !keep.contains g.gid)
  { w with groups := (first ++ rest).foldl w.meetIn [] }

/-- The instruction a subgroup stands at; none before its run is fetched. -/
def Group.cur (g : Group) : Option Fetched := g.pos.run[g.pos.off]?

/-- The PC of a position. -/
def Pos.pc (p : Pos) : W64 := match p.run[p.off]? with | some f => f.pc | none => p.start
/-- The PC of a subgroup (R14). -/
def Group.pc (g : Group) : W64 := g.pos.pc
/-- The PC after an instruction (R126). -/
def Fetched.next (f : Fetched) : W64 := f.pc + BitVec.ofNat 64 f.len
/-- What a fetched instruction decodes to (R94). -/
def Fetched.decoded (f : Fetched) : Decoded := decodeForm f.word f.bad
/-- The E bit of a word (R58). -/
def Fetched.ends (f : Fetched) : Bool := f.word.getLsbD 85

/-- Long-latency results of a run for which the next run must wait (R167, R325): those whose exceptions
may trap or whose destination is uniform. -/
def Warp.awaited (w : Warp) (runId : Nat) : List Nat :=
  (w.llr.filter (fun r => r.runId == runId && (r.uni || r.exc != 0))).map (·.id)

/-- A subgroup's lanes go on after the instruction f: to the next instruction of the run, or to a run
start after its end (R53, R126). -/
def Warp.advance (w : Warp) (draw : Nat) (gid : Nat) (f : Fetched) : Warp :=
  let g := w.group gid
  if f.ends then
    (w.leave gid g.mask).landAll draw ((lanesOf g.mask).map (fun l => (l, f.next))) (w.awaited g.runId)
  else
    w.modGroup gid (fun g => { g with pos := { g.pos with off := g.pos.off + 1 }, wait := none })

/-- Splits lanes off a subgroup into one of their own at the same position. -/
def Warp.split (w : Warp) (gid : Nat) (m : LMask) : Warp :=
  let g := w.group gid
  if m &&& g.mask = g.mask || m &&& g.mask = 0 then w
  else
    let cut := w.groups.map (fun x => if x.gid == gid then { x with mask := x.mask &&& ~~~m } else x)
    let g' := { g with gid := w.nextGid, mask := g.mask &&& m }
    { w with groups := cut ++ [g'], nextGid := w.nextGid + 1 }

/-! ### Registers -/

/-- A predicate as a lane mask; q0 reads true (R24). -/
def RegFile.pred (r : RegFile) (q : Nat) : LMask := if q = 0 then BitVec.allOnes 32 else cget r.q 0 q
/-- Writes a predicate in the lanes of a mask; q0 discards it (R24). -/
def RegFile.setPred (r : RegFile) (q : Nat) (act val : LMask) : RegFile :=
  if q = 0 then r else { r with q := cset r.q 0 q ((r.pred q &&& ~~~act) ||| (val &&& act)) }
/-- One lane of a v register. -/
def RegFile.vget (r : RegFile) (n l : Nat) : W32 := cget r.v 0 (n * 32 + l)
/-- Writes one lane of a v register. -/
def RegFile.vset (r : RegFile) (n l : Nat) (x : W32) : RegFile := { r with v := cset r.v 0 (n * 32 + l) x }
/-- vN is allocated (R17). -/
def RegFile.has (r : RegFile) (n : Nat) : Bool := r.alloc.getLsbD n
/-- Allocates vN at a first write: the lanes not written read as 0 (R17). -/
def RegFile.take (r : RegFile) (n : Nat) : RegFile :=
  if r.has n then r
  else { r with v := cclear r.v (n * 32) (n * 32 + 32), alloc := r.alloc ||| BitVec.ofNat 256 (2 ^ n) }
/-- Frees vN (R19). -/
def RegFile.drop (r : RegFile) (n : Nat) : RegFile :=
  { r with v := cclear r.v (n * 32) (n * 32 + 32), alloc := r.alloc &&& ~~~BitVec.ofNat 256 (2 ^ n) }
/-- A uniform register. -/
def RegFile.sget (r : RegFile) (n : Nat) : W64 := cget r.s 0 n
/-- A buffer record (R362). -/
def RegFile.brec (r : RegFile) (n : Nat) : BitVec 256 := cget r.b 0 n
/-- Physical registers held (R17): sr.FOOTPRINT. -/
def RegFile.footprint (r : RegFile) : Nat := ((List.range 256).filter r.has).length

/-- A latch (R14). -/
def Latches.get (x : Latches) (n : Nat) : W64 :=
  match n with
  | 0 => x.x0
  | 1 => x.x1
  | 2 => x.x2
  | _ => x.x3
/-- Writes a latch. -/
def Latches.set (x : Latches) (n : Nat) (v : W64) : Latches :=
  match n with
  | 0 => { x with x0 := v }
  | 1 => { x with x1 := v }
  | 2 => { x with x2 := v }
  | _ => { x with x3 := v }

/-- A latch value of a 32-bit result: bits [63:32] are UNKNOWN (R28). -/
def latch32 (draw l x : Nat) : W64 :=
  BitVec.ofNat 64 (x % 2 ^ 32 + (Config.unknown64 (draw * 256 + 128 + l)).toNat / 2 ^ 32 * 2 ^ 32)

/-- Free physical registers of a quadrant (R326): its pool less what its seated warps hold. -/
def State.poolFree (s : State) (core quad : Nat) : Nat :=
  2048 - ((s.warps.filter (fun w => w.core == core && w.quad == quad &&
    (match w.place with | .seated _ | .movingOut .. | .movingIn _ => true | _ => false))).map
      (fun w => w.rf.footprint)).sum

/-! ### Encryption of device memory (R499) -/

/-- What the HBM4 controllers encrypt the granule of an access with (R499): in the device range of a confidential context its key and the
granule's IA[55:6], as one number; 0 for none. -/
def sealOf (s : State) (ctx ia l : Nat) : Nat :=
  let c := s.ctx ctx
  if c.conf && l < Config.deviceBytes && c.devBase ≤ ia && ia < c.devBase + c.devLen then 1 + ctx * 2 ^ 50 + ia / 64 else 0

/-- What the granule of a place is encrypted with. -/
def sealAt (s : State) (l : Nat) : Nat := cget s.seals 0 (l / 64)

/-- A byte of memory as it is read under a key and tweak. -/
def seenByte (s : State) (x l : Nat) : Byte :=
  if sealAt s l = x then memGet s.mem l else Config.recrypt (sealAt s l) x (memReadN s.mem (l / 64 * 64) 64) (l % 64)

/-- The key and tweak of the next byte. -/
def nextSeal (x l : Nat) : Nat := if x ≠ 0 ∧ (l + 1) % 64 = 0 then x + 1 else x

/-- n bytes, little-endian, as they are read under a key and the tweaks from x on. -/
def seenN (s : State) : Nat → Nat → Nat → Nat
  | _, _, 0 => 0
  | x, l, n + 1 => (seenByte s x l).toNat + 256 * seenN s (nextSeal x l) (l + 1) n

/-- The granule of a place comes under a key and tweak: what else it holds stays as it reads under them. -/
def reseal (s : State) (x l : Nat) : State :=
  if sealAt s l = x then s
  else
    { s with
      mem := memWriteL s.mem (l / 64 * 64) ((List.range 64).map (fun i => seenByte s x (l / 64 * 64 + i)))
      seals := cset s.seals 0 (l / 64) x }

/-- The granules of n bytes come under a key and the tweaks from x on. -/
def resealN (s : State) : Nat → Nat → Nat → State
  | _, _, 0 => s
  | x, l, n + 1 => resealN (reseal s x l) (nextSeal x l) (l + 1) n

/-- Bytes written under a key and the tweaks from x on. -/
def sealWriteL (s : State) (x l : Nat) (bs : List Byte) : State :=
  let s1 := resealN s x l bs.length
  { s1 with mem := memWriteL s1.mem l bs }

/-- The n low bytes of v written under a key and the tweaks from x on. -/
def sealWriteN (s : State) (x l n v : Nat) : State := sealWriteL s x l (leBytes n v)

/-- The 128 bytes of a line at its home, as a context reads them at an intermediate address. -/
def lineNow (s : State) (ctx ia l : Nat) : BitVec 1024 := BitVec.ofNat 1024 (seenN s (sealOf s ctx ia l) l 128)

/-! ### Names and trace records -/

/-- The logical-thread name (R347). -/
def threadName (s : State) (b : Block) (thread : Nat) : Nat :=
  (s.launch b.launch).lid.toNat + b.index * 2 ^ 64 + thread * 2 ^ 104 + b.attempt * 2 ^ 114

/-- The logical-thread name of a lane of a warp (R347). -/
def laneName (s : State) (w : Warp) (l : Nat) : Nat := threadName s (s.block w.block) (w.index * 32 + l)

/-- Writes bytes at virtual addresses of a context, each translated at a die; none when one of them
cannot be. -/
def softWrite (s : State) (die : Nat) (c : Ctx) (va : Nat) : List Byte → Option State
  | [] => some s
  | b :: r =>
    match vaXl s die c va ⟨false, false, none⟩ with
    | some (ia, .loc l) => softWrite (sealWriteL s (sealOf s c.id ia l) l [b]) die c (va + 1) r
    | _ => none

/-- Reads n bytes at virtual addresses of a context; none when one of them cannot be translated. -/
def softRead (s : State) (die : Nat) (c : Ctx) (va : Nat) : Nat → Option Nat
  | 0 => some 0
  | n + 1 =>
    match vaXl s die c va ⟨false, false, none⟩, softRead s die c (va + 1) n with
    | some (ia, .loc l), some r => some ((seenByte s (sealOf s c.id ia l) l).toNat + 256 * r)
    | _, _ => none

/-- Appends a record to a ring: at data offset W mod 2^m, only when it fits; W moves after it (R346).
None when it is dropped. -/
def ringWrite (s : State) (die : Nat) (c : Ctx) (r : Ring) (bytes : List Byte) : Option State :=
  match softRead s die c r.va 8, softRead s die c (r.va + 8) 8 with
  | some w, some rd =>
    if w + bytes.length - rd ≤ 2 ^ r.m then
      (softWrite s die c (r.va + 64 + w % 2 ^ r.m) bytes).bind
        (fun s => softWrite s die c r.va (leBytes 8 (w + bytes.length)))
    else none
  | _, _ => none

/-- A trace record before its ring is known (R348, R349). -/
structure TraceRec where
  kind : Nat
  code : Nat := 0
  mask : LMask := 0
  pc : W64 := 0
  name : Nat := 0
  arg0 : Nat := 0
  arg1 : Nat := 0
  deriving DecidableEq, Repr, Inhabited

/-- The 64 bytes of a trace record (R348). -/
def traceBytes (s : State) (core quad lost : Nat) (r : TraceRec) : List Byte :=
  leBytes 1 r.kind ++ leBytes 1 (core % 64 + quad * 64) ++ leBytes 2 r.code ++ leBytes 4 r.mask.toNat
    ++ leBytes 8 s.time ++ leBytes 8 r.pc.toNat ++ leBytes 16 r.name ++ leBytes 8 r.arg0
    ++ leBytes 8 r.arg1 ++ leBytes 2 lost ++ leBytes 6 0

/-- Writes a trace record of a context from a core's quadrant, when the ring's kind enable mask selects
it, or always for STOP while a session is attached (R346, R348). A record that does not fit is counted
in LOST. A context without a ring gets no record, a STOP neither (DESIGN CHOICE, log 89). -/
def traceEmit (s : State) (ctx core quad : Nat) (r : TraceRec) : State :=
  let c := s.ctx ctx
  let die := dieOf core
  match c.trace with
  | none => s
  | some ring =>
    let en := match softRead s die c (ring.va + 16) 1 with
      | some m => m / 2 ^ r.kind % 2 == 1
      | none => false
    if en || (r.kind == 3 && c.dbg.isSome) then
      let lost := (s.core core).lostTrace
      match ringWrite s die c ring (traceBytes s core quad (min lost 65535) r) with
      | some s' => s'.modCore core (fun k => { k with lostTrace := 0 })
      | none => s.modCore core (fun k => { k with lostTrace := min (k.lostTrace + 1) 65535 })
    else s

/-! ### Launch record fields -/

/-- Bits [hi:lo] of a launch record (R285). -/
def Launch.field (l : Launch) (hi lo : Nat) : Nat := nbits l.record.toNat hi lo
def Launch.hen (l : Launch) : Bool := l.field 263 263 == 1
def Launch.htile (l : Launch) : Nat := l.field 271 264
def Launch.laneKb (l : Launch) : Nat := l.field 262 256
/-- SIZE of the level of a kind, if declared (R292). -/
def Launch.level (l : Launch) (kind : Nat) : Option Nat :=
  ((List.range (l.field 70 67 - 2)).find? (fun i => l.field (32 * (i + 2) + 274) (32 * (i + 2) + 272) == kind)).map
    (fun i => l.field (32 * (i + 2) + 271) (32 * (i + 2) + 256))
/-- Warps per team, if a team level is declared. -/
def Launch.team (l : Launch) : Option Nat := l.level 1
/-- Blocks per cluster (R296). -/
def Launch.csize (l : Launch) : Nat := (l.level 3).getD 1

/-- The code of a kind (R265). -/
def kindCode : Kind → Nat
  | .illegal => 0x01 | .regUndef => 0x02 | .range => 0x03 | .misalign => 0x04 | .fmtDiverge => 0x05
  | .userTrap => 0x06 | .fpInvalid => 0x08 | .fpDivzero => 0x09 | .fpOverflow => 0x0A
  | .fpUnderflow => 0x0B | .fpInexact => 0x0C | .memPark => 0x10 | .notPresent => 0x20
  | .readDenied => 0x21 | .writeDenied => 0x22 | .domainFloor => 0x23 | .poison => 0x24 | .walk => 0x25
  | .hostPage => 0x26 | .deferred => 0x27 | .refused => 0x30 | .liveError => 0x31
  | .controlParity => 0x32 | .cluster => 0x33

/-! ### Kills and precise traps -/

/-- An unrecoverable event: the block is marked, and its warps issue nothing more; in a cluster launch
every other block of the cluster goes with it (R304, R473). BLOCK_KILL does the rest. -/
def killBlock (s : State) (b : Nat) (k : KillInfo) : State :=
  let blk := s.block b
  let s1 := s.modBlock b (fun x => if x.kill.isSome then x else { x with kill := some k })
  if (s.launch blk.launch).level 3 = none then s1
  else
    let mate := fun (x : Block) =>
      x.launch == blk.launch && x.clus == blk.clus && x.id != b && !x.ended && x.kill.isNone
    let hit := fun (x : Block) => if mate x then { x with kill := some ⟨kindCode .cluster, 0, 0, 0⟩ } else x
    { s1 with blocks := s1.blocks.map hit }

/-- Lanes that trap, with their kinds and TRAP codes. -/
abbrev Traps := List (Nat × Kind)

/-- The lanes of a list of traps. -/
def trapMask (ts : Traps) : LMask := maskOf (fun l => ts.any (fun t => t.1 == l))

/-- TAKING A PRECISE TRAP (R438, R439, R259, R472): the lanes park at position p, each with its trap
record; they form one trap event, which waits to be vectored. Without a handler, or at trap depth 1, it
is unrecoverable. -/
def takeTrap (s : State) (wid : Nat) (p : Pos) (f : Fetched) (code : BitVec 16) (ts : Traps) : State :=
  if ts.isEmpty then s
  else
    let m := trapMask ts
    let w := s.warp wid
    let b := s.block w.block
    let kd := fun l => ((ts.find? (fun x => x.1 == l)).map (·.2)).getD .illegal
    let trec := fun l => some (TrapRec.mk (kd l) f.pc code f.word m)
    let rid := ((w.groups.find? (fun g => hasLane g.mask (lowLane m))).map (·.runId)).getD 0
    let parked := (w.leaveAll m).modLanes m (fun l t =>
      { t with st := .parked p rid, trec := if t.depth then t.trec else trec l })
    let s1 := (s.modWarp wid (fun _ => { parked with events := parked.events ++ [⟨m, false⟩] })).count w.core 31 1
    if w.deep &&& m ≠ 0 || !(s.launch b.launch).hen then
      let l := lowLane m
      killBlock s1 w.block ⟨kindCode (kd l), m, f.pc, w.index * 32 + l⟩
    else s1

/-! ### Issuing -/

/-- What an instruction sees when it issues: its slot, warp, subgroup, shape, the register file that it
reads (the one before the cycle for side B, R68) and its active lanes (R60). -/
structure Cx where
  iss : Iss
  w : Warp
  g : Group
  p : Shape
  rf : RegFile
  act : LMask
  deriving DecidableEq, Repr, Inhabited

/-- The register file that a side reads (R68, R324). -/
def Warp.view (w : Warp) (side : Side) : RegFile := match side with | .A => w.rf | .B => w.rf0.getD w.rf

/-- The warp with the latches that a side reads (R68, R142). -/
def Warp.seen (w : Warp) (side : Side) : Warp :=
  match side with
  | .A => w
  | .B => { w with thr := w.thr.zipIdx.map (fun x => { x.1 with lat := w.lat0.getD x.2 x.1.lat }) }

/-- The warp as a cycle of its side A begins: side B reads the registers and latches as they stand now. -/
def Warp.snapCycle (w : Warp) (ctr : Nat) : Warp := { w with rf0 := some w.rf, lat0 := w.thr.map (·.lat), ids0 := some ctr }
/-- The warp after its cycle. -/
def Warp.endCycle (w : Warp) : Warp := { w with rf0 := none, lat0 := [], ids0 := none }
/-- A result was issued before the cycle in progress (R324). -/
def Warp.before (w : Warp) (id : Nat) : Bool := w.ids0.all (fun n => decide (id < n))

/-- The lanes in which the guard holds (R60). -/
def guardMask (r : RegFile) (h : Hd) : LMask :=
  if h.gn then ~~~r.pred h.g.toNat else r.pred h.g.toNat

/-- v registers that an instruction reads: (register, last read). -/
def Shape.reads (p : Shape) : List (Nat × Bool) :=
  p.srcs.flatMap fun o =>
    match o.src with
    | .v r l _ => (List.range o.n).map (fun k => (r.toNat + k, l))
    | _ => []

/-- v registers that an instruction writes. -/
def Shape.writes (p : Shape) : List Nat :=
  match p.dst with
  | .v r n => if p.d then [] else (List.range n).map (r + ·)
  | _ => []

/-- Latches that an instruction reads. -/
def Shape.latches (p : Shape) : List Nat :=
  p.srcs.filterMap fun o => match o.src with | .x r => some r.toNat | _ => none

/-- A memory instruction in flight still owes its destination. -/
def Txn.owes (t : Txn) : Bool := t.accs.any (fun a => a.st != .done)
/-- v registers that a memory instruction writes. -/
def Txn.regs (t : Txn) : List Nat := (List.range t.nregs).map (t.dst + ·)

/-- Everything of a warp that still owes a destination, from before the cycle in progress (R324): transactions, fault records,
pending faults. -/
def State.owing (s : State) (w : Warp) : List Txn :=
  (w.txns.filter Txn.owes ++ w.fr.filterMap (·.map (·.txn))
    ++ (((s.core w.core).pfq.filter (fun x => x.1 == w.id)).map (·.2.txn))).filter (fun t => w.before t.id)

/-- Buffer records that a memory instruction writes. -/
def Txn.recs (t : Txn) : List Nat := match t.kind with | .ldrec b => [b] | _ => []

/-- An instruction reads or writes one of these v registers or records. -/
def Shape.names (p : Shape) (regs recs : List Nat) : Bool :=
  regs.any (fun x => p.writes.contains x || p.reads.any (fun r => r.1 == x))
    || recs.any (fun x => p.rd.any (fun b => b.toNat == x) || p.wr.any (fun b => b.toNat == x))

/-- An instruction names a register or record that is pending on a load, an atomic or LDREC (R196). -/
def namesPending (l : List Txn) (p : Shape) : Bool := l.any fun t => p.names t.regs t.recs

/-- An instruction names the destination of a load, an atomic or LDREC that its own run has issued, whether or not the
data has arrived (R196). -/
def Warp.namesLoaded (w : Warp) (g : Group) (p : Shape) : Bool :=
  w.loads.any fun o => o.runId == g.runId && o.mask &&& g.mask != 0 && p.names o.regs o.recs

/-- Runs in which some lane of the warp stands, waits to be vectored, or was interrupted. -/
def Warp.runsOpen (w : Warp) : List Nat :=
  w.groups.map (·.runId) ++ w.thr.flatMap fun t =>
    (match t.st with | .parked _ r => [r] | _ => []) ++ (t.intr.map (·.runId)).toList

/-- The destinations of a memory instruction that lanes of a run have issued are kept while the run lasts. -/
def Warp.loaded (w : Warp) (m : LMask) (t : Txn) : Warp :=
  { w with loads := w.loads.filter (fun o => w.runsOpen.contains o.runId) ++
      (if t.regs = [] && t.recs = [] then [] else [⟨t.runId, m, t.regs, t.recs⟩]) }

/-- An instruction must wait for a long-latency result of R167 from before the cycle in progress (R324): it reads or writes
the register, reads the latch in the issuing run, or its run holds for exceptions or a uniform destination. -/
def llrHold (w : Warp) (g : Group) (p : Shape) : Bool :=
  (w.llr.filter (fun r => w.before r.id)).any fun r =>
    (!r.d && !r.uni && (p.reads.any (fun x => x.1 == r.dst) || p.writes.contains r.dst))
      || (r.runId == g.runId && ((p.latches.contains r.lt && r.latch != 0) || r.uni || r.exc != 0))

/-- The shared ports of R323. -/
inductive Port
  | none | sfu | memory | matrix | system
  deriving DecidableEq, Repr, Inhabited

/-- The port that an instruction needs (R323, R167). -/
def portOf (w : Word) : Port :=
  let opc := w.toNat / 2 ^ 86
  match opc / 128 with
  | 2 => if opc == 0x108 || (0x110 ≤ opc && opc ≤ 0x117) then .sfu else .none
  | 4 | 5 => .memory
  | 6 => .matrix
  | 7 => .system
  | _ => .none

/-- The port is held: by side A in this cycle, or by an earlier instruction (R323, R167, R374). -/
def portBusy (k : Core) (q : Quad) (side : Side) (p : Port) : Bool :=
  match p with
  | .none => false
  | .sfu => (side == .B && q.usedA == some 1) || k.clock < q.sfuUntil
  | .memory => (side == .B && q.usedA == some 2) || k.clock < q.memUntil
  | .matrix => side == .B && q.usedA == some 3
  | .system => side == .B && q.usedA == some 4

/-- A port's number in `Quad.usedA`. -/
def Port.num : Port → Nat
  | .none => 0 | .sfu => 1 | .memory => 2 | .matrix => 3 | .system => 4

/-- The outcome of the checks before an instruction acts. -/
inductive Gate
  | noIssuer
  | go (c : Cx)
  | trap (c : Cx) (k : Kind)
  | hold (c : Cx) (why : Cause)
  | full (c : Cx)
  deriving DecidableEq, Repr, Inhabited

/-- Registers that the instruction must allocate (R17): none with D set or no active lane. -/
def newRegs (c : Cx) : List Nat :=
  if c.act = 0 then [] else c.p.writes.filter (fun r => !c.w.rf.has r)

/-- An instruction names what is still pending for one of its active lanes (R196, R325). -/
def Cx.owed (c : Cx) (s : State) : Bool := namesPending ((s.owing c.w).filter (fun t => t.mask &&& c.act != 0)) c.p

/-- A first write of the instruction finds no free register, and it does not trap (R18). -/
def Cx.lacks (c : Cx) (q : Quad) : Bool :=
  decide (q.avail < (newRegs c).length) && !c.w.namesLoaded c.g c.p && c.p.reads.all (fun r => c.rf.has r.1)

/-- THE GATE (R196, R21, R18, R318, R323): a result still pending for the lanes holds the instruction, and then a held
port, charged to REG_ALLOC where a register is lacking too (the lower code of R336 comes first); one that names what a load of
its own run writes is ILLEGAL, an unallocated source is REG-UNDEF, and a first write without a free register suspends. -/
def gate (s : State) (i : Instr) : Gate :=
  match s.iss, shape i with
  | some iss, some p =>
    let w := (s.warp iss.warp).seen iss.side
    let g := w.group iss.gid
    let rf := w.view iss.side
    let c : Cx := ⟨iss, w, g, p, rf, g.mask &&& guardMask rf p.h⟩
    let k := s.core iss.core
    let q := k.quads.getD iss.quad default
    let held := fun (why : Cause) => Gate.hold c (if c.lacks q then .regAlloc else why)
    if llrHold w g p then held .dependence
    else if c.act ≠ 0 && !w.namesLoaded g p && c.owed s then held .dependence
    else if portBusy k q iss.side (portOf iss.f.word) then held .pipe
    else if c.act ≠ 0 && w.namesLoaded g p then .trap c .illegal
    else if c.act ≠ 0 && p.reads.any (fun r => !rf.has r.1) then .trap c .regUndef
    else if q.avail < (newRegs c).length then .full c
    else .go c
  | _, _ => .noIssuer

/-- Sets what the slot's instruction came to. -/
def State.out (s : State) (o : IssOut) : State := { s with iss := s.iss.map (fun i => { i with out := o }) }

/-- The instruction raises one kind of trap in some lanes. -/
def trapLanes (s : State) (c : Cx) (m : LMask) (k : Kind) : State :=
  takeTrap s c.iss.warp c.g.pos c.iss.f 0 ((lanesOf m).map (fun l => (l, k)))

/-- A suspended subgroup (R318); `charged` is what this slot is charged to. -/
def suspend (s : State) (c : Cx) (wt : Wait) (cause charged : Cause) : State :=
  (s.modWarp c.iss.warp (fun w => w.modGroup c.g.gid (fun g => { g with wait := some wt }))).out
    (.suspended cause charged)

/-- The sources marked as last reads that the instruction does not also write (R19, R20). -/
def Shape.lasts (p : Shape) : List Nat := (p.reads.filter (fun r => r.2 && !p.writes.contains r.1)).map (·.1)

/-- Frees the sources marked as last reads (R19, R20, R22): only when the subgroup is the whole live
warp, as it stands when the instruction issues (log 68). -/
def freeLast (c : Cx) (rf : RegFile) : RegFile :=
  if c.g.mask = c.w.live then c.p.lasts.foldl RegFile.drop rf else rf

/-- Takes the registers of a first write from the pool (R17, R327). -/
def State.allocate (s : State) (c : Cx) : State :=
  if newRegs c = [] then s
  else
    let s1 := s.modWarp c.iss.warp (fun w => { w with rf := (newRegs c).foldl RegFile.take w.rf })
    s1.modQuad c.iss.core c.iss.quad (fun q => { q with avail := q.avail - (newRegs c).length })

/-- Applies f to the issuing warp. -/
def State.modIss (s : State) (c : Cx) (f : Warp → Warp) : State := s.modWarp c.iss.warp f

/-- The cycle count of the issuing core. -/
def State.now (s : State) (c : Cx) : Nat := (s.core c.iss.core).clock

/-- The subgroup goes on after the instruction, with its last reads freed. -/
def State.done (s : State) (c : Cx) : State :=
  (s.modIss c (fun w =>
    let w := { w with rf := freeLast c w.rf }
    w.advance s.ctr c.g.gid c.iss.f)).bump.out .issued

/-- What a slot's instruction comes to when lanes of the mask trap: it has issued when another lane completes, which is
the lower code (R336, log 23). -/
def trapOut (c : Cx) (m : LMask) : IssOut := if c.act &&& ~~~m = 0 then .trapped else .issued

/-- The subgroup goes on without freeing anything: the lanes of the mask trapped (R22). -/
def State.doneTrap (s : State) (c : Cx) (m : LMask) : State :=
  (s.modIss c (fun w => w.advance s.ctr c.g.gid c.iss.f)).bump.out (trapOut c m)

/-- Every active lane traps; the subgroup's other lanes go on (R60, R94). -/
def State.trapAll (s : State) (c : Cx) (k : Kind) : State := (trapLanes s c c.act k).doneTrap c c.act

/-- No free register (R18): the instruction suspends, but one that traps in every active lane writes none, and its
trap is the lower code (R336). -/
def whenFull (c : Cx) (s : State) (o : Out) : Out :=
  match o with
  | .next t =>
    if t.iss.any (fun x => x.out == .trapped) then .next t else .next (suspend s c (.unissued .regAlloc) .regAlloc .regAlloc)
  | x => x

/-- Runs an instruction's own effect behind the gate. -/
def runOp (i : Instr) (s : State) (body : Cx → State → Out) : Out :=
  match gate s i with
  | .noIssuer => .fault .noIssuer
  | .trap c k => .next (s.trapAll c k)
  | .hold _ why => .next (s.out (.held why))
  | .full c => whenFull c s (body c s)
  | .go c => body c s

/-- Ends an instruction in which the lanes ts raised precise traps and the others complete (R186). -/
def State.finish (s : State) (c : Cx) (ts : Traps) : State :=
  if ts.isEmpty then s.done c
  else (takeTrap s c.iss.warp c.g.pos c.iss.f 0 ts).doneTrap c (trapMask ts)

/-- The subgroup waits after its instruction has issued (R318): traps are taken and last reads freed. -/
def suspendIssued (s : State) (c : Cx) (ts : Traps) (wt : Wait) (cause : Cause) : State :=
  let s1 := takeTrap s c.iss.warp c.g.pos c.iss.f 0 ts
  let s2 := s1.modIss c (fun w =>
    let w := if ts.isEmpty then { w with rf := freeLast c w.rf } else w
    w.modGroup c.g.gid (fun g => { g with wait := some wt }))
  s2.out (.suspended cause .issued)

/-- The subgroup waits after its instruction has issued; the instruction may still trap, and its last reads are
freed when it completes (R22). -/
def suspendKeep (s : State) (c : Cx) (cause : Cause) (a : Args) : State :=
  (s.modIss c (fun w => w.modGroup c.g.gid (fun g => { g with wait := some (.issued cause c.act a) }))).out (.suspended cause .issued)

/-! ### Waits after issue -/

/-- How far an instruction has come that may have to wait after its issue (R318). -/
inductive Prog
  | wait (why : Cause) (s : State)
  | trap (k : Kind)
  | done (s : State)
  /-- it has acted, and waits on in these lanes, which stand apart from the others now -/
  | part (stay : LMask) (why : Cause) (s : State)
  deriving DecidableEq, Repr

/-- Lanes of a subgroup wait on in a subgroup of their own, and the others go on (R222). -/
def waitApart (s : State) (c : Cx) (stay : LMask) (why : Cause) (a : Args) : State :=
  let apart := (s.warp c.iss.warp).nextGid
  (s.modIss c (fun w => ((w.split c.g.gid stay).modGroup apart (fun g => { g with wait := some (.issued why stay a) })).advance s.ctr c.g.gid c.iss.f)).bump

/-- An instruction that acts once per subgroup and may wait after its issue: `args` are read when it
issues, `step` acts once nothing blocks it any more. -/
def waitOp (args : Cx → State → Args) (step : Cx → Args → State → Prog) (c : Cx) (s : State) : Out :=
  if c.act = 0 then .next (s.done c)
  else
    let a := args c s
    match step c a s with
    | .done s' => .next (s'.done c)
    | .trap k => .next (s.trapAll c k)
    | .wait why s' => .next (suspendKeep (s'.allocate c) c why { a with whole := c.g.mask == c.w.live })
    | .part m why s' => .next ((waitApart (s'.allocate c) c m why { a with whole := c.g.mask == c.w.live }).out .issued)

/-- Such an instruction behind the gate. -/
def runWait (i : Instr) (s : State) (args : Cx → State → Args) (step : Cx → Args → State → Prog) : Out :=
  runOp i s (waitOp args step)

/-- What a waiting subgroup of a warp sees when its wait is tried again. -/
def wakeCx (s : State) (wid : Nat) (g : Group) (f : Fetched) (p : Shape) (act : LMask) : Cx :=
  let w := s.warp wid
  ⟨⟨w.core, w.quad, .A, wid, g.gid, g.mask, f, .issued⟩, w, g, p, w.rf, act⟩

/-- The subgroup goes on after a wait that followed its issue. -/
def State.resumed (s : State) (c : Cx) : State :=
  (s.modIss c (fun w => w.advance s.ctr c.g.gid c.iss.f)).bump

/-- The outcome of trying a wait again: none while it goes on, with its cause brought up to date. -/
def progWake (s : State) (c : Cx) (a : Args) (p : Prog) : State :=
  match p with
  | .done s' => (s'.modIss c (fun w => if a.whole then { w with rf := c.p.lasts.foldl RegFile.drop w.rf } else w)).resumed c
  | .trap k => (trapLanes s c c.act k).resumed c
  | .wait why s' => s'.modIss c (fun w => w.modGroup c.g.gid (fun g => { g with wait := some (.issued why c.act a) }))
  | .part m why s' => waitApart s' c m why a

end Sys2Proof.Machine
end

