-- ==== Sys2Proof/Machine/Caches.lean ====
section
/-! DEFINITION. The caches: L1 with its copies and invalidation filters (R364 to R366), the tag stores of
the die L2 and the MLC (R363, R367), replacement and the set counters (R368, R369). -/

namespace Sys2Proof.Machine

/-- The priority of a policy; none for no-allocate (R368): evict-first 0, normal 1, evict-last 2. -/
def polPrio : Pol → Option Nat
  | .evictFirst => some 0
  | .dflt => some 1
  | .evictLast => some 2
  | .noAllocate => none

/-- A hit on a line (R368). -/
def CLine.hit (p : Option Nat) (stamp : Nat) (l : CLine) : CLine :=
  match p with
  | some q => { l with prio := max l.prio q, used := stamp }
  | none => l

/-- The line that leaves a full set: the lowest priority, and among those the least recently used (R368). -/
def victimOf (set : List (Nat × Nat × Nat)) : Option Nat :=
  (set.foldl (fun (b : Option (Nat × Nat × Nat)) x =>
    match b with
    | none => some x
    | some y => if x.2.1 < y.2.1 || (x.2.1 == y.2.1 && x.2.2 < y.2.2) then some x else b) none).map (·.1)

/-- An access to a tag store of a geometry: whether it hit, and the store after it (R368, R369). `na` is
the priority at which a no-allocate access fills, if it fills (R192). -/
def CacheT.access (c : CacheT) (sets ways line : Nat) (pol : Pol) (na : Option Nat) (stamp : Nat) : CacheT × Bool :=
  if c.lines.any (fun l => l.line == line) then
    ({ c with lines := c.lines.map (fun l => if l.line == line then l.hit (polPrio pol) stamp else l) }, true)
  else
    match (polPrio pol).or na with
    | none => (c, false)
    | some p =>
      if ways = 0 then (c, false)
      else
        let set := line % sets
        let here := c.lines.filter (fun l => l.line % sets == set)
        let out := if here.length < ways then none else victimOf (here.map (fun l => (l.line, l.prio, l.used)))
        let kept := c.lines.filter (fun l => some l.line != out)
        let added := ⟨line, p, stamp⟩ :: kept
        let m := cget c.miss 0 set + 1
        if m = 16 then
          (⟨added.map (fun l => if l.line % sets == set && l.prio == 2 then { l with prio := 1 } else l), cset c.miss 0 set 0⟩, false)
        else (⟨added, cset c.miss 0 set m⟩, false)

/-- PREF.DEMOTE on a tag store: evict-last lines of a range become normal (R207). -/
def CacheT.demote (c : CacheT) (lo hi : Nat) : CacheT :=
  { c with lines := c.lines.map (fun l => if lo ≤ l.line && l.line ≤ hi && l.prio == 2 then { l with prio := 1 } else l) }

/-- Ways of a die's L2 that carve-outs leave (R361, R363). -/
def l2Ways (s : State) : Nat := 16 - ((s.ctxs.filter (·.alive)).map (·.ways)).sum

/-- A set keeps at most n lines: those of the lowest priority, and among them the least recently used, go (R368). -/
def cutSet (n : Nat) : Nat → List CLine → List CLine
  | 0, ls => ls
  | k + 1, ls =>
    if ls.length ≤ n then ls
    else
      let out := victimOf (ls.map (fun l => (l.line, l.prio, l.used)))
      cutSet n k (ls.filter (fun l => some l.line != out))

/-- A tag store whose sets keep at most n ways. -/
def CacheT.shrink (c : CacheT) (sets n : Nat) : CacheT :=
  let fullSets := ((c.lines.map (fun l => l.line % sets)).eraseDups).filter (fun i => n < (c.lines.filter (fun l => l.line % sets == i)).length)
  { c with lines := fullSets.foldl (fun ls i =>
      cutSet n 16 (ls.filter (fun l => l.line % sets == i)) ++ ls.filter (fun l => l.line % sets != i)) c.lines }

/-- Carved ways leave every die's L2: what they held goes (R361, R363). -/
def shrinkL2 (s : State) : State := { s with dies := s.dies.map (fun d => { d with l2 := d.l2.shrink 65536 (l2Ways s) }) }

/-- The base die whose MLC holds a place: the interleave is not architectural (R518); the model takes
192 GiB of device memory per base die, and the fabric or host line's die by its line number (log 14). -/
def homeDie (loc : Nat) : Nat := if loc < peerBase then loc / (192 * 2 ^ 30) % 4 else loc / 128 % 4

/-- A core's request at its die's L2 (R363, R342). -/
def touchL2 (s : State) (core ia : Nat) (pol : Pol) : State × Bool :=
  let d := s.die (dieOf core)
  let (c, hit) := d.l2.access 65536 (l2Ways s) (ia / 128) pol none s.ctr
  ((s.modDie (dieOf core) (fun d => { d with l2 := c })).count core (if hit then 6 else 7) 1, hit)

/-- A core's request at the line's MLC slice; a no-allocate access fills as evict-first (R192). -/
def touchMlc (s : State) (core ia loc : Nat) (pol : Pol) : State :=
  let d := s.die (homeDie loc)
  let (c, hit) := d.mlc.access 262144 16 (ia / 128) pol (some 0) s.ctr
  (s.modDie (homeDie loc) (fun d => { d with mlc := c })).count core (if hit then 8 else 9) 1

/-- An access is performed on a peer line obtained Modified, which the device may then yield (R523). -/
def usePeer (s : State) (loc : Nat) : State :=
  if loc < peerBase || hostBase ≤ loc then s
  else { s with peers := s.peers.map (fun p => if p.fa == (loc - peerBase) / 128 then { p with fresh := false } else p) }

/-- A request beyond L1 (R190, R363): the die L2, and on a miss, or at a wider home, the MLC slice. -/
def touch (s : State) (core ia loc : Nat) (scope : Scope) (pol : Pol) : State :=
  let (s1, hit) := touchL2 (usePeer s loc) core ia pol
  if hit && scopeCode scope < 5 then s1 else touchMlc s1 core ia loc pol

/-! ### L1 -/

/-- The L1 copy of an IA's line in a context. -/
def Core.l1line (k : Core) (ctx ia : Nat) : Option L1Line := k.l1.find? (fun l => l.ctx == ctx && l.line == ia / 128)

/-- A byte of a line's copy. -/
def L1Line.byte (l : L1Line) (ia : Nat) : Nat := l.data.toNat / 2 ^ (8 * (ia % 128)) % 256

/-- A load hits a line: priority and recency (R368); the filters stay (R364). -/
def L1Line.hit (l : L1Line) (pol : Pol) (stamp : Nat) : L1Line :=
  match polPrio pol with
  | some q => { l with prio := max l.prio q, used := stamp }
  | none => l

/-- Fills a line after a miss of a RC or BULK load (R364, R368, R369): 128 sets of 16 ways. -/
def Core.l1fill (k : Core) (ctx line : Nat) (data : BitVec 1024) (rc bulk : Bool) (pol : Pol) (stamp : Nat) : Core :=
  match polPrio pol with
  | none => k
  | some p =>
    let set := line % 128
    let here := k.l1.filter (fun l => l.line % 128 == set)
    let out := if here.length < 16 then none else victimOf (here.map (fun l => (l.line, l.prio, l.used)))
    let kept := k.l1.filter (fun l => some l.line != out)
    let added := ⟨line, ctx, data, rc, bulk, p, stamp⟩ :: kept
    let m := cget k.l1miss 0 set + 1
    if m = 16 then
      { k with
        l1 := added.map (fun l => if l.line % 128 == set && l.prio == 2 then { l with prio := 1 } else l)
        l1miss := cset k.l1miss 0 set 0 }
    else { k with l1 := added, l1miss := cset k.l1miss 0 set m }

/-- A line's copy with n bytes of it written from an offset on. -/
def L1Line.put (l : L1Line) (off n data : Nat) : L1Line :=
  let m := (2 ^ (8 * n) - 1) * 2 ^ (8 * off)
  { l with data := (l.data &&& ~~~BitVec.ofNat 1024 m) ||| BitVec.ofNat 1024 (data % 2 ^ (8 * n) * 2 ^ (8 * off)) }

/-- An acknowledged write reaches the present copies of its lines (R365): n bytes at an IA, at most on two lines. -/
def Core.l1write (k : Core) (ctx ia n data : Nat) : Core :=
  let put := fun (l : L1Line) =>
    if l.line = ia / 128 then l.put (ia % 128) (min n (128 - ia % 128)) data
    else l.put 0 (n - (128 - ia % 128)) (data / 256 ^ (128 - ia % 128))
  { k with l1 := k.l1.map (fun l => if l.ctx == ctx && (l.line == ia / 128 || l.line == (ia + n - 1) / 128) then put l else l) }

/-- A line recorded in the filter of a domain (R366): only RC and BULK filters are ever set. -/
def L1Line.inFilter (l : L1Line) (d : Dom) : Bool :=
  match d with
  | .rc => l.rc
  | .bulk => l.bulk
  | _ => false

/-- Invalidates a domain's filter on a core (R366): its lines go, loads in flight of that domain keep no
line (R209), and counter 15 + domain counts the lines. -/
def invalidateFilter (s : State) (core : Nat) (d : Dom) : State :=
  let n := ((s.core core).l1.filter (·.inFilter d)).length
  let s1 := s.modCore core (fun k => { k with l1 := k.l1.filter (fun l => !l.inFilter d) })
  let drop := fun (w : Warp) =>
    if w.core == core then { w with txns := w.txns.map (fun t => if t.dom == d then { t with drop := true } else t) } else w
  { s1 with warps := s1.warps.map drop }.count core (15 + domCode d) n

end Sys2Proof.Machine
end

