-- ==== Sys2Proof/Machine/Number.lean ====
section
/-! DEFINITION. Number formats, exact values and the one rounding of every result (R100 to R117). A flag set is
a number: IV 1, DZ 2, OF 4, UF 8, IX 16, the bits of FPSTAT (R40). -/

namespace Sys2Proof.Machine

/-- The four rounding modes (R111). -/
inductive RMode
  | rn | rz | rd | ru
  deriving DecidableEq, Repr, Inhabited

/-- FPCTL.RM or a MOD qualifier (R38, R39, R71). -/
def rmode (r : Rnd) (fpctl : Nat) : RMode :=
  match r with
  | .rn => .rn
  | .rz => .rz
  | .rd => .rd
  | .ru => .ru
  | .fpctl => match fpctl % 4 with | 0 => .rn | 1 => .rz | 2 => .rd | _ => .ru

/-- An exact value: a NaN with its sign, whether it signals, its fraction and the fraction's width; an
infinity; or a finite value ± num / den. -/
inductive Num
  | nan (neg sig : Bool) (frac m : Nat)
  | inf (neg : Bool)
  | fin (neg : Bool) (num den : Nat)
  deriving DecidableEq, Repr, Inhabited

/-- Fraction bits, exponent bits and bias of a binary format (R100). -/
def fmtM : Ty → Nat
  | .f32 => 23 | .f16 => 10 | .bf16 => 7 | .e5m2 => 2 | .e4m3 => 3 | _ => 1
def fmtE : Ty → Nat
  | .f32 | .bf16 => 8
  | .f16 | .e5m2 => 5
  | .e4m3 => 4
  | _ => 2
def fmtBias (t : Ty) : Nat := 2 ^ (fmtE t - 1) - 1

/-- The binary floating-point formats. -/
def tyBin : Ty → Bool
  | .f32 | .f16 | .bf16 | .e5m2 | .e4m3 | .e2m1 => true
  | _ => false

/-- ± k × 2^q. -/
def scaled (neg : Bool) (k : Nat) (q : Int) : Num :=
  if 0 ≤ q then .fin neg (k * 2 ^ q.toNat) 1 else .fin neg k (2 ^ (-q).toNat)

/-- Decoding a binary format (R101, R102). -/
def decodeBin (t : Ty) (x : Nat) : Num :=
  let m := fmtM t
  let eb := fmtE t
  let f := x % 2 ^ m
  let e := x / 2 ^ m % 2 ^ eb
  let neg := x / 2 ^ (m + eb) % 2 == 1
  let top := 2 ^ eb - 1
  let ieee := t == .f32 || t == .f16 || t == .bf16 || t == .e5m2
  if ieee && e == top then (if f = 0 then .inf neg else .nan neg (f / 2 ^ (m - 1) == 0) f m)
  else if t == .e4m3 && e == top && f == 7 then .nan neg false f m
  else if e = 0 then scaled neg f (1 - fmtBias t - m)
  else scaled neg (2 ^ m + f) (e - fmtBias t - m)

/-- The decimal exponent and the fraction with its width of a nonzero D8 magnitude code (R106). -/
def d8Parts (c : Nat) : Int × Nat × Nat :=
  let k := 6 - Nat.log2 c
  if k = 0 then (0, c % 64, 6)
  else if k = 6 then (6, 0, 0)
  else
    let m := 5 - k
    (if c / 2 ^ m % 2 = 1 then (k : Int) else -(k : Int), c % 2 ^ m, m)

/-- The magnitude of a nonzero D8 code as a fraction (R106, R107). -/
def d8Mag (c : Nat) : Nat × Nat :=
  let (e, f, m) := d8Parts c
  let n := 2 ^ m + 9 * f
  if 0 ≤ e then (n * 10 ^ e.toNat, 2 ^ m) else (n, 2 ^ m * 10 ^ (-e).toNat)

/-- Decoding D8 to its exact value (R106, R109). -/
def decodeD8 (x : Nat) : Num :=
  let c := x % 128
  let neg := x / 128 % 2 == 1
  if c = 0 then (if neg then .nan true false 0 0 else .fin false 0 1)
  else .fin neg (d8Mag c).1 (d8Mag c).2

/-- Decoding an operand of any type to its exact value; raw bits read as unsigned (R105). -/
def decode (t : Ty) (x : Nat) : Num :=
  if tyBin t then decodeBin t x
  else if t == .d8 then decodeD8 x
  else if tySigned t then
    let i := sextN x (tyBits t)
    .fin (i < 0) i.natAbs 1
  else .fin false (x % 2 ^ tyBits t) 1

/-- The floor of log2 of a positive fraction. -/
def log2Frac (n d : Nat) : Int :=
  let e : Int := (Nat.log2 n : Int) - Nat.log2 d
  let ge := if 0 ≤ e then decide (d * 2 ^ e.toNat ≤ n) else decide (d ≤ n * 2 ^ (-e).toNat)
  if ge then e else e - 1

/-- The integer that a mode selects for a nonnegative fraction, and whether it is inexact (R111). -/
def roundInt (mode : RMode) (neg : Bool) (n d : Nat) : Nat × Bool :=
  let q := n / d
  let r := n % d
  let up := match mode with
    | .rn => 2 * r > d || (2 * r == d && q % 2 == 1)
    | .rz => false
    | .rd => neg && r != 0
    | .ru => !neg && r != 0
  (if up then q + 1 else q, r != 0)

/-- A fraction in units of 2^q. -/
def inUnits (n d : Nat) (q : Int) : Nat × Nat :=
  if 0 ≤ q then (n, d * 2 ^ q.toNat) else (n * 2 ^ (-q).toNat, d)

/-- The largest finite value of a binary format in units of 2^(emax − m) (R102). -/
def maxK (t : Ty) : Nat := if t == .e4m3 then 14 else 2 ^ (fmtM t + 1) - 1
/-- The exponent of the largest binade. -/
def fmtEmax (t : Ty) : Int := if t == .e4m3 then 8 else if t == .e2m1 then 2 else fmtBias t

/-- The bits of ± k × 2^q of a binary format, k below 2^(m+1). -/
def binBits (t : Ty) (neg : Bool) (k : Nat) (q : Int) : Nat :=
  let m := fmtM t
  let s := if neg then 2 ^ (m + fmtE t) else 0
  if k < 2 ^ m then s + k else s + (q + m + fmtBias t).toNat * 2 ^ m + (k - 2 ^ m)

/-- The bits of an infinity, where the format has one. -/
def infBits (t : Ty) (neg : Bool) : Nat :=
  (if neg then 2 ^ (fmtM t + fmtE t) else 0) + (2 ^ fmtE t - 1) * 2 ^ fmtM t

/-- The canonical quiet NaN (R102); D8's is 0x80. -/
def canonNan (t : Ty) : Nat :=
  match t with
  | .e4m3 => 0x7F
  | .d8 => 0x80
  | _ => infBits t false + 2 ^ (fmtM t - 1)

/-- The largest finite magnitude with a sign. -/
def maxBits (t : Ty) (neg : Bool) : Nat :=
  match t with
  | .d8 => if neg then 0x81 else 0x01
  | _ => binBits t neg (maxK t) (fmtEmax t - fmtM t)

/-- Overflow under a mode selects an infinity rather than the largest finite value (R114). -/
def ovfInf (mode : RMode) (neg : Bool) : Bool :=
  match mode with
  | .rn => true
  | .rz => false
  | .rd => neg
  | .ru => !neg

/-- The overflow result of a floating-point or D8 destination (R114). -/
def ovfBits (t : Ty) (mode : RMode) (satf neg : Bool) : Nat :=
  if satf || t == .e2m1 then maxBits t neg
  else if ovfInf mode neg then (if t == .e4m3 || t == .d8 then canonNan t else infBits t neg)
  else maxBits t neg

/-- Rounding a finite value into a binary format (R111, R113, R114). The result is the nearest
representable value; overflow and tininess are judged with an unbounded exponent (log 10). -/
def roundBin (t : Ty) (mode : RMode) (satf ftz neg : Bool) (n d : Nat) : Nat × Nat :=
  if n = 0 then (binBits t neg 0 0, 0)
  else
    let m := fmtM t
    let emin : Int := 1 - fmtBias t
    let e := log2Frac n d
    let free := e - m
    let (kf, _) := roundInt mode neg (inUnits n d free).1 (inUnits n d free).2
    let tiny := e < emin - 1 || (e < emin && kf < 2 ^ (m + 1))
    let q := max free (emin - m)
    let (k0, ix) := roundInt mode neg (inUnits n d q).1 (inUnits n d q).2
    let (k, q) := if k0 = 2 ^ (m + 1) then (2 ^ m, q + 1) else (k0, q)
    let ovf := q > fmtEmax t - m || (q = fmtEmax t - m && k > maxK t)
    if ovf then (ovfBits t mode satf neg, 20)
    else if ftz && (tiny || (k < 2 ^ m && k != 0)) then (binBits t neg 0 0, 24)
    else (binBits t neg k q, (if ix then 16 else 0) + (if ix && tiny then 8 else 0))

/-- x1 ≤ x2 for two fractions. -/
def fracLe (a b : Nat × Nat) : Bool := decide (a.1 * b.2 ≤ b.1 * a.2)

/-- The D8 candidate next below or equal to a magnitude (0 for zero) and next above or equal (none above
10^6) (R112). -/
def d8Around (x : Nat × Nat) : Nat × Option Nat :=
  (List.range 127).foldl (fun acc i =>
    let c := i + 1
    let m := d8Mag c
    let lo := if fracLe m x && (acc.1 = 0 || fracLe (d8Mag acc.1) m) then c else acc.1
    let hi := if fracLe x m then
        (match acc.2 with
         | none => some c
         | some h => if fracLe m (d8Mag h) then some c else some h)
      else acc.2
    (lo, hi)) (0, none)

/-- Rounding a finite value into D8 (R112 to R114). -/
def roundD8 (mode : RMode) (satf neg : Bool) (n d : Nat) : Nat × Nat :=
  if n = 0 then (0, 0)
  else if n > 1000000 * d then (ovfBits .d8 mode satf neg, 20)
  else
    let (lo, hi?) := d8Around (n, d)
    let hi := hi?.getD 1
    let lm := if lo = 0 then (0, 1) else d8Mag lo
    let hm := d8Mag hi
    if lo = hi then (hi + (if neg then 128 else 0), 0)
    else
      let a := 2 * n * lm.2 * hm.2
      let b := (lm.1 * hm.2 + hm.1 * lm.2) * d
      let odd := fun c => if c = 0 then false else (d8Parts c).2.1 % 2 == 1
      let up := match mode with
        | .rn => decide (b < a) || (a == b && !odd hi)
        | .rz => false
        | .rd => neg
        | .ru => !neg
      let c := if up then hi else lo
      (if c = 0 then 0 else c + (if neg then 128 else 0), if c = 0 then 24 else 16)

/-- Rounding a floating-point value into an integer type: an out-of-range result takes the nearest end and sets IV, and IX
as every finite result that differs from the value does (R114, log 74). -/
def roundToInt (t : Ty) (mode : RMode) (neg : Bool) (n d : Nat) : Nat × Nat :=
  let w := tyBits t
  let (k, ix) := roundInt mode neg n d
  let v : Int := if neg then -(k : Int) else k
  let lo : Int := if tySigned t then -(2 ^ (w - 1) : Nat) else 0
  let hi : Int := if tySigned t then (2 ^ (w - 1) : Nat) - 1 else (2 ^ w : Nat) - 1
  if v < lo then (wrapI lo w, 17) else if hi < v then (wrapI hi w, 17)
  else (wrapI v w, if ix then 16 else 0)

/-- The NaN result of a NaN operand (R115): the canonical one under DNAN, else its sign and fraction made
quiet. -/
def nanResult (t : Ty) (dnan neg : Bool) (frac m : Nat) : Nat :=
  if dnan || t == .e4m3 || t == .d8 then canonNan t
  else
    let mt := fmtM t
    let f := if mt ≤ m then frac / 2 ^ (m - mt) else frac * 2 ^ (mt - m)
    infBits t neg + (if f / 2 ^ (mt - 1) % 2 = 1 then f else f + 2 ^ (mt - 1))

/-- Flags of signalling operands: IV (R115). -/
def sigFlag : Num → Nat
  | .nan _ true _ _ => 1
  | _ => 0

/-- `round` of R110: an exact value into any type but the raw ones, with its flags (R111 to R115). -/
def roundNum (t : Ty) (mode : RMode) (satf ftz dnan : Bool) (x : Num) : Nat × Nat :=
  match x with
  | .nan neg sig frac m =>
    if t == .e2m1 then (0, 1)
    else if tyInt t then (0, 1)
    else (nanResult t dnan neg frac m, if sig then 1 else 0)
  | .inf neg =>
    if tyInt t then
      let w := tyBits t
      (if neg then (if tySigned t then 2 ^ (w - 1) else 0)
        else (if tySigned t then 2 ^ (w - 1) - 1 else 2 ^ w - 1), 1)
    else if satf || t == .e2m1 then (maxBits t neg, 1)
    else if t == .e4m3 || t == .d8 then (canonNan t, 1)
    else (infBits t neg, 0)
  | .fin neg n d =>
    if tyBin t then roundBin t mode satf ftz neg n d
    else if t == .d8 then roundD8 mode satf neg n d
    else roundToInt t mode neg n d

/-- A NaN. -/
def Num.isNan : Num → Bool
  | .nan .. => true
  | _ => false
/-- An infinity. -/
def Num.isInf : Num → Bool
  | .inf _ => true
  | _ => false
/-- A zero. -/
def Num.isZero : Num → Bool
  | .fin _ 0 _ => true
  | _ => false
/-- The sign. -/
def Num.neg : Num → Bool
  | .nan s _ _ _ => s
  | .inf s => s
  | .fin s _ _ => s

/-- The exact sum of two finite values; a zero sum of opposite signs is −0 under RD and +0 else (R159). -/
def finAdd (mode : RMode) (sa : Bool) (na da : Nat) (sb : Bool) (nb db : Nat) : Num :=
  let x : Int := (if sa then -((na * db : Nat) : Int) else (na * db : Nat))
    + (if sb then -((nb * da : Nat) : Int) else (nb * da : Nat))
  if x = 0 then .fin (if sa = sb then sa else mode == .rd) 0 1
  else .fin (x < 0) x.natAbs (da * db)

/-- Exact addition, with infinities; opposite infinities are the caller's. -/
def addNum (mode : RMode) (a b : Num) : Num :=
  match a, b with
  | .fin sa na da, .fin sb nb db => finAdd mode sa na da sb nb db
  | .inf s, _ => .inf s
  | _, .inf s => .inf s
  | x, _ => x

/-- Exact multiplication of values that are no NaN and not ∞ × 0. -/
def mulNum (a b : Num) : Num :=
  match a, b with
  | .fin sa na da, .fin sb nb db => .fin (sa != sb) (na * nb) (da * db)
  | x, y => .inf (x.neg != y.neg)

/-- x × 2^k, exactly. -/
def scale2 (x : Num) (k : Int) : Num :=
  match x with
  | .fin s n d => if 0 ≤ k then .fin s (n * 2 ^ k.toNat) d else .fin s n (d * 2 ^ (-k).toNat)
  | x => x

/-- x × 10^k, exactly (R117). -/
def scale10 (x : Num) (k : Int) : Num :=
  match x with
  | .fin s n d => if 0 ≤ k then .fin s (n * 10 ^ k.toNat) d else .fin s n (d * 10 ^ (-k).toNat)
  | x => x

/-- The floor of a square root, digit by digit. -/
def isqrt (n : Nat) : Nat :=
  (List.range (Nat.log2 n / 2 + 1)).reverse.foldl (fun r b => if (r + 2 ^ b) * (r + 2 ^ b) ≤ n then r + 2 ^ b else r) 0

/-- The square root of a positive fraction, exact where it is rational at 2^-h, else a value strictly
between the two neighbours at 2^-h; h leaves at least 30 bits. -/
def sqrtNum (n d : Nat) : Num :=
  let h := 40 + (Nat.log2 d + 1)
  let y := n * 4 ^ h / d
  let r := isqrt y
  if r * r * d = n * 4 ^ h then .fin false r (2 ^ h) else .fin false (2 * r + 1) (2 ^ (h + 1))

/-- Comparison of two values that are no NaN; −0 equals +0 (R162). -/
def numLt (a b : Num) : Bool :=
  match a, b with
  | .fin sa na da, .fin sb nb db =>
    decide ((if sa then -((na * db : Nat) : Int) else (na * db : Nat))
      < (if sb then -((nb * da : Nat) : Int) else (nb * da : Nat)))
  | .inf sa, .inf sb => sa && !sb
  | .inf sa, _ => sa
  | _, .inf sb => !sb
  | _, _ => false

/-- Equality of two values that are no NaN. -/
def numEq (a b : Num) : Bool := !numLt a b && !numLt b a

/-- A subnormal value of a format (R101). -/
def isSub (t : Ty) (x : Nat) : Bool := x / 2 ^ fmtM t % 2 ^ fmtE t == 0 && x % 2 ^ fmtM t != 0

/-- FTZS governs FP32, FTZH FP16 and BF16 (R38, R113). -/
def ftzOf (t : Ty) (fpctl : Nat) : Bool :=
  match t with
  | .f32 => nbits fpctl 2 2 == 1
  | .f16 | .bf16 => nbits fpctl 3 3 == 1
  | _ => false
/-- FPCTL.DNAN (R38). -/
def dnanOf (fpctl : Nat) : Bool := nbits fpctl 4 4 == 1

/-- The bits of a subnormal input flushed to zero of the same sign (R113). -/
def flushIn (t : Ty) (fpctl x : Nat) : Nat :=
  if ftzOf t fpctl && isSub t x then x / 2 ^ (tyBits t - 1) % 2 * 2 ^ (tyBits t - 1) else x % 2 ^ tyBits t

/-- `fin` of R157: an operand's exact value, read under FTZ. -/
def readF (t : Ty) (fpctl x : Nat) : Num := decode t (flushIn t fpctl x)

/-- FP32 to nearest even, with no flush (R119). -/
def rne32 (x : Num) : Nat := (roundNum .f32 .rn false false true x).1

end Sys2Proof.Machine
end

