-- ==== Sys2Proof/Machine/Flags.lean ====
section
/-! DEFINITION. Every flag computation: FPSTAT, the exceptions that trap, and the order of their kinds (R40, R41,
R166). -/

namespace Sys2Proof.Machine

/-- The enabled exceptions of a lane's set: FPCTL bits [10:6] stand for flags [4:0] (R38, R41). -/
def enabledExc (fpctl flags : Nat) : Nat := nbits fpctl 10 6 &&& flags

/-- The kind of the first enabled exception, in the order invalid, division by zero, overflow, underflow,
inexact (R166). -/
def excKind (e : Nat) : Kind :=
  if nbits e 0 0 = 1 then .fpInvalid
  else if nbits e 1 1 = 1 then .fpDivzero
  else if nbits e 2 2 = 1 then .fpOverflow
  else if nbits e 3 3 = 1 then .fpUnderflow
  else .fpInexact

/-- The traps of lanes by their exceptions (R166). -/
def excTraps (fpctl : Nat) (fl : List (Nat × Nat)) : Traps :=
  (fl.filter (fun x => enabledExc fpctl x.2 != 0)).map (fun x => (x.1, excKind (enabledExc fpctl x.2)))

/-- Sets the sticky FPSTAT bits of each lane (R41). -/
def Warp.setFlags (w : Warp) (fl : List (Nat × Nat)) : Warp :=
  fl.foldl (fun w x => if x.2 = 0 then w
    else w.modThread x.1 (fun t => { t with fpstat := t.fpstat ||| BitVec.ofNat 5 x.2 })) w

/-- SWR to sr.FPSTAT: each 1 bit clears the matching sticky bit (R43). -/
def clearFlags (old : BitVec 5) (v : W32) : BitVec 5 := old &&& ~~~(v.setWidth 5)

/-- Integer compares (R138). -/
def cmpHolds (c : Cmp) (a b : Int) : Bool :=
  match c with
  | .eq => a == b
  | .ne => a != b
  | .lt => decide (a < b)
  | .le => decide (a ≤ b)
  | .gt => decide (b < a)
  | .ge => decide (b ≤ a)

/-- Floating-point compares: ordered ones are false on NaN (R162). -/
def fcmpHolds (c : FCmp) (a b : Num) : Bool :=
  let un := a.isNan || b.isNan
  match c with
  | .eq => !un && numEq a b
  | .ne => un || !numEq a b
  | .lt => !un && numLt a b
  | .le => !un && (numLt a b || numEq a b)
  | .gt => !un && numLt b a
  | .ge => !un && (numLt b a || numEq a b)
  | .num => !un
  | .nan => un

/-- The class bit of FCLASS, without FTZ (R163). -/
def classBit (t : Ty) (x : Nat) : Nat :=
  match decodeBin t x with
  | .inf true => 0
  | .inf false => 7
  | .nan _ true _ _ => 8
  | .nan _ false _ _ => 9
  | .fin neg 0 _ => if neg then 3 else 4
  | .fin neg _ _ => if isSub t x then (if neg then 2 else 5) else (if neg then 1 else 6)

end Sys2Proof.Machine
end

