-- ==== Sys2Proof/Machine/Operands.lean ====
section
/-! DEFINITION. Every operand form: registers through permutations (R67), latches, uniform registers and inline
constants (R66, R69), immediates (R75), and the writing of results to registers, predicates, uniform
registers and latches (R25, R28, R61, R128). -/

namespace Sys2Proof.Machine

/-- The lane that a permuted source reads; none where the value is 0 (R67). -/
def permLane (p : Perm) (l : Nat) : Option Nat :=
  match p with
  | .none => some l
  | .rot n => some ((l + n.toNat) % 32)
  | .bc n => some n.toNat
  | .bf n => some (l ^^^ n.toNat)
  | .mir => some (31 - l)
  | .shu n => if n.toNat ≤ l then some (l - n.toNat) else none
  | .shd n => if l + n.toNat ≤ 31 then some (l + n.toNat) else none

/-- An inline constant as an FP32 pattern, for an index from 128 (R69). -/
def fpConst32 (i : Nat) : Nat := nbits i 6 6 * 2 ^ 31 + (nbits i 5 2 + 119) * 2 ^ 23 + nbits i 1 0 * 2 ^ 21

/-- An inline constant (R69): its exact value in a floating type, else a small integer zero-extended or
a table entry's FP32 pattern. -/
def constVal (ft : Option Ty) (idx : Nat) : Nat :=
  match ft with
  | some t =>
    let x : Num := if idx < 128 then .fin false idx 1 else decodeBin .f32 (fpConst32 (idx - 128))
    (roundNum t .rn false false false x).1
  | none => if idx < 128 then idx else fpConst32 (idx - 128)

/-- n consecutive v registers of a lane as one number, the first lowest (R16, R194). -/
def vgroup (rf : RegFile) (r l : Nat) : Nat → Nat
  | 0 => 0
  | n + 1 => (rf.vget r l).toNat + 2 ^ 32 * vgroup rf (r + 1) l n

/-- A source operand of n registers in lane l (R66); ft is the type of a floating operand. -/
def srcVal (c : Cx) (ft : Option Ty) (n : Nat) (a : Src) (l : Nat) : Nat :=
  match a with
  | .v r _ p => match permLane p l with
    | some m => vgroup c.rf r.toNat m n
    | none => 0
  | .x r => ((c.w.thread l).lat.get r.toNat).toNat % 2 ^ (32 * n)
  | .s r => (c.rf.sget r.toNat).toNat % 2 ^ (32 * n)
  | .k i => constVal ft i.toNat

/-- An integer operand read by its type (R127). -/
def intOf (t : Ty) (x : Nat) : Int := if tySigned t then sextN x (tyBits t) else ((x % 2 ^ tyBits t : Nat) : Int)
/-- An integer source. -/
def srcInt (c : Cx) (t : Ty) (a : Src) (l : Nat) : Int := intOf t (srcVal c none (tyRegs t) a l)
/-- A 32-bit unsigned source. -/
def src32 (c : Cx) (a : Src) (l : Nat) : Nat := srcVal c none 1 a l % 2 ^ 32
/-- A 64-bit unsigned source. -/
def src64 (c : Cx) (a : Src) (l : Nat) : Nat := srcVal c none 2 a l % 2 ^ 64
/-- A predicate source (R137). -/
def psrcVal (c : Cx) (p : PSrc) (l : Nat) : Bool := hasLane (c.rf.pred p.q.toNat) l != p.neg

/-- IMM32 as an integer operand of a type (R75). -/
def immInt (t : Ty) (i : W32) : Int := if tySigned t then i.toInt else (i.toNat : Int)
/-- IMM32 as a floating operand: F16 and BF16 take the FP32 value rounded to nearest even (R75). -/
def immF (t : Ty) (i : W32) : Nat :=
  if t == .f32 then i.toNat else (roundNum t .rn false false false (decodeBin .f32 i.toNat)).1

/-- The result of one lane: its value and the exceptions it raised. -/
structure Res where
  val : Nat
  flags : Nat := 0
  deriving DecidableEq, Repr, Inhabited

/-- Writes n registers of a lane from a number, the first lowest. -/
def RegFile.vputs (rf : RegFile) (r l x : Nat) : Nat → RegFile
  | 0 => rf
  | n + 1 => (rf.vset r l (BitVec.ofNat 32 x)).vputs (r + 1) l (x / 2 ^ 32) n

/-- Writes a v group in each of a list of lanes. -/
def RegFile.vlanes (rf : RegFile) (r n : Nat) (vs : List (Nat × Nat)) : RegFile :=
  vs.foldl (fun rf x => rf.vputs r x.1 x.2 n) rf

/-- The latch value of a result of n registers (R28, R172); predicates and 32-bit results leave the upper
half UNKNOWN. -/
def latchVal (draw l n x : Nat) : W64 := if n = 1 then latch32 draw l x else BitVec.ofNat 64 x

/-- Writes a latch in each of a list of lanes (R28). -/
def Warp.latchLanes (w : Warp) (draw : Nat) (lt n : Nat) (vs : List (Nat × Nat)) : Warp :=
  vs.foldl (fun w x => w.modThread x.1 (fun t => { t with lat := t.lat.set lt (latchVal draw x.1 n x.2) })) w

/-- Lanes of a latch no longer await a long-latency result of the run. -/
def Warp.unpendLatch (w : Warp) (runId lt : Nat) (m : LMask) : Warp :=
  { w with llr := w.llr.map (fun r => if r.runId == runId && r.lt == lt then { r with latch := r.latch &&& ~~~m } else r) }

/-- A uniform result extended to 64 bits: sign-extended for an S type (R128). -/
def uniExt (t : Option Ty) (n x : Nat) : W64 :=
  let b := 32 * min n 2
  if t.any tySigned then BitVec.ofInt 64 (sextN x b) else BitVec.ofNat 64 (x % 2 ^ b)

/-- Writes the results of the lanes to the destination and the latch: v registers (R28), a uniform
register from the lowest lane that does not trap (R25, R166, log 75), or a predicate (R61). Nothing is written with no lane. `n` is the
result's width in registers and `t` its type. -/
def writeRes (c : Cx) (t : Option Ty) (n : Nat) (vs : List (Nat × Nat)) (s : State) : State :=
  if vs.isEmpty then s
  else
    ((s.allocate c).modIss c (fun w =>
      let w1 := match c.p.lt with
        | some lt => (w.latchLanes s.ctr lt.toNat (match c.p.dst with | .q _ => 1 | _ => n) vs).unpendLatch c.g.runId lt.toNat (maskOf (fun l => vs.any (fun x => x.1 == l)))
        | none => w
      if c.p.d then w1
      else
        match c.p.dst with
        | .none => w1
        | .v r k => { w1 with rf := w1.rf.vlanes r k vs }
        | .s r _ => { w1 with rf := { w1.rf with s := cset w1.rf.s 0 r (uniExt t n ((vs.head?.map (·.2)).getD 0)) } }
        | .q r =>
          let act := maskOf (fun l => vs.any (fun x => x.1 == l))
          let val := maskOf (fun l => vs.any (fun x => x.1 == l && x.2 != 0))
          { w1 with rf := w1.rf.setPred r act val })).bump

/-- The lanes' results of a lane function. -/
def laneResults (c : Cx) (f : Cx → Nat → Res) : List (Nat × Res) := (lanesOf c.act).map (fun l => (l, f c l))

/-- What an instruction of one result per lane does behind the gate: it sets the exceptions'
flags, writes the lanes without an enabled exception, and traps the others (R41, R166). -/
def lanesDone (c : Cx) (t : Option Ty) (n : Nat) (rs : List (Nat × Res)) (s : State) : State :=
  let fl := rs.map (fun x => (x.1, x.2.flags))
  let ts := excTraps c.rf.fpctl.toNat fl
  let ok := (rs.filter (fun x => enabledExc c.rf.fpctl.toNat x.2.flags == 0)).map (fun x => (x.1, x.2.val))
  ((writeRes c t n ok (s.modIss c (fun w => w.setFlags fl))).finish c ts)

/-- An instruction with one result per lane of n registers, of type t for a uniform destination. -/
def runLanes (i : Instr) (s : State) (t : Option Ty) (n : Nat) (f : Cx → Nat → Res) : Out :=
  runOp i s (fun c s => .next (lanesDone c t n (laneResults c f) s))

end Sys2Proof.Machine
end

