-- ==== Sys2Proof/Machine/Rendezvous.lean ====
section
/-! DEFINITION. What several lanes, warps or blocks complete together: join barriers (R148), rally points (R245,
R246), collections on convergence registers (R222), ownership of the matrix engine (R217, R218), and
the end of a lane and of a warp (R151). -/

namespace Sys2Proof.Machine

/-! ### Join barriers -/

/-- `complete(j)` of R148: the arrived lanes go on at the PC after their own JOIN.WAIT. -/
def joinComplete (draw : Nat) (w : Warp) (j : Nat) : Warp :=
  let b := w.joins.getD j default
  if b.armed && (b.expected &&& w.live &&& ~~~b.arrived) = 0 then
    let ts := (lanesOf b.arrived).filterMap (fun l =>
      match (w.thread l).st with
      | .atJoin _ pc => some (l, pc + 12)
      | _ => none)
    { w with joins := w.joins.set j ⟨false, 0, 0⟩ }.landAll draw ts []
  else w

/-- Evaluates every join barrier of a warp (R149: once, after both sides). -/
def joinsComplete (draw : Nat) (w : Warp) : Warp := (List.range 16).foldl (joinComplete draw) w

/-! ### Ownership of the matrix engine -/

/-- The warp indices of a warp's owner group: its team, or itself (R217). -/
def groupMask (s : State) (w : Warp) : Nat :=
  match (s.launch (s.block w.block).launch).team with
  | some n => (List.range n).foldl (fun m i => m + 2 ^ (w.index / n * n + i)) 0
  | none => 2 ^ w.index

/-- The owner group of lanes of a warp: at trap depth 1 it is the handler's subgroup (R220). -/
def ownerOf (s : State) (w : Warp) (m : LMask) : Owner :=
  if w.deep &&& m ≠ 0 then ⟨w.block, groupMask s w, some (w.index, w.handler)⟩ else ⟨w.block, groupMask s w, none⟩

/-- An owner group of a block as one number: its warps' mask, and for a handler's lanes their warp. -/
def Owner.tag (o : Owner) : Nat := o.warps + (match o.hand with | none => 0 | some (i, _) => (i + 1) * 2 ^ 32)

/-- Two owners are the same group. -/
def Owner.same (a b : Owner) : Bool :=
  a.block == b.block && a.warps == b.warps && a.hand.map (·.1) == b.hand.map (·.1)

/-- An engine operation of a group is collected or in flight on the core. -/
def busyFor (s : State) (core : Nat) (o : Owner) : Bool :=
  (s.core core).eng.any (fun e => e.block == o.block && e.group == o.tag)

/-- The warps of a block that hold the engine's mark, as a mask of indices (R218). -/
def holders (s : State) (b : Block) : Nat :=
  (b.warps.filter (fun i => (s.warp i).holding)).foldl (fun m i => m ||| 2 ^ (s.warp i).index) 0

/-- Discards the open collections of an owner (R218): the registers return to idle. -/
def discardOpen (s : State) (o : Owner) : State :=
  s.modBlock o.block (fun b =>
    { b with cv := b.cv.map (fun v => if v.opened && v.owner == o.tag then { v with opened := false, signed := [], expected := [] } else v) })

/-- MXREL's effect, and a warp's end's: when no warp of the owning group holds a mark any more, the open
collections go and the engine becomes free; ENGINE_GRANT passes it on (R218). An engine-collective
team never releases (R219). -/
def releaseMark (s : State) (wid : Nat) : State :=
  let w := s.warp wid
  let b := s.block w.block
  let s1 := s.modWarp wid (fun w => { w with holding := false })
  match (s.core w.core).owner with
  | some o =>
    if o.block == w.block && o.hand.isNone && !b.ecol && (o.warps / 2 ^ w.index) % 2 == 1
        && (holders s1 (s1.block w.block)) &&& o.warps == 0
    then (discardOpen s1 o).modCore w.core (fun c => { c with owner := none })
    else s1
  | none => s1

/-! ### Collections -/

/-- An engine operation's kind by its opcode (R91). -/
def engKind (opc : Nat) : EngKind :=
  match opc with
  | 0x302 => .mma
  | 0x303 => .mxrun
  | 0x308 => .accrd
  | 0x309 => .accwr
  | _ => .acccvt

/-- The lanes of a warp of the block that a collection still misses (R222). -/
def missing (s : State) (b : Block) (v : Conv) : Bool :=
  b.warps.any (fun i =>
    let w := s.warp i
    (cget v.expected 0 w.index &&& w.live &&& ~~~cget v.signed 0 w.index) != 0)

/-- A collection in which no expected lane is missing enters engine order (R221, R222). -/
def collectOne (bid : Nat) (s : State) (n : Nat) : State :=
  let b := s.block bid
  let v := b.cv.getD n default
  if v.opened && !missing s b v then
    let op : EngOp := ⟨s.ctr, engKind v.opc, bid, v.owner, n, none, v.acc, b.dh.getD v.dh default, v.rows, v.ovw, v.fmt, v.ads, v.rm, 0, none, false⟩
    (s.bump.modBlock bid (fun b => { b with cv := b.cv.set n { v with opened := false, busy := true } })).modCore b.core
      (fun c => { c with eng := c.eng ++ [op] })
  else s

/-- Evaluates the collections of a block. -/
def collect (s : State) (bid : Nat) : State := (List.range 8).foldl (collectOne bid) s

/-! ### Rally points -/

/-- Warps of a block that have not ended. -/
def aliveWarps (s : State) (b : Block) : List Nat := b.warps.filter (fun i => (s.warp i).live != 0)

/-- Subgroups of the block that wait for the given phase of RALLY id go on (R245). -/
def wakeRally (s : State) (b : Block) (opc id phase : Nat) : State :=
  b.warps.foldl (fun s i =>
    let w := s.warp i
    let gs := w.groups.filter (fun g =>
      g.wait == some (.rally phase) && g.cur.any (fun f => f.word.toNat / 2 ^ 86 == opc
        && (opc == 0x2C1 || nbits f.word.toNat 19 16 == id)))
    gs.foldl (fun s g =>
      match g.cur with
      | some f => (s.modWarp i (fun w => (w.modGroup g.gid (fun g => { g with wait := none })).advance s.ctr g.gid f)).bump
      | none => s) s) s

/-- A completion's acquire at BLOCK or CLUSTER scope (R244): the RC and BULK filters of the core are
invalidated. -/
def acquireBoth (s : State) (core : Nat) : State := invalidateFilter (invalidateFilter s core .rc) core .bulk

/-- The count and the number of warps that the first warp to arrive at a rally point fixes (R245): its lanes named the
count, and 0 stands for the warps that have not ended. -/
def rallyFirst (s : State) (b : Block) (r : Rally) (here : List Nat) : Option (Nat × Nat) :=
  r.first.or (here.head?.map (fun i =>
    let n := cget r.asks 0 (s.warp i).index
    (n, if n = 0 then (aliveWarps s b).length else n)))

/-- RALLY id completes when the arrived warps reach its count, which the phase's first arrival fixed
(R245, log 16). A warp has arrived when all its live lanes have executed it. Completion acquires. -/
def rallyOne (bid : Nat) (s : State) (id : Nat) : State :=
  let b := s.block bid
  let r := b.rally.getD id default
  let here := b.warps.filter (fun i =>
    let w := s.warp i
    cget r.lanes 0 w.index != 0 && (w.live &&& ~~~cget r.lanes 0 w.index) == 0)
  match rallyFirst s b r here with
  | none => s
  | some x =>
    if x.2 ≤ here.length then
      acquireBoth (wakeRally (s.modBlock bid (fun b => { b with rally := b.rally.set id ⟨none, [], [], r.phase + 1⟩ })) b 0x2C0 id r.phase) b.core
    else s.modBlock bid (fun b => { b with rally := b.rally.set id { r with first := some x } })

/-- The blocks of a block's cluster (R246). -/
def clusterOf (s : State) (b : Block) : List Block :=
  if (s.launch b.launch).level 3 = none then [b]
  else s.blocks.filter (fun x => x.launch == b.launch && x.clus == b.clus && x.attempt == b.attempt)

/-- Every living warp's live lanes have executed the cluster's rally (R246). -/
def crArrived (s : State) (b : Block) : Bool :=
  !(aliveWarps s b).isEmpty && (aliveWarps s b).all (fun i => let w := s.warp i; (w.live &&& ~~~cget b.crLanes 0 w.index) == 0)

/-- A block arrives at its cluster's rally. -/
def crArrive (s : State) (bid : Nat) : State :=
  let b := s.block bid
  if crArrived s b && b.crArr == b.crPhase then s.modBlock bid (fun b => { b with crArr := b.crPhase + 1, crLanes := [] }) else s

/-- The cluster's phase completes when every block of it has arrived (R246); a block that has ended has. -/
def crallyCheck (s : State) (bid : Nat) : State :=
  let c := clusterOf s (s.block bid)
  let s1 := c.foldl (fun s x => crArrive s x.id) s
  let c1 := c.map (fun x => s1.block x.id)
  if c1.all (fun x => x.ended || x.crArr == x.crPhase + 1) && c1.any (fun x => !x.ended) then
    c1.foldl (fun s x => acquireBoth (wakeRally (s.modBlock x.id (fun y => { y with crPhase := y.crPhase + 1 })) x 0x2C1 0 x.crPhase) x.core) s1
  else s1

/-- Evaluates every rally of a block. -/
def rallies (s : State) (bid : Nat) : State := crallyCheck (crallyCheck ((List.range 16).foldl (rallyOne bid) s) bid) bid

/-! ### EXIT -/

/-- Lanes exit: they leave the live mask and every join barrier's expected mask (R151); what that completes is
evaluated at the end of the cycle (R149). A warp whose last lane exits ends: its registers are freed and its seat with
them (R23). -/
def exitLanes (s : State) (wid : Nat) (m : LMask) : State :=
  let w := s.warp wid
  let w1 := w.modLanes m (fun _ t => { t with st := .exited })
  let w2 := { w1 with
    live := w1.live &&& ~~~m
    joins := w1.joins.map (fun j => { j with expected := j.expected &&& ~~~m }) }
  let s1 := (s.modWarp wid (fun _ => w2)).bump
  let s2 := if w2.live ≠ 0 then s1
    else
      let s' := releaseMark s1 wid
      let s' := s'.modWarp wid (fun w =>
        { w with
          place := .ended
          image := none
          rf := { w.rf with v := [], alloc := 0 }
          mon := { w.mon with armed := false } })
      match w.place with
      | .seated k | .movingOut k _ | .movingIn k => s'.modQuad w.core w.quad (fun q => { q with seats := q.seats.set k none })
      | _ => s'
  rallies (collect s2 w.block) w.block

end Sys2Proof.Machine
end

