-- ==== Sys2Proof/Machine/Memsys.lean ====
section
/-! DEFINITION. The memory side of a core: forming addresses (R182 to R187), the accesses in flight and what
orders them (R382, R384, R389 to R395), performing them at their homes, and delivering results (R196). -/

namespace Sys2Proof.Machine

/-! ### Places -/

/-- What a lane's operands name: a generic address, possibly of a record with its bounds (R185), a
scratchpad window offset, or a cluster word. -/
inductive Aform
  | record (rec : BitVec 256) (off : Int)
  | generic (a : Nat)
  | scratch (off : Int)
  | cluster (cw : Nat) (i : Int)
  deriving DecidableEq, Repr, Inhabited

/-- What a memory instruction asks of each lane. -/
structure Ask where
  n : Nat
  r : Bool
  w : Bool
  atomic : Bool
  dom : Dom
  scope : Scope
  deriving DecidableEq, Repr, Inhabited

/-- One checked access before its transaction exists. -/
structure Piece where
  part : Nat
  n : Nat
  sp : Space
  key : Nat
  user : Bool
  deriving DecidableEq, Repr, Inhabited

/-- A lane's outcome of the checks of R186: a trap, nothing to do (bounds mode 3), or its accesses. -/
inductive Spot
  | trap (k : Kind)
  | zero
  | at (ps : List Piece)
  deriving DecidableEq, Repr, Inhabited

/-- SCRKB of a variant (R286). -/
def Launch.scrKb (l : Launch) (k : Nat) : Nat := l.field (128 * k + 1075) (128 * k + 1065)

/-- Bytes that a cluster member exports (R360). -/
def exportBytes (s : State) (b : Block) : Nat := min ((s.launch b.launch).scrKb b.variant) 512 * 1024

/-- The cluster's block of a rank (R360). -/
def rankBlock (s : State) (b : Block) (r : Nat) : Option Block := (clusterOf s b).find? (fun x => x.rank == r)

/-- Die scratchpad bytes of a context (R361). -/
def carveBytes (c : Ctx) : Nat := c.ways * 2 ^ 23

/-- The place of a carve-out's byte 0. -/
def carvePlace (die : Nat) (c : Ctx) : Nat := dieBase + (die * 2 ^ 20 + c.id) * 2 ^ 26

/-- The non-global spaces accept a domain, a scope and a form (R189); 0 to 3 as coded in R183. -/
def spaceTakes (code : Nat) (q : Ask) : Bool :=
  if code = 0 then !q.atomic
  else (q.dom == .rc || q.dom == .bulk) && decide (scopeCode q.scope ≤ code + 1)

/-- A check of R186 that a lane fails: its step and its trap. -/
abbrev Check := Nat × Kind

/-- An address is not aligned (R184); an alignment of 0 stands for an access that is misaligned wherever it lies. -/
def misaligned (a al : Nat) : Bool := al == 0 || a % al != 0

/-- A place in an aperture space after its limit was checked: the acceptance of R189, then alignment to
`al` (R184). -/
def apPiece (code off al : Nat) (q : Ask) (n : Nat) (sp : Space) (key : Nat) : Except Check Piece :=
  if !spaceTakes code q then .error (5, .illegal)
  else if misaligned off al then .error (6, .misalign)
  else .ok ⟨0, n, sp, key, false⟩

/-- A SCRATCH place (R359). -/
def scratchPiece (b : Block) (off : Int) (al : Nat) (q : Ask) (n : Nat) : Except Check Piece :=
  if off < 0 || (b.size : Int) < off + n then .error (4, .range)
  else apPiece 1 off.toNat al q n (.scratch b.core) (b.base + off.toNat)

/-- A CLUSTER place (R360). -/
def clusterPiece (s : State) (b : Block) (rank : Nat) (off : Int) (al : Nat) (q : Ask) (n : Nat) : Except Check Piece :=
  match rankBlock s b rank with
  | none => .error (4, .range)
  | some x =>
    if off < 0 || (exportBytes s x : Int) < off + n then .error (4, .range)
    else apPiece 2 off.toNat al q n (.scratch x.core) (x.base + off.toNat)

/-- Steps 4 to 7 of R186 for a generic address. -/
def genericPiece (s : State) (w : Warp) (l a al : Nat) (q : Ask) (n : Nat) : Except Check Piece :=
  let b := s.block w.block
  let c := s.ctx b.ctx
  if nbits a 63 56 = 0xFE then
    match nbits a 55 52 with
    | 0 =>
      if nbits a 51 16 ≠ 0 || (s.launch b.launch).laneKb * 1024 < a % 2 ^ 16 + n then .error (4, .range)
      else apPiece 0 (a % 2 ^ 16) al q n .lane (l * 65536 + a % 2 ^ 16)
    | 1 => if nbits a 51 21 ≠ 0 then .error (4, .range) else scratchPiece b (a % 2 ^ 21 : Nat) al q n
    | 2 =>
      if nbits a 51 27 ≠ 0 || nbits a 23 19 ≠ 0 then .error (4, .range)
      else clusterPiece s b (nbits a 26 24) (a % 2 ^ 19 : Nat) al q n
    | 3 =>
      if nbits a 51 26 ≠ 0 || carveBytes c < a % 2 ^ 26 + n then .error (4, .range)
      else apPiece 3 (a % 2 ^ 26) al q n .diescr (carvePlace (dieOf w.core) c + a % 2 ^ 26)
    | _ => .error (4, .range)
  else if !canonical a then .error (4, .range)
  else if misaligned a al then .error (6, .misalign)
  else
    match findWindow c.win a with
    | none => .error (7, .range)
    | some i =>
      let x := c.win.getD i 0
      if (q.r && !winR x) || (q.w && !winW x) then .error (7, .range)
      else .ok ⟨0, n, .global, windowIa x a, winUser x⟩

/-- An address sum, modulo 2^64 (R182). -/
def addr64 (a : Nat) (i : Int) : Nat := wrapI ((a : Int) + i) 64

/-- Bounds of a record (R185): a trap, nothing to do, an offset, or an offset whose access crosses the
extent and wraps. -/
inductive Bound
  | trap (k : Kind)
  | zero
  | use (o : Int)
  | cross (o x : Nat)
  deriving DecidableEq, Repr, Inhabited

/-- R185 on an offset o with an access of n bytes. -/
def bounds (r : BitVec 256) (o : Int) (n : Nat) : Bound :=
  let x := nbits r.toNat 103 64
  let inb := decide (0 ≤ o ∧ o + n ≤ x)
  let z : Bound := if inb then .use o else .zero
  match nbits r.toNat 178 176 with
  | 0 => .use o
  | 1 => if inb then .use o else .trap .range
  | 2 => if x < n then z else .use (clampI o 0 ((x : Int) - n))
  | 3 => z
  | _ =>
    if x = 0 then z
    else
      let m := (o % (x : Int)).toNat
      if m + n ≤ x then .use m else .cross m x

/-- A part of an access that starts at an address: one access, cut where it crosses a page of global memory (R185, log 69):
(offset in the access, bytes, address). -/
def pageParts (part n a : Nat) : List (Nat × Nat × Nat) :=
  let k := 4096 - a % 4096
  if n ≤ k || nbits a 63 56 = 0xFE then [(part, n, a)] else [(part, k, a), (part + k, n - k, a + k)]

/-- The bytes of an access that wrap to the extent's start (R185): byte k lies at (o + k) mod x, so they are one part, or
several where the extent is shorter than they are. -/
def wrapParts (base x part n : Nat) : List (Nat × Nat × Nat) :=
  (List.range ((n + x - 1) / x)).flatMap (fun i => pageParts (part + i * x) (min x (n - i * x)) base)

/-- The pieces of an access that wraps (R185): the check of the lowest step that one of them fails, or all of them. -/
def crossPieces (ps : List (Nat × Except Check Piece)) : Spot :=
  let bad := ps.filterMap (fun p => match p.2 with | .error c => some c | .ok _ => none)
  match bad with
  | [] => .at (ps.filterMap (fun p => match p.2 with | .ok x => some { x with part := p.1 } | .error _ => none))
  | c :: r => .trap (r.foldl (fun a b => if b.1 < a.1 then b else a) c).2

/-- An access of 16 or 32 bytes is 8-byte accesses, lowest first (R378, R215). -/
def halves (p : Piece) : List Piece :=
  if p.n = 16 || p.n = 32 then (List.range (p.n / 8)).map (fun i => { p with n := 8, part := 8 * i, key := p.key + 8 * i })
  else [p]

/-- The checks of R186 on one lane. -/
def spotOf (s : State) (w : Warp) (l : Nat) (q : Ask) (f : Aform) : Spot :=
  let b := s.block w.block
  let one := fun (p : Except Check Piece) => match p with
    | .error k => Spot.trap k.2
    | .ok p => .at (halves p)
  match f with
  | .generic a => one (genericPiece s w l a q.n q q.n)
  | .scratch o => one (scratchPiece b o q.n q q.n)
  | .cluster cw i =>
    if nbits cw 31 27 ≠ 0 || nbits cw 23 19 ≠ 0 then .trap .range
    else one (clusterPiece s b (nbits cw 26 24) ((cw % 2 ^ 19 : Nat) + i) q.n q q.n)
  | .record r o =>
    let base := r.toNat % 2 ^ 64
    match bounds r o q.n with
    | .trap k => .trap k
    | .zero => .zero
    | .use o => one (genericPiece s w l (addr64 base o) q.n q q.n)
    | .cross o x =>
      let al := if q.atomic then 0 else q.n
      crossPieces ((0, genericPiece s w l (addr64 base o) al q (x - o)) ::
        (wrapParts base x (x - o) (o + q.n - x)).map (fun p => (p.1, genericPiece s w l (addr64 p.2.2 0) 1 q p.2.1)))

/-! ### The bytes of a space -/

/-- A byte of a core's scratchpad; free before it is written (R359, log 3). -/
def scrGet (k : Core) (a : Nat) : Byte :=
  cget k.scr (Config.startByte (cget k.scrDraw 0 (a / 1024)) a) a
/-- Writes a byte of a core's scratchpad. -/
def scrPut (k : Core) (a : Nat) (b : Byte) : Core := { k with scr := cput k.scr a b }
/-- Reads n bytes of a core's scratchpad. -/
def scrRead (k : Core) (a : Nat) : Nat → Nat
  | 0 => 0
  | n + 1 => (scrGet k a).toNat + 256 * scrRead k (a + 1) n
/-- Writes the n low bytes of x to a core's scratchpad. -/
def scrWrite (k : Core) (a n x : Nat) : Core :=
  (List.range n).foldl (fun k i => scrPut k (a + i) (BitVec.ofNat 8 (x / 256 ^ i))) k

/-- A byte of a lane's slice; free before it is written (R358). -/
def laneGet (w : Warp) (key : Nat) : Byte := cget w.lane (Config.startByte w.laneDraw key) key
def laneRead (w : Warp) (key : Nat) : Nat → Nat
  | 0 => 0
  | n + 1 => (laneGet w key).toNat + 256 * laneRead w (key + 1) n
def laneWrite (w : Warp) (key n x : Nat) : Warp :=
  (List.range n).foldl (fun w i => { w with lane := cput w.lane (key + i) (BitVec.ofNat 8 (x / 256 ^ i)) }) w

/-- The place in `State.mem` of an access to device, host, peer or die scratchpad memory. -/
def Acc.place (a : Acc) : Nat :=
  match a.sp, a.xl with
  | .diescr, _ => a.key
  | _, .loc l => l
  | _, _ => 0

/-- What the place of a warp's access is encrypted with for its context (R499). -/
def Acc.sealBy (a : Acc) (s : State) (wid : Nat) : Nat := sealOf s (s.block (s.warp wid).block).ctx a.key a.place

/-- Reads an access's bytes at its home. -/
def homeRead (s : State) (wid : Nat) (a : Acc) : Nat :=
  match a.sp with
  | .lane => laneRead (s.warp wid) a.key a.n
  | .scratch c => scrRead (s.core c) a.key a.n
  | _ => seenN s (a.sealBy s wid) a.place a.n

/-- Writes x over an access's bytes at its home. -/
def homeWrite (s : State) (wid : Nat) (a : Acc) (x : Nat) : State :=
  match a.sp with
  | .lane => s.modWarp wid (fun w => laneWrite w a.key a.n x)
  | .scratch c => s.modCore c (fun k => scrWrite k a.key a.n x)
  | _ => sealWriteN s (a.sealBy s wid) a.place a.n x

/-! ### Atomics -/

/-- FADD on FP32 at the home (R204): nearest even, subnormals kept, canonical NaN. -/
def faddHome (t : Ty) (x y : Nat) : Nat :=
  let a := decodeBin t x
  let b := decodeBin t y
  if a.isNan || b.isNan || (a.isInf && b.isInf && a.neg != b.neg) then canonNan t
  else (roundNum t .rn false false true (addNum .rn a b)).1

/-- The new value of an atomic operation (R204). -/
def atomVal (op : AOp) (wide : Bool) (old x cmp : Nat) : Nat :=
  let w := if wide && op != .fadd then 64 else 32
  match op with
  | .add => (old + x) % 2 ^ w
  | .minS => if sextN x w < sextN old w then x else old
  | .maxS => if sextN old w < sextN x w then x else old
  | .minN => min old x
  | .maxN => max old x
  | .and => old &&& x
  | .or => old ||| x
  | .xor => old ^^^ x
  | .exch => x
  | .cas => if old = cmp then x else old
  | .fadd =>
    if wide then faddHome .bf16 (old % 2 ^ 16) (x % 2 ^ 16) + 2 ^ 16 * faddHome .bf16 (old / 2 ^ 16) (x / 2 ^ 16)
    else faddHome .f32 old x

/-- Bytes of an atomic (R202). -/
def atomBytes (op : AOp) (wide : Bool) : Nat := if wide && op != .fadd then 8 else 4

/-! ### Order -/

/-- The transaction reads memory for a lane. -/
def TxKind.isLoad : TxKind → Bool
  | .load | .ldrec _ | .monitor | .fill _ => true
  | _ => false
/-- The transaction is a plain store. -/
def TxKind.isStore : TxKind → Bool
  | .store => true
  | _ => false
/-- A RED, an ATOM or a store: it writes its home. -/
def TxKind.writes : TxKind → Bool
  | .store | .atomic .. => true
  | _ => false

/-- An order with an acquire. -/
def ordAcq (o : Ord) : Bool := o == .acquire || o == .acqRel
/-- An order with a release. -/
def ordRel (o : Ord) : Bool := o == .release || o == .acqRel

/-- Two accesses of one lane to different locations are ordered (R384). -/
def ordered (a b : Txn) : Bool :=
  a.dom == b.dom &&
  (match a.dom with
   | .sc => true
   | .tso => !(a.kind.isStore && b.kind.isLoad)
   | .rc => ordAcq a.ord || ordRel b.ord
   | .causal => !a.kind.isStore || !b.kind.isLoad
   | .bulk => false)

/-- A narrow scope: WARP, TEAM or BLOCK (R190, R394). -/
def narrow (s : Scope) : Bool := decide (scopeCode s ≤ 2)

/-- An access whose domain, scope and order count: in a lane's slice they are ignored (R189). -/
def Acc.framed (a : Acc) : Bool := a.sp != .lane

/-- An access of a lane has been performed as order needs it: a load and an acquire have returned, a store or another
atomic has been performed, and for a release been acknowledged (R191). -/
def Txn.past (t : Txn) (ack : Bool) (a : Acc) : Bool :=
  match a.st with
  | .done => true
  | .performed => !a.framed || (!t.kind.isLoad && !ack && !(t.dom == .rc && ordAcq t.ord))
  | .causal => t.kind.isStore && !ack
  | .issued => !a.framed

/-- One access stands for all lanes: LDREC, MONITOR and DKLD (R211, R215, R229). -/
def TxKind.shared : TxKind → Bool
  | .ldrec _ | .monitor | .fill _ => true
  | _ => false

/-- Accesses of a lane in a transaction. -/
def Txn.of (t : Txn) (l : Nat) : List Acc :=
  if t.kind.shared then (if hasLane t.mask l then t.accs else []) else t.accs.filter (fun a => a.lane == l)

/-- An access's name in its transaction: its lane and part. -/
def Acc.name (a : Acc) : Nat := a.lane * 64 + a.part

/-- Two accesses share a byte. -/
def Acc.overlaps (a b : Acc) : Bool := a.sp == b.sp && decide (a.key < b.key + b.n ∧ b.key < a.key + a.n)

/-- Earlier accesses of the lane that R384 puts before this one are performed; so are the parts of the lane's own access
that come before it in program order (R378). -/
def orderOk (w : Warp) (t : Txn) (a : Acc) : Bool :=
  w.txns.all (fun u => !(decide (u.id < t.id) && ordered u t) || (u.of a.lane).all (u.past (t.dom == .rc && ordRel t.ord)))
    && (!ordered t t || (t.of a.lane).all (fun b => !decide (b.part < a.part) || t.past false b))

/-- Earlier faulted accesses of the lane, in fault records or waiting for one. -/
def faultedBefore (s : State) (w : Warp) (id l : Nat) : List Txn :=
  ((w.fr.filterMap (·.map (·.txn))) ++ ((s.core w.core).pfq.filter (fun x => x.1 == w.id)).map (·.2.txn)).filter
    (fun u => decide (u.id < id) && hasLane u.mask l)

/-- The bead qualifier of a load or store (R199): its word's BEAD field. -/
def Txn.bead (t : Txn) : Nat :=
  match t.kind with
  | .load | .store => nbits t.f.word.toNat 2 1
  | _ => 0

/-- A RC or BULK store of a lane to the scratchpad, the lane's own core's or another's (R200, R244). -/
def Txn.scratchStore (u : Txn) (l : Nat) : Bool :=
  u.kind.isStore && (u.dom == .rc || u.dom == .bulk) && (u.of l).any (fun a => match a.sp with | .scratch _ => true | _ => false)

/-- A recorded access, fence or bridge defers a later access of its lane (R197, R384, R208, R209); a `.FILL` store is a
release for the lane's scratchpad stores (R200). -/
def defers (u t : Txn) (l : Nat) : Bool :=
  match u.kind with
  | .fence d _ => d == t.dom
  | _ => ((u.of l).any Acc.framed && ordered u t) || (t.bead == 3 && u.scratchStore l)

/-- An access is deferred behind an earlier recorded one of its lane, whichever run it stands in (R197, R442). What a
lane issues in its handler, after it has stopped, is not. -/
def deferredBy (s : State) (w : Warp) (t : Txn) (l : Nat) : Bool :=
  !(w.thread l).depth && (t.of l).any Acc.framed && (faultedBefore s w t.id l).any (fun u => defers u t l)

/-- What transaction u does in a lane can raise no fault any more, short of poison, and is not deferred. -/
def decided (s : State) (w : Warp) (u : Txn) (l : Nat) : Bool :=
  (u.of l).all (fun a => a.st != .issued ||
    ((a.sp != .global || (match a.xl with | .loc _ => true | _ => false)) && !deferredBy s w u l))

/-- Something that lanes of the mask have issued can still take a fault record (R152; log 19): until an access of global memory is
performed, it may still meet poison. -/
def mayFault (w : Warp) (m : LMask) : Bool :=
  w.txns.any (fun t => (lanesOf m).any (fun l => (t.of l).any (fun a => a.st == .issued)))

/-- Earlier accesses of a lane that are not decided: what follows them in program order may not take a fault record
yet (R264). -/
def undecided (s : State) (w : Warp) (id l : Nat) : List Acc :=
  (w.txns.filter (fun u => decide (u.id < id) && !decided s w u l)).flatMap (·.of l)

/-- A later access of the run to the 64 KiB granule of an earlier fault of the lane, reported or not yet, faults too,
with its kind (R197). -/
def granuleFault (s : State) (w : Warp) (t : Txn) (a : Acc) : Option (Kind × Nat) :=
  let recs := (w.fr.filterMap id) ++ ((s.core w.core).pfq.filter (fun x => x.1 == w.id)).map (·.2)
  let near := fun (b : Acc) => a.sp == .global && b.lane == a.lane && b.sp == .global && b.key / 65536 == a.key / 65536
  let before := fun (u : Txn) => decide (u.id < t.id) && u.runId == t.runId
  ((recs.find? (fun r => before r.txn && r.txn.accs.any near)).map (fun r => (r.kind, r.level))).or
    ((w.txns.filter before).findSome? (fun u => u.accs.findSome? (fun b =>
      match b.st, b.xl with
      | .issued, .fault k v => if near b then some (k, v) else none
      | _, _ => none)))

/-- The warps of a core. -/
def coreWarps (s : State) (core : Nat) : List Warp := s.warps.filter (fun w => w.core == core)

/-- Writes of the core accepted before transaction t that still stand before it at one location
(R381, R382, R395): they reach the coherent level in the order in which the core accepted them. -/
def olderWrites (s : State) (w : Warp) (t : Txn) (a : Acc) : Bool :=
  (coreWarps s w.core).any (fun v => v.txns.any (fun u => decide (u.id < t.id) && u.kind.writes &&
    u.accs.any (fun b => (b.st == .issued || b.st == .causal) && b.overlaps a)))
  || t.accs.any (fun b => (b.lane < a.lane || (b.lane == a.lane && b.part < a.part)) && b.st == .issued && b.overlaps a)

/-- Earlier reads of the lane at the location that have not returned (R382). -/
def olderReads (w : Warp) (t : Txn) (a : Acc) : Bool :=
  w.txns.any (fun u => decide (u.id < t.id) && !u.kind.isStore && (u.of a.lane).any (fun b => b.st != .done && b.overlaps a))

/-- Write u must be acknowledged before write t of its core leaves the core: a fence or bridge covers u, and t is of its warp or
RC; or t is a release and u a narrow RC write; for a narrow release, any write of its warp (R394, R387; log 15). -/
def drainsBefore (own : Bool) (u t : Txn) : Bool :=
  decide (u.id < t.id) && u.kind.writes &&
    ((u.publish && (own || t.dom == .rc)) ||
      (t.dom == .rc && ordRel t.ord && ((u.dom == .rc && narrow u.scope) || (own && narrow t.scope))))

/-- Every write that must leave the core before t has been acknowledged. -/
def releaseDrains (s : State) (w : Warp) (t : Txn) : Bool :=
  (coreWarps s w.core).all (fun v => v.txns.all (fun u =>
    !drainsBefore (v.id == w.id) u t || u.accs.all (fun b => b.st == .done)))

/-! ### Instances of scopes -/

/-- Who makes an access (R379): the lanes of a warp, an engine operation of a block, the command processors and Usxon, or the
host and the peer devices. -/
inductive Agent
  | lanes (warp : Nat)
  | op (block : Nat)
  | device
  | outside
  deriving DecidableEq, Repr, Inhabited

/-- Two blocks are one cluster's (R379). -/
def sameCluster (s : State) (a b : Block) : Bool :=
  a.id == b.id || (a.launch == b.launch && a.clus == b.clus && (s.launch b.launch).level 3 != none)

/-- The lanes of two warps are in one instance of a scope (R379). -/
def warpsShare (s : State) (v w : Warp) : Scope → Bool
  | .warp => v.id == w.id
  | .team => v.id == w.id || (v.block == w.block && (match (s.launch (s.block w.block).launch).team with
      | some n => v.index / n == w.index / n
      | none => false))
  | .block => v.block == w.block
  | .cluster => sameCluster s (s.block v.block) (s.block w.block)
  | .die => dieOf v.core == dieOf w.core
  | .device | .system => true

/-- An agent lies in the instance of a warp's lanes at a scope (R379). -/
def inInstance (s : State) (v : Warp) (sc : Scope) : Agent → Bool
  | .lanes w => warpsShare s v (s.warp w) sc
  | .op b =>
    match sc with
    | .warp | .team => false
    | .block => v.block == b
    | .cluster => sameCluster s (s.block v.block) (s.block b)
    | .die => dieOf v.core == dieOf (s.block b).core
    | .device | .system => true
  | .device => sc == .device || sc == .system
  | .outside => sc == .system

/-! ### Lines, and those that a core holds -/

/-- Two ranges of bytes have a 128-byte line in common. -/
def linesMeet (a n b m : Nat) : Bool := decide (a / 128 ≤ (b + m - 1) / 128 ∧ b / 128 ≤ (a + n - 1) / 128)

/-- The starts of the lines that n bytes touch. -/
def linesOf (a n : Nat) : List Nat := (List.range ((a + n - 1) / 128 - a / 128 + 1)).map (fun i => (a / 128 + i) * 128)

/-- The place of a warp's global access, if it has one now (R452). -/
def Acc.locOf (s : State) (v : Warp) (b : Acc) : Option Nat :=
  match b.sp, b.xl with
  | .global, .loc l => some l
  | .global, .none =>
    match translate s (dieOf v.core) (s.ctx (s.block v.block).ctx) b.key ⟨false, false, none⟩ with
    | .loc l => some l
    | _ => none
  | _, _ => none

/-- The releases under which cores hold lines of a range (R394), seen from a core, or from outside every core. -/
def lineHolders (s : State) (from_ : Option Nat) (loc n : Nat) : List (Warp × Txn) :=
  s.warps.flatMap (fun v =>
    if from_ == some v.core then []
    else (v.txns.filter (fun u => u.holds && u.accs.any (fun b =>
      b.st != .done && (b.locOf s v).any (fun l => linesMeet l b.n loc n)))).map (fun u => (v, u)))

/-- A core publishes (R394). -/
def publishing (s : State) (from_ : Option Nat) : Bool :=
  from_.any (fun c => (coreWarps s c).any (fun v => v.txns.any (fun u => u.holds && u.demanded)))

/-- A line of a range is held elsewhere under a release: an access from outside the holding core waits for the publish (R394).
Cores that publish to each other do not wait for each other's lines, so that their stores drain (R395; log 15). -/
def heldElsewhere (s : State) (from_ : Option Nat) (loc n : Nat) : Bool :=
  (lineHolders s from_ loc n).any (fun x => !(x.2.demanded && publishing s from_))

/-- The directory demands a held release (R394): it and every store of its warp before it are to go to the coherent level, and
the holder counts the publish. -/
def demandPublish (s : State) (wid tid : Nat) : State :=
  match (s.warp wid).txns.find? (fun t => t.id == tid) with
  | none => s
  | some t =>
    if t.demanded || !t.holds then s
    else
      let cover := fun (u : Txn) => if u.id ≤ tid && u.kind.writes then { u with publish := true, demanded := u.demanded || u.id == tid } else u
      (s.modWarp wid (fun w => { w with txns := w.txns.map cover })).count (s.warp wid).core 37 1

/-- An access from a core, or from outside every core, has met lines that are held: their publish is demanded (R394). -/
def demandLines (s : State) (from_ : Option Nat) (loc n : Nat) : State :=
  (lineHolders s from_ loc n).foldl (fun s x => demandPublish s x.1.id x.2.id) s

/-- A die's pending CAUSAL update to a line of a range (R391). -/
def pendingUpdate (s : State) (die loc n : Nat) : Bool := (s.die die).upd.any (fun u => linesMeet u.loc u.n loc n)

/-- A peer line is held as an access needs it (R522). -/
def peerOk (s : State) (loc : Nat) (write : Bool) : Bool :=
  !(decide (peerBase ≤ loc) && decide (loc < hostBase)) ||
    s.peers.any (fun p => p.fa == (loc - peerBase) / 128 && (p.modified || !write))

/-- Copies of a local line that peers hold allow the access (R523): no peer owns it modified, and for a
write none shares it. -/
def dirOk (s : State) (loc : Nat) (write : Bool) : Bool :=
  loc ≥ peerBase || !(s.dir.any (fun d => d.line == loc / 128 && (d.owner.isSome || (write && (d.coarse || !d.sharers.isEmpty)))))

/-- The window of another core that an access names stands there: its block is not saved (R464). -/
def windowHere (s : State) (core : Nat) (a : Acc) : Bool :=
  match a.sp with
  | .scratch c => c == core || s.blocks.any (fun b => b.core == c && !b.saved && decide (b.base ≤ a.key ∧ a.key < b.base + b.size))
  | _ => true

/-- A write of the core to the location that was performed before this one is acknowledged first (R365). -/
def ackInOrder (s : State) (w : Warp) (t : Txn) (a : Acc) : Bool :=
  (coreWarps s w.core).all (fun v => v.txns.all (fun u => !(decide (u.id < t.id) && u.kind.writes) ||
    u.accs.all (fun b => b.st == .done || !b.overlaps a)))
    && t.accs.all (fun b => !(b.lane < a.lane || (b.lane == a.lane && b.part < a.part)) || b.st == .done || !b.overlaps a)

/-- The coherent level may serve an access to n bytes from a core of a die, or from outside every core: no release holds their
lines (R394), a non-CAUSAL one finds no pending update of its die (R391), and peer lines and the directory allow it. -/
def lineReady (s : State) (from_ : Option Nat) (die : Nat) (dom : Dom) (loc n : Nat) (write : Bool) : Bool :=
  !heldElsewhere s from_ loc n && (dom == .causal || !pendingUpdate s die loc n)
    && (linesOf loc n).all (fun l => peerOk s l write && dirOk s l write)

/-- A lane's access may be served at the coherent level at its place. -/
def levelOk (s : State) (core : Nat) (dom : Dom) (a : Acc) (write : Bool) : Bool :=
  windowHere s core a && (a.sp != .global || lineReady s (some core) (dieOf core) dom a.place a.n write)

/-- An access in a place that does not need the memory side's events: the core's own scratchpad and the
lane's slice. -/
def Piece.local (p : Piece) (core : Nat) : Bool := p.sp == .lane || p.sp == .scratch core
def Acc.local (a : Acc) (core : Nat) : Bool := a.sp == .lane || a.sp == .scratch core

/-- Where an access goes once it needs no translation: only global ones do. -/
def Acc.ready (a : Acc) : Bool :=
  match a.sp, a.xl with
  | .global, .loc _ => true
  | .global, _ => false
  | _, _ => true

/-! ### Values of loads -/

/-- RC and BULK loads of global memory go through L1 (R364); MONITOR reads at the home (R211). -/
def usesL1 (t : Txn) (a : Acc) : Bool := a.sp == .global && (t.dom == .rc || t.dom == .bulk) && t.kind != .monitor

/-- Stores of warp v that hold byte k of a space in its queues, performed or not, until they are acknowledged (R365), as
(id, lane, byte). -/
def queueBytes (v : Warp) (sp : Space) (k : Nat) (take : Txn → Bool) : List (Nat × Nat × Nat) :=
  v.txns.flatMap (fun u =>
    if u.kind.isStore && take u then
      (u.accs.filter (fun b => (b.st == .issued || b.st == .performed) && b.sp == sp && decide (b.key ≤ k ∧ k < b.key + b.n))).map
        (fun b => (u.id, b.lane, b.data / 256 ^ (k - b.key) % 256))
    else [])

/-- The youngest of a list of stores: the greatest id, then the highest lane (R195). -/
def youngest (l : List (Nat × Nat × Nat)) : Option Nat :=
  (l.foldl (fun (b : Option (Nat × Nat × Nat)) x =>
    match b with
    | none => some x
    | some y => if y.1 < x.1 || (y.1 == x.1 && y.2.1 ≤ x.2.1) then some x else b) none).map (·.2.2)

/-- A fence or bridge covers the write, or it is an RC write before a narrow RC release of its warp, which is performed in the core
(R208, R209, R394): what its release publishes in the core is performed there before it. -/
def Warp.covers (v : Warp) (u : Txn) : Bool :=
  u.publish || (u.dom == .rc && v.txns.any (fun r => decide (u.id ≤ r.id) && r.dom == .rc && ordRel r.ord && r.kind.isStore && narrow r.scope))

/-- A store that its core holds is performed there for an agent (R190, R379, R386): a narrow RC or BULK store whose scope's
instance has the agent, or one that a release of its warp covers, for the agents of its block. -/
def heldFor (s : State) (v : Warp) (u : Txn) (x : Agent) : Bool :=
  u.kind.isStore && (u.dom == .rc || u.dom == .bulk) && narrow u.scope
    && (inInstance s v u.scope x || (v.covers u && inInstance s v .block x))

/-- The warps of a core other than the agent's own. -/
def othersOf (s : State) (core : Nat) (x : Agent) : List Warp := (coreWarps s core).filter (fun v => x != .lanes v.id)

/-- The byte k of global memory that an agent takes from the stores that other warps of a core hold for it (R190, R380). -/
def heldByte (s : State) (core : Nat) (x : Agent) (k : Nat) : Option Nat :=
  youngest ((othersOf s core x).flatMap (fun v => queueBytes v .global k (fun u => heldFor s v u x)))

/-- A store of another warp that the core holds for the agent has a byte of an access. -/
def heldMeets (s : State) (core : Nat) (x : Agent) (a : Acc) (p : Warp → Txn → Acc → Bool) : Bool :=
  (othersOf s core x).any (fun v => v.txns.any (fun u => heldFor s v u x && u.accs.any (fun b => b.st != .done && b.overlaps a && p v u b)))

/-- Another write has gone over a performed store's bytes at its home. -/
def overwritten (s : State) (wid : Nat) (b : Acc) : Bool := b.st == .performed && homeRead s wid b != b.data % 256 ^ b.n

/-- A load waits for a store to its bytes that stands in the queues of its warp: one of another lane in SC, TSO or CAUSAL, which
all agents are to see at once (R388 to R390); one that is a pending CAUSAL update, for a non-CAUSAL load (R391); one whose home a
later write has reached already, so that its bytes are not the latest (R365, R387); and one that a store which the core holds
for the lane follows. -/
def queueBlocks (s : State) (w : Warp) (t : Txn) (a : Acc) : Bool :=
  let x := Agent.lanes w.id
  w.txns.any (fun u => u.kind.isStore && decide (u.id < t.id) && u.accs.any (fun b => b.st != .done && b.overlaps a &&
    ((b.st == .issued && b.lane != a.lane && (u.dom == .sc || u.dom == .tso || u.dom == .causal))
      || (b.st == .causal && t.dom != .causal) || overwritten s w.id b
      || (usesL1 t a && heldMeets s w.core x a (fun _ y _ => decide (u.id < y.id))))))
    || (usesL1 t a && heldMeets s w.core x a (fun v _ b => overwritten s v.id b))

/-- The byte that a load takes from its core's queues: the youngest of its warp's own earlier stores (R365, R382), or else, for a
RC or BULK load, of the stores that other warps hold for it (R190). -/
def forwarded (s : State) (w : Warp) (t : Txn) (a : Acc) (k : Nat) : Option Nat :=
  (youngest (queueBytes w a.sp k (fun u => decide (u.id < t.id)))).or
    (if usesL1 t a then heldByte s w.core (.lanes w.id) k else none)

/-- A byte with a die's pending CAUSAL updates applied (R391). -/
def causalByte (s : State) (die loc : Nat) (b : Nat) : Nat :=
  (s.die die).upd.foldl (fun b u => if u.loc ≤ loc && loc < u.loc + u.n then u.data / 256 ^ (loc - u.loc) % 256 else b) b

/-- A byte that a load reads: forwarded, else from L1, else at the home (R364, R365, R382, R391). -/
def loadByte (s : State) (w : Warp) (t : Txn) (a : Acc) (l1 : Bool) (i : Nat) : Nat :=
  match forwarded s w t a (a.key + i) with
  | some b => b
  | none =>
    let ctx := (s.block w.block).ctx
    match (if l1 then (s.core w.core).l1line ctx (a.key + i) else none) with
    | some line => line.byte (a.key + i)
    | none =>
      let x := homeRead s w.id { a with n := 1, key := a.key + i, xl := (match a.xl with | .loc l => .loc (l + i) | x => x) }
      if t.dom == .causal && a.sp == .global then causalByte s (dieOf w.core) (a.place + i) x else x

/-- The value of a load access. -/
def loadVal (s : State) (w : Warp) (t : Txn) (a : Acc) (l1 : Bool) : Nat :=
  (List.range a.n).foldl (fun r i => r + loadByte s w t a l1 i * 256 ^ i) 0

/-- An access's parts on its 128-byte lines: the intermediate address and the place at which each starts. -/
def Acc.spans (a : Acc) : List (Nat × Nat) := (linesOf a.key a.n).map (fun k => (max a.key k, a.place + (max a.key k - a.key)))

/-- The scope at which an access reaches the caches: CAUSAL is served at the die L2 whatever its scope (R364). -/
def Txn.reach (t : Txn) : Scope := if t.dom == .causal then .die else t.scope

/-- Where L1 holds a byte of a lane's slice: slices stand above every intermediate address (log 30). -/
def sliceIa (wid key : Nat) : Nat := 2 ^ 64 + wid * 2 ^ 21 + key

/-- L1 and the caches behind it at an access to a lane's slice (R358, R364): a load hits or fills its line, which no filter
records; a store is written through and reaches a present copy. -/
def laneTouch (s : State) (wid : Nat) (a : Acc) (load : Bool) : State :=
  let w := s.warp wid
  let ctx := (s.block w.block).ctx
  let ia := sliceIa wid a.key
  let home := dieOf w.core * (192 * 2 ^ 30)
  if !load then touch (s.modCore w.core (fun k => k.l1write ctx ia a.n (laneRead w a.key a.n))) w.core ia home .warp .dflt
  else if ((s.core w.core).l1line ctx ia).isSome then
    (s.modCore w.core (fun k => { k with l1 := k.l1.map (fun x => if x.ctx == ctx && x.line == ia / 128 then x.hit .dflt s.ctr else x) })).count w.core 4 1
  else
    let line := BitVec.ofNat 1024 (laneRead w (a.key / 128 * 128) 128)
    ((touch s w.core ia home .warp .dflt).modCore w.core (fun k => k.l1fill ctx (ia / 128) line false false .dflt s.ctr)).count w.core 5 1

/-- A RC or BULK load at one line of L1 (R364, R368): a hit keeps the line, a miss fills it and records it in its domain's
filter. -/
def l1Load (core ctx : Nat) (rc drop : Bool) (scope : Scope) (pol : Pol) (s : State) (x : Nat × Nat) : State :=
  match (s.core core).l1line ctx x.1 with
  | some _ =>
    (s.modCore core (fun k => { k with l1 := k.l1.map (fun l =>
      if l.ctx == ctx && l.line == x.1 / 128 then l.hit pol s.ctr else l) })).count core 4 1
  | none =>
    let s1 := (touch s core x.1 x.2 scope pol).count core 5 1
    if drop then s1
    else s1.modCore core (fun k => k.l1fill ctx (x.1 / 128) (lineNow s ctx (x.1 / 128 * 128) (x.2 / 128 * 128)) rc (!rc) pol s.ctr)

/-- A load hits its core's L1 in every line (R364). -/
def l1Hit (s : State) (w : Warp) (t : Txn) (a : Acc) : Bool :=
  usesL1 t a && a.spans.all (fun x => ((s.core w.core).l1line (s.block w.block).ctx x.1).isSome)

/-- L1 after a RC or BULK load (R364, R368). -/
def l1After (s : State) (w : Warp) (t : Txn) (a : Acc) : State :=
  a.spans.foldl (l1Load w.core (s.block w.block).ctx (t.dom == .rc) t.drop t.reach t.pol) s

/-- The caches beyond L1 at an access to global memory (R363, R368). -/
def touchAcc (s : State) (core : Nat) (t : Txn) (a : Acc) : State :=
  if a.sp == .global then a.spans.foldl (fun s x => touch s core x.1 x.2 t.reach t.pol) s else s

/-- Writes of the core to lines of an access that are performed and not yet acknowledged: a fill waits for them,
so that it never goes back behind the copy's own update (R382). -/
def unackedLine (s : State) (core : Nat) (a : Acc) : Bool :=
  (coreWarps s core).any (fun v => v.txns.any (fun u => u.kind.writes &&
    u.accs.any (fun b => b.sp == .global && b.st == .performed && linesMeet b.key b.n a.key a.n)))

/-! ### Delivering -/

/-- The value that a lane's accesses make up. -/
def laneValue (t : Txn) (l : Nat) : Nat := (t.of l).foldl (fun r a => r + a.got * 256 ^ a.part) 0

/-- Writes a result into a lane's destination registers (R196, R17). -/
def deliverLane (s : State) (wid : Nat) (t : Txn) (l x : Nat) : State :=
  s.modWarp wid (fun w =>
    let rf := t.regs.foldl RegFile.take w.rf
    { w with rf := rf.vputs t.dst l x t.nregs })

/-- A record is well formed (R30). -/
def recordOk (x : Nat) : Bool := x / 2 ^ 181 == 0 && nbits x 178 176 ≤ 4

/-- The monitor after its snapshot was read (R211). -/
def armMonitor (s : State) (wid : Nat) (t : Txn) (a : Acc) : State :=
  let loc := a.place / 128 * 128
  let now := lineNow s (s.block (s.warp wid).block).ctx (a.key / 128 * 128) loc
  s.modWarp wid (fun w => { w with mon := ⟨true, a.key / 128, loc, t.scope, t.dom, now, false⟩ })

/-- The acquire of a lane whose access has completed (R191, R189). -/
def acquireDone (s : State) (core : Nat) (t : Txn) (l : Nat) : State :=
  if t.dom == .rc && ordAcq t.ord && (t.of l).any Acc.framed then invalidateFilter s core .rc else s

/-- Replaces a transaction of a warp; a finished one goes. -/
def Warp.putTxn (w : Warp) (t : Txn) : Warp :=
  { w with txns := (w.txns.map (fun u => if u.id == t.id then t else u)).filter (fun u => u.accs.any (fun a => a.st != .done)) }

/-- A transaction with one access replaced. -/
def Txn.setAcc (t : Txn) (i : Nat) (a : Acc) : Txn := { t with accs := t.accs.set i a }

/-- A transaction of a warp. -/
def Warp.txn? (w : Warp) (id : Nat) : Option Txn := w.txns.find? (fun t => t.id == id)

/-! ### The scratchpad's banks and the memory port -/

/-- One piece that a lane asks of a scratchpad: the core, the physical offset and the bytes. -/
structure BankAsk where
  lane : Nat
  core : Nat
  at_ : Nat
  n : Nat
  deriving DecidableEq, Repr, Inhabited

/-- The words that a piece names, by core. -/
def BankAsk.words (x : BankAsk) : List (Nat × Nat) :=
  (List.range ((x.at_ + x.n - 1) / 4 - x.at_ / 4 + 1)).map (fun i => (x.core, x.at_ / 4 + i))

/-- Passes of a scratchpad access of n bytes, and the groups that hold active lanes (R371 to R373). Each core's scratchpad
has banks of its own. -/
def bankPasses (n : Nat) (xs : List BankAsk) : Nat × Nat :=
  let per := if n = 16 then 8 else if n = 8 then 16 else 32
  (List.range (32 / per)).foldl (fun (r : Nat × Nat) g =>
    let here := xs.filter (fun x => x.lane / per == g)
    if here.isEmpty then r
    else
      let words := (here.flatMap BankAsk.words).eraseDups
      let most := words.foldl (fun m x => max m (words.filter (fun y => y.1 == x.1 && y.2 % 32 == x.2 % 32)).length) 0
      (r.1 + most, r.2 + 1)) (0, 0)

/-- What accesses ask of the scratchpads. -/
def bankAsks (as : List Acc) : List BankAsk :=
  as.filterMap (fun a => match a.sp with | .scratch c => some ⟨a.lane, c, a.key, a.n⟩ | _ => none)

/-- The memory port is held for c cycles (R374, R342). -/
def takePort (s : State) (c : Cx) (p : Nat × Nat) : State :=
  let k := max p.1 1
  s.modQuad c.iss.core c.iss.quad (fun q => { q with memUntil := s.now c + k, lossFrom := s.now c + (k - (p.1 - p.2)) })

/-! ### Beads -/

/-- Granules of the scratchpad that an access touches (R199). -/
def granules (a n : Nat) : List Nat := (List.range ((a + n - 1) / 16 - a / 16 + 1)).map (a / 16 + ·)
def beadGet (k : Core) (g : Nat) : Bool := cget k.beads false g
def beadPut (k : Core) (g : Nat) (v : Bool) : Core := { k with beads := cset k.beads false g v }

end Sys2Proof.Machine
end

