-- ==== Sys2Proof/Machine/Memory.lean ====
section
/-! DEFINITION. Loads, stores, beads, prefetches, fences, bridges, monitors, address conversion and LDREC
(R194 to R201, R205 to R216). -/

namespace Sys2Proof.Machine

/-! ### Fault records -/

/-- Fault record N of a warp (R32). -/
def Warp.frAt (w : Warp) (n : Nat) : Option FaultRec := (w.fr.getD n none)

/-- The part of a transaction in the lanes of a mask. -/
def Txn.part (t : Txn) (m : LMask) : Txn :=
  if t.kind.shared then { t with mask := t.mask &&& m } else { t with mask := t.mask &&& m, accs := t.accs.filter (fun a => hasLane m a.lane) }

/-- The lanes of a deferred record whose policy is USER: that of the record it follows (R444). -/
def followedPolicy (s : State) (w : Warp) (m : LMask) : LMask :=
  let recs := (w.fr.filterMap id) ++ ((s.core w.core).pfq.filter (fun x => x.1 == w.id)).map (·.2)
  maskOf (fun l => hasLane m l && ((recs.filter (fun r => hasLane r.txn.mask l)).getLast?).any (fun r => hasLane r.user l))

/-- The lanes of a mask whose faulting access used a window with the policy USER (R444). -/
def Txn.userLanes (t : Txn) (m : LMask) : LMask :=
  let bad := fun (a : Acc) => match a.xl with | .fault _ _ => true | _ => false
  maskOf (fun l => hasLane m l && (((t.of l).find? bad).getD ((t.of l).headD default)).user)

/-- A fault takes an empty record, or waits in the pending-fault queue (R33). -/
def placeRec (s : State) (wid : Nat) (r : FaultRec) : State :=
  let w := s.warp wid
  let s1 := (match (List.range 4).find? (fun n => (w.frAt n).isNone) with
    | some n => s.modWarp wid (fun w => { w with fr := w.fr.set n (some r) })
    | none => s.modCore w.core (fun k => { k with pfq := k.pfq ++ [(wid, r)] })).count w.core 30 1
  let s2 := if r.kind = .domainFloor then s1.count w.core 38 1 else s1
  let a := (r.txn.of (lowLane r.txn.mask)).headD default
  traceEmit s2 (s.block w.block).ctx w.core w.quad
    { kind := 7, code := kindCode r.kind, mask := r.txn.mask, pc := r.txn.f.pc, name := laneName s w (lowLane r.txn.mask),
      arg0 := a.key, arg1 := domCode r.txn.dom + 8 * scopeCode r.txn.scope }

/-- Lanes of a transaction take a record of their own, marked as deferred (R197). -/
def recordDeferred (s : State) (wid : Nat) (t : Txn) (m : LMask) : State :=
  (placeRec s wid ⟨t.part m, .deferred, 0, s.ctr, followedPolicy s (s.warp wid) m⟩).bump

/-! ### Memory operations -/

/-- What a memory instruction does, as data and functions of its operands. -/
structure MemOp where
  kind : TxKind
  ask : Ask
  ord : Ord
  pol : Cx → Pol
  form : Cx → Nat → Aform
  /-- data and compare value of a lane -/
  dat : Cx → Nat → Nat × Nat
  /-- bead qualifier: 1 FULL, 2 TAKE, 3 FILL (R199) -/
  bead : Nat := 0

/-- IMM12 as a byte count (R76, R182). -/
def imm12 (i : BitVec 12) (n : Nat) : Int := i.toInt * (n : Int)

/-- The policy of a record form: DEF takes the record's default (R192, R362). -/
def recPol (p : Pol) (r : BitVec 256) : Pol :=
  if p == .dflt then (polOf (nbits r.toNat 180 179)).getD .dflt else p

/-- A record form's address operand (R182). -/
def recForm (b : BitVec 4) (off : Src) (imm : BitVec 12) (n : Nat) (c : Cx) (l : Nat) : Aform :=
  .record (c.rf.brec b.toNat) (sextN (src32 c off l) 32 + imm12 imm n)
/-- A generic form's address operand. -/
def genForm (a : Src) (imm : BitVec 12) (n : Nat) (c : Cx) (l : Nat) : Aform := .generic (addr64 (src64 c a l) (imm12 imm n))
/-- A scratchpad form's address operand. -/
def scrForm (off : Src) (imm : BitVec 12) (n : Nat) (c : Cx) (l : Nat) : Aform := .scratch ((src32 c off l : Nat) + imm12 imm n)
/-- A cluster form's address operand. -/
def cluForm (cw : Src) (imm : BitVec 12) (n : Nat) (c : Cx) (l : Nat) : Aform := .cluster (src32 c cw l) (imm12 imm n)

/-- The data of a store (R194). -/
def storeDat (x : Src) (n : Nat) (c : Cx) (l : Nat) : Nat × Nat :=
  (srcVal c none (max 1 (n / 4)) x l % 2 ^ (8 * n), 0)

/-- What a load asks. -/
def askLd (z : Size) (q : MemQ) : Ask := ⟨sizeBytes z, true, false, false, q.dom, q.scope⟩
/-- What a store asks. -/
def askSt (z : Size) (q : MemQ) : Ask := ⟨sizeBytes z, false, true, false, q.dom, q.scope⟩
/-- What an atomic asks: both permissions (R187). -/
def askAt (op : AOp) (wide : Bool) (q : MemQ) : Ask := ⟨atomBytes op wide, true, true, true, q.dom, q.scope⟩

/-- The address operand of an atomic (R202). -/
def atForm (am : AMode) (b : BitVec 4) (a : Src) (imm : BitVec 12) (n : Nat) : Cx → Nat → Aform :=
  match am with
  | .record => recForm b a imm n
  | .generic => genForm a imm n
  | .scratch => scrForm a imm n
  | .cluster => cluForm a imm n

/-- The data of an atomic (R203): compare and new value for CAS. A constant of FADD on FP32 is its exact
value (R69), and one of FADD on BF16x2 is read as raw bits (log 27). -/
def atDat (op : AOp) (wide : Bool) (x : Src) (c : Cx) (l : Nat) : Nat × Nat :=
  let w := 8 * atomBytes op wide
  match op with
  | .cas =>
    let v := srcVal c none (w / 16) x l
    (v / 2 ^ w % 2 ^ w, v % 2 ^ w)
  | .fadd => (srcVal c (if wide then none else some .f32) 1 x l % 2 ^ w, 0)
  | _ => (srcVal c none (w / 32) x l % 2 ^ w, 0)

/-- The memory operation of an instruction (R195, R202, R211, R215). -/
def memOpOf : Instr → Option MemOp
  | .ld _ _ z q b off imm =>
    some { kind := .load, ask := askLd z q, ord := q.ord, pol := fun c => recPol q.pol (c.rf.brec b.toNat), form := recForm b off imm (sizeBytes z), dat := fun _ _ => (0, 0) }
  | .st _ z q b off x imm =>
    some { kind := .store, ask := askSt z q, ord := q.ord, pol := fun c => recPol q.pol (c.rf.brec b.toNat), form := recForm b off imm (sizeBytes z), dat := storeDat x (sizeBytes z) }
  | .ldx _ _ z q a imm =>
    some { kind := .load, ask := askLd z q, ord := q.ord, pol := fun _ => q.pol, form := genForm a imm (sizeBytes z), dat := fun _ _ => (0, 0) }
  | .stx _ z q a x imm =>
    some { kind := .store, ask := askSt z q, ord := q.ord, pol := fun _ => q.pol, form := genForm a imm (sizeBytes z), dat := storeDat x (sizeBytes z) }
  | .lds _ _ z q bd off imm =>
    some { kind := .load, ask := askLd z q, ord := q.ord, pol := fun _ => .dflt, form := scrForm off imm (sizeBytes z), dat := fun _ _ => (0, 0), bead := match bd with | .none => 0 | .full => 1 | .take => 2 }
  | .sts _ z q fill off x imm =>
    some { kind := .store, ask := askSt z q, ord := q.ord, pol := fun _ => .dflt, form := scrForm off imm (sizeBytes z), dat := storeDat x (sizeBytes z), bead := if fill then 3 else 0 }
  | .ldcl _ _ z q cw imm =>
    some { kind := .load, ask := askLd z q, ord := q.ord, pol := fun _ => .dflt, form := cluForm cw imm (sizeBytes z), dat := fun _ _ => (0, 0) }
  | .stcl _ z q cw x imm =>
    some { kind := .store, ask := askSt z q, ord := q.ord, pol := fun _ => .dflt, form := cluForm cw imm (sizeBytes z), dat := storeDat x (sizeBytes z) }
  | .atom _ _ op w q am b a x imm =>
    some { kind := .atomic op w false, ask := askAt op w q, ord := q.ord, pol := fun c => if am = .record then recPol .dflt (c.rf.brec b.toNat) else .dflt, form := atForm am b a imm (atomBytes op w), dat := atDat op w x }
  | .red _ op w q am b a x imm =>
    some { kind := .atomic op w true, ask := askAt op w q, ord := q.ord, pol := fun c => if am = .record then recPol .dflt (c.rf.brec b.toNat) else .dflt, form := atForm am b a imm (atomBytes op w), dat := atDat op w x }
  | .ldrec _ q b a imm =>
    some { kind := .ldrec b.toNat, ask := ⟨32, true, false, false, q.dom, q.scope⟩, ord := q.ord, pol := fun _ => .dflt, form := genForm a imm 32, dat := fun _ _ => (0, 0) }
  | .monitor _ dom scope a imm =>
    some { kind := .monitor, ask := ⟨1, true, false, false, dom, scope⟩, ord := .plain, pol := fun _ => .dflt, form := genForm a imm 128, dat := fun _ _ => (0, 0) }
  | _ => none

/-- The lanes that form addresses: all active ones, or the lowest for LDREC and MONITOR. -/
def MemOp.lanes (o : MemOp) (c : Cx) : List Nat := if o.kind.shared then (lanesOf c.act).take 1 else lanesOf c.act

/-- The lanes' outcomes of R186. -/
def MemOp.spots (o : MemOp) (s : State) (c : Cx) : List (Nat × Spot) :=
  (o.lanes c).map (fun l => (l, spotOf s c.w l o.ask (o.form c l)))

/-- A lane's outcome as traps: LDREC and MONITOR trap on all active lanes, and MONITOR takes no aperture
address (R211, R215). -/
def MemOp.traps (o : MemOp) (c : Cx) (sp : List (Nat × Spot)) : Traps :=
  let one := sp.filterMap (fun x =>
    match x.2 with
    | .trap k => some (x.1, k)
    | .at ps => if o.kind == .monitor && ps.any (fun p => p.sp != .global) then some (x.1, .illegal) else none
    | .zero => none)
  let mon := o.kind == .monitor && (o.lanes c).any (fun l => match o.form c l with | .generic a => nbits a 63 56 == 0xFE | _ => false)
  if !o.kind.shared then one
  else if mon then (lanesOf c.act).map (fun l => (l, .illegal))
  else match one with
    | [] => []
    | x :: _ => (lanesOf c.act).map (fun l => (l, x.2))

/-- The accesses of the lanes that do not trap (R195, R185): a lane that mode 3 discards gets 0. -/
def MemOp.accs (o : MemOp) (c : Cx) (sp : List (Nat × Spot)) : List Acc :=
  sp.flatMap (fun x =>
    match x.2 with
    | .trap _ => []
    | .zero => if o.kind == .store then [] else [⟨x.1, 0, 1, .lane, 0, 0, 0, 0, false, .loc 0, .performed, 0⟩]
    | .at ps =>
      let d := o.dat c x.1
      ps.map (fun p => ⟨x.1, p.part, p.n, p.sp, p.key, d.1 / 256 ^ p.part % 256 ^ p.n, d.2, 0, p.user, .none, .issued, 0⟩))

/-- A memory instruction can still raise a memory-side fault, or be deferred behind one (R33): an access of it is still
to be performed. -/
def Txn.canFault (t : Txn) : Bool := t.accs.any (fun a => a.st == .issued)

/-- DKLDs of a global source that have issued and wait for their handle (R221): their fills may still fault. -/
def fillsToCome (w : Warp) : Nat :=
  (w.groups.filter (fun g =>
    match g.wait, g.cur with
    | some (.issued _ _ a), some f =>
      (match decodeWord f.word with | .ok (.dkld ..) => nbits a.b.toNat 63 56 != 0xFE | _ => false)
    | _, _ => false)).length

/-- Instructions of a warp that can still fault (R33). -/
def mayFaults (w : Warp) : Nat := (w.txns.filter Txn.canFault).length + fillsToCome w

/-- Entries of the pending-fault queue reserved for a warp (R33): what its instructions that can fault
need beyond its four records. -/
def reservedFor (w : Warp) : Nat := mayFaults w - 4

/-- The core can reserve what one more memory instruction of the warp needs (R33): entries that hold a fault are not
free. -/
def pfqRoom (s : State) (w : Warp) : Bool :=
  let need := mayFaults w + 1 - 4
  let others := (((coreWarps s w.core).filter (fun v => v.id != w.id)).map reservedFor).sum
  let q := (s.core w.core).pfq
  decide (need = 0) || decide (need + (q.filter (fun x => x.1 == w.id)).length ≤ 16 ∧ others + need + q.length ≤ 128)

/-- Stores of a domain that a core's queue holds (R365). -/
def queued (s : State) (core : Nat) (d : Dom) : Nat :=
  ((coreWarps s core).flatMap (fun w => w.txns.filter (fun t => t.kind.writes && t.dom == d && t.accs.any (fun a => a.st == .issued || a.st == .causal)))).length

/-- The domain's store queue is full; an empty one never is (log 13). -/
def queueFull (s : State) (core : Nat) (d : Dom) : Bool :=
  match queued s core d with
  | 0 => false
  | n + 1 => decide (Config.storeQueue ≤ n + 1)

/-- A RC or BULK store at a narrow scope is performed in its core, where its home there is, for an order at a narrow scope
(R190): not one whose home is a scratchpad or the die L2 (R189). -/
def inCore (scope : Scope) (t : Txn) (a : Acc) : Bool := narrow scope && narrow t.scope && (a.sp == .global || a.sp == .lane)

/-- Earlier RC accesses that a release of the lane waits for (R191): loads and atomics that have not
returned, and unacknowledged RC writes of the warp; at a narrow scope, narrow writes are performed in
the core. -/
def relBlocked (w : Warp) (scope : Scope) (l : Nat) : List Acc :=
  w.txns.flatMap (fun t =>
    if t.dom != .rc then []
    else if t.kind.isStore then t.accs.filter (fun a => a.st != .done && !inCore scope t a)
    else (t.of l).filter (fun a => a.st != .done && a.framed))

/-- RC writes that other warps of the core hold, and what fences cover there: writes that a lane's own acquires may have seen
(R386, R387). -/
def heldByOthers (s : State) (w : Warp) : List Acc :=
  (coreWarps s w.core).flatMap (fun v => v.txns.flatMap (fun t =>
    if v.id != w.id && t.kind.writes && (t.publish || (t.dom == .rc && narrow t.scope)) then t.accs.filter (fun a => a.st != .done) else []))

/-- What the release part of a fence or bridge of a domain waits for (R208): loads returned, stores
acknowledged, or drained for SC and TSO; a narrow RC or BULK store is performed in the core. -/
def fenceRel (s : State) (w : Warp) (d : Dom) (scope : Scope) (l : Nat) : List Acc :=
  let own := w.txns.flatMap (fun t =>
    if t.dom != d then []
    else if t.kind.isStore then
      if d == .sc || d == .tso then (t.of l).filter (fun a => a.st == .issued)
      else (if d == .rc then t.accs else t.of l).filter (fun a => a.st != .done && !((d == .rc || d == .bulk) && inCore scope t a))
    else (t.of l).filter (fun a => a.st != .done && a.framed))
  own ++ (if d == .rc && !narrow scope then heldByOthers s w else [])

/-- What the acquire part waits for (R208): earlier loads of the domain. -/
def fenceAcq (w : Warp) (d : Dom) (l : Nat) : List Acc :=
  w.txns.flatMap (fun t => if t.dom == d && !t.kind.isStore then (t.of l).filter (fun a => a.st != .done && a.framed) else [])

/-- The cause of a wait for accesses (R210, R452): TRANSLATION when migration holds the walk of one. -/
def waitCause (l : List Acc) : Cause := if l.any (fun a => a.xl == .wait) then .translation else .memory

/-- The transaction of a memory operation. -/
def MemOp.txn (o : MemOp) (c : Cx) (s : State) (m : LMask) (as : List Acc) : Txn :=
  let (dst, nr) := match c.p.dst with | .v r n => (r, n) | _ => (0, 0)
  { id := s.ctr, kind := o.kind, f := c.iss.f, runId := c.g.runId, mask := m, dst := dst, nregs := nr, size := o.ask.n,
    dom := o.ask.dom, scope := o.ask.scope, ord := o.ord, pol := o.pol c, accs := as, publish := false, drop := false }

/-- Lanes whose accesses to the core's own scratchpad or to lane memory are deferred (R197). -/
def lateLanes (s : State) (c : Cx) (t : Txn) : LMask :=
  let late := fun (l : Nat) => t.accs.any (fun a => a.lane == l && a.framed && a.local c.w.core && a.st == .issued) && deferredBy s c.w t l
  if t.kind.shared then (if (lanesOf t.mask).any late then t.mask else 0) else maskOf late

/-- What an access to the core's own scratchpad waits for before it issues: earlier accesses of its lane that order puts
before it (R191, R384) or that name its bytes (R382), the scratchpad stores that a `.FILL` releases (R200), and, where it is
to be deferred, what is not decided. Order does not touch an access to lane memory (R189). -/
def nearBlocked (s : State) (c : Cx) (t : Txn) : List Acc :=
  (t.accs.filter (fun a => a.framed && a.local c.w.core && a.st == .issued)).flatMap (fun a =>
    c.w.txns.flatMap (fun u => (u.of a.lane).filter (fun b =>
      (ordered u t && !u.past (t.dom == .rc && ordRel t.ord) b) || (b.st == .issued && (b.overlaps a || (t.bead == 3 && u.scratchStore a.lane)))))
      ++ (if deferredBy s c.w t a.lane then undecided s c.w t.id a.lane else []))

/-- The waits before issue of a memory operation (R318, R33, R191). -/
def memBlock (s : State) (c : Cx) (o : MemOp) : Option Cause :=
  let sp := o.spots s c
  let as := o.accs c sp
  let far := as.filter (fun a => !a.local c.w.core && a.st == .issued)
  if o.traps c sp ≠ [] && o.kind.shared then none
  else
    let rel := if ordRel o.ord && o.kind.writes then ((as.filter Acc.framed).map (·.lane)).flatMap (relBlocked c.w o.ask.scope) else []
    let t := o.txn c s c.act as
    let near := nearBlocked s c t
    if rel ≠ [] then some (waitCause rel)
    else if near ≠ [] then some (waitCause near)
    else if lateLanes s c t ≠ 0 && !pfqRoom s c.w then some .memory
    else if far ≠ [] && o.kind.writes && queueFull s c.w.core o.ask.dom then some .memory
    else if far ≠ [] && !pfqRoom s c.w then some .memory
    else none

/-- A fence or bridge would wait for a recorded access (R197, R208): one of its domain, for the acquire part alone no
store; or a deferred fence or bridge that orders that domain. -/
def waitsFor (rel acq : Option Dom) (u : Txn) : Bool :=
  match u.kind with
  | .fence d _ => rel == some d || acq == some d
  | k => rel == some u.dom || (acq == some u.dom && !k.isStore)

/-- Lanes in which a fence or bridge is deferred (R197, R210). -/
def fenceLate (s : State) (c : Cx) (rel acq : Option Dom) : LMask :=
  maskOf (fun l => hasLane c.act l && !(c.w.thread l).depth && (faultedBefore s c.w s.ctr l).any (waitsFor rel acq))

/-- The waits before issue of FENCE and BRIDGE (R208, R209, R33). A bridge from RC leads to accesses that wait for no RC write:
what other warps of the core hold is waited for here (R387, log 15). -/
def fenceBlock (s : State) (c : Cx) (rel acq : Option Dom) (dst : Dom) (scope : Scope) : Option Cause :=
  let late := fenceLate s c rel acq
  let wait := (lanesOf c.act).flatMap (fun l =>
    if hasLane late l then undecided s c.w s.ctr l
    else (match rel with | some d => fenceRel s c.w d scope l ++ (if d == .rc && dst != .rc then heldByOthers s c.w else []) | none => [])
      ++ (match acq with | some d => fenceAcq c.w d l | none => []))
  if wait ≠ [] then some (waitCause wait)
  else if late ≠ 0 && !pfqRoom s c.w then some .memory
  else none

/-- Lanes have RC or BULK scratchpad stores that are not yet performed, in flight to another core or held in a fault record:
what releases them waits for them (R200, R237, R244 to R246). -/
def storesAway (s : State) (w : Warp) (m : LMask) : Bool :=
  (lanesOf m).any (fun l =>
    (w.txns.any (fun t => t.scratchStore l && (t.of l).any (fun a => a.st == .issued))) ||
      (faultedBefore s w s.ctr l).any (fun t => t.scratchStore l))

/-- Performs an access to the core's own scratchpad or to a lane's slice, the latter with L1 in front (R195, R204, R364). -/
def performNear (wid : Nat) (t : Txn) (s : State) (a : Acc) : State × Acc :=
  let cached := fun (s : State) (load : Bool) => if a.framed then s else laneTouch s wid a load
  let old := homeRead s wid a
  match t.kind with
  | .store => (cached (homeWrite s wid a a.data) false, { a with xl := .loc 0, st := .done })
  | .atomic op w red => (homeWrite s wid a (atomVal op w old a.data a.cmp), { a with got := old, xl := .loc 0, st := if red then .done else .performed })
  | _ => (cached s true, { a with got := old, xl := .loc 0, st := .performed })

/-- Performs the accesses to the core's own scratchpad and the lanes' slices, in lane order (R195, R204,
R375). -/
def performLocal (s : State) (c : Cx) (t : Txn) : State × List Acc :=
  t.accs.foldl (fun (p : State × List Acc) a =>
    if !a.local c.w.core || a.st != .issued then (p.1, p.2 ++ [a])
    else let (s1, b) := performNear c.iss.warp t p.1 a; (s1, p.2 ++ [b])) (s, [])

/-- An access that L1 does not serve finds a line held by a release of another core (R394), or, when it is not CAUSAL,
under a pending CAUSAL update of its die (R391). -/
def lineWaits (s : State) (w : Warp) (t : Txn) (a : Acc) : Bool :=
  !(t.kind.isLoad && l1Hit s w t a) && (a.locOf s w).any (fun l =>
    heldElsewhere s (some w.core) l a.n || (t.dom != .causal && pendingUpdate s (dieOf w.core) l a.n))

/-- A transaction still waits for an earlier access after its issue (R216, R382, R391, R394): SC for the previous SC
access, a store for another domain's queue, any for a publish or a pending CAUSAL update. -/
def txnWaits (s : State) (w : Warp) (t : Txn) : Bool :=
  t.accs.any (fun a => a.st == .issued &&
    ((t.dom == .sc && !orderOk w t a) || lineWaits s w t a
      || (t.kind.isStore && w.txns.any (fun u => decide (u.id < t.id) && u.kind.isStore && u.dom != t.dom &&
          u.accs.any (fun b => b.st == .issued && b.overlaps a)))))

/-- Beads of the granules that the accesses touch. -/
def accGranules (as : List Acc) : List Nat := (as.flatMap (fun a => match a.sp with | .scratch _ => granules a.key a.n | _ => [])).eraseDups

/-- The bead effect of a completed access: TAKE clears, FILL sets (R199). -/
def beadEffect (s : State) (core bead : Nat) (gs : List Nat) : State :=
  if bead = 2 then s.modCore core (fun k => gs.foldl (fun k g => beadPut k g false) k)
  else if bead = 3 then s.modCore core (fun k => gs.foldl (fun k g => beadPut k g true) k)
  else s

/-- A memory operation issues with its accesses, in the lanes of m; the lanes of ts trap (R195, R196). A MONITOR waits for
its snapshot (log 77), and an earlier armed monitor is disarmed when it issues (DESIGN CHOICE, log 84: R211 says only that re-arming
replaces it). LDREC's last reads are freed when it issues, as those of every memory instruction are (R22). -/
def memGo (o : MemOp) (c : Cx) (ts : Traps) (m : LMask) (as : List Acc) (s : State) : State :=
  let gs := accGranules as
  let s0 := takePort s c (bankPasses o.ask.n (bankAsks as))
  if (o.bead = 1 || o.bead = 2) && gs.any (fun g => !beadGet (s.core c.w.core) g) then
    let b := s.block c.w.block
    suspendIssued ((s0.count c.w.core 21 1).allocate c) c ts (.lanes m (as.map (fun a => (a.lane, a.key - b.base)))) .barrier
  else if as = [] then s0.finish c ts
  else
    let t := o.txn c s m as
    let (s1, as') := performLocal (s0.allocate c) c t
    let held := o.kind.isStore && t.dom == .rc && ordRel t.ord && narrow t.scope
      && c.w.txns.any (fun u => u.kind.writes && u.accs.any (fun a => a.st != .done))
    let t' := { t with accs := as', holds := held }
    let s1 := if o.bead = 1 || o.bead = 2 then acquireBoth s1 c.w.core else s1
    let s2 := beadEffect s1 c.w.core o.bead gs
    let s3 := s2.modIss c (fun w =>
      let w := if o.kind == .monitor then { w with mon := { w.mon with armed := false } } else w
      let w := w.loaded (c.g.mask &&& ~~~trapMask ts) t'
      if as'.any (fun a => a.st != .done) then { w with txns := w.txns ++ [t'] } else w)
    let s4 := if o.kind.isStore && as.any (fun a => !(a.framed && a.local c.w.core)) then s3.count c.w.core (10 + domCode o.ask.dom) 1 else s3
    if o.kind.shared || txnWaits s4 c.w t' then
      (suspendIssued s4 c ts (.issued .memory t.mask { a := BitVec.ofNat 64 t.id }) .memory).bump
    else s4.finish c ts

/-- A memory operation issues behind its checks (R186, R195, R196); its deferred accesses to the core's own scratchpad
or to lane memory take a record (R197). -/
def memIssue (o : MemOp) (c : Cx) (s : State) : State :=
  let sp := o.spots s c
  let ts := o.traps c sp
  let as := if o.kind.shared && ts ≠ [] then [] else o.accs c sp
  let m := c.act &&& ~~~trapMask ts
  let t := o.txn c s m as
  let late := lateLanes s c t
  if late = 0 then memGo o c ts m as s
  else
    let s1 := (recordDeferred (s.allocate c) c.iss.warp t late).modIss c (fun w => w.loaded (c.g.mask &&& ~~~trapMask ts) (t.part late))
    memGo o c ts (m &&& ~~~late) (as.filter (fun a => !hasLane late a.lane)) s1

/-- A memory instruction. -/
def runMem (i : Instr) (s : State) : Out :=
  runOp i s fun c s =>
    match memOpOf i with
    | none => .next (s.done c)
    | some o =>
      if c.act = 0 then .next (s.done c)
      else
        match memBlock s c o with
        | some w => .next (suspend s c (.unissued w) w w)
        | none => .next (memIssue o c s)

def execLd (h : Hd) (r : BitVec 8) (z : Size) (q : MemQ) (b : BitVec 4) (off : Src) (imm : BitVec 12) (s : State) : Out :=
  runMem (.ld h r z q b off imm) s
def execSt (h : Hd) (z : Size) (q : MemQ) (b : BitVec 4) (off x : Src) (imm : BitVec 12) (s : State) : Out :=
  runMem (.st h z q b off x imm) s
def execLdx (h : Hd) (r : BitVec 8) (z : Size) (q : MemQ) (a : Src) (imm : BitVec 12) (s : State) : Out :=
  runMem (.ldx h r z q a imm) s
def execStx (h : Hd) (z : Size) (q : MemQ) (a x : Src) (imm : BitVec 12) (s : State) : Out :=
  runMem (.stx h z q a x imm) s
def execLds (h : Hd) (r : BitVec 8) (z : Size) (q : MemQ) (bd : BeadL) (off : Src) (imm : BitVec 12) (s : State) : Out :=
  runMem (.lds h r z q bd off imm) s
def execSts (h : Hd) (z : Size) (q : MemQ) (fill : Bool) (off x : Src) (imm : BitVec 12) (s : State) : Out :=
  runMem (.sts h z q fill off x imm) s
def execLdcl (h : Hd) (r : BitVec 8) (z : Size) (q : MemQ) (cw : Src) (imm : BitVec 12) (s : State) : Out :=
  runMem (.ldcl h r z q cw imm) s
def execStcl (h : Hd) (z : Size) (q : MemQ) (cw x : Src) (imm : BitVec 12) (s : State) : Out :=
  runMem (.stcl h z q cw x imm) s
def execLdrec (h : Hd) (q : MemQ) (b : BitVec 4) (a : Src) (imm : BitVec 12) (s : State) : Out :=
  runMem (.ldrec h q b a imm) s
def execMonitor (h : Hd) (dom : Dom) (scope : Scope) (a : Src) (imm : BitVec 12) (s : State) : Out :=
  runMem (.monitor h dom scope a imm) s

/-! ### Beads -/

/-- The window offset that BSET, BCLR and BTEST name (R201); none outside the window. -/
def beadOff (s : State) (c : Cx) (off : Src) (imm : BitVec 12) (l : Nat) : Option Nat :=
  let o : Int := (src32 c off l : Nat) + imm12 imm 16
  if o < 0 || ((s.block c.w.block).size : Int) ≤ o then none else some o.toNat

/-- The granule that BSET, BCLR and BTEST name (R201); none outside the window. -/
def beadOf (s : State) (c : Cx) (off : Src) (imm : BitVec 12) (l : Nat) : Option Nat :=
  (beadOff s c off imm l).map (fun o => ((s.block c.w.block).base + o) / 16)

/-- Lanes whose bead offset lies outside the window trap (R201). -/
def beadTraps (s : State) (c : Cx) (off : Src) (imm : BitVec 12) : Traps :=
  ((lanesOf c.act).filter (fun l => (beadOf s c off imm l).isNone)).map (fun l => (l, .range))

/-- The window offsets that the active lanes name. -/
def beadVals (s : State) (c : Cx) (off : Src) (imm : BitVec 12) : List (Nat × Nat) :=
  (lanesOf c.act).filterMap (fun l => (beadOff s c off imm l).map (fun o => (l, o)))

/-- The beads at window offsets take a value. -/
def putBeads (v : Bool) (vals : List (Nat × Nat)) (c : Cx) (s : State) : State :=
  let base := (s.block c.w.block).base
  s.modCore c.w.core (fun k => vals.foldl (fun k x => beadPut k ((base + x.2) / 16) v) k)

/-- BSET's effect on the beads that its lanes named when it issued. -/
def bsetAct (c : Cx) (x : Args) (s : State) : State := putBeads true x.vals c s

/-- What a release for the lanes' scratchpad stores (R200, R244) comes to: it waits for them, and then acts. -/
def releaseStep (act : Cx → Args → State → State) (c : Cx) (a : Args) (s : State) : Prog :=
  if storesAway s c.w c.act then .wait .memory s else .done (act c a s)

/-- An instruction that releases the lanes' scratchpad stores acts once they are performed; lanes of `ts` trap when it
issues (R200, R244, R318, log 70). -/
def runRelease (c : Cx) (ts : Traps) (a : Args) (act : Cx → Args → State → State) (s : State) : State :=
  let c1 := { c with act := c.act &&& ~~~trapMask ts }
  match releaseStep act c1 a s with
  | .done s1 => s1.finish c ts
  | .trap k => s.trapAll c k
  | .part _ why s1 | .wait why s1 =>
    suspendKeep (takeTrap (s1.allocate c) c.iss.warp c.g.pos c.iss.f 0 ts) c1 why { a with whole := ts.isEmpty && c.g.mask == c.w.live }

def execBset (h : Hd) (off : Src) (imm : BitVec 12) (s : State) : Out :=
  runOp (.bset h off imm) s fun c s =>
    .next (runRelease c (beadTraps s c off imm) { vals := beadVals s c off imm } bsetAct (takePort s c (0, 0)))
def execBclr (h : Hd) (off : Src) (imm : BitVec 12) (s : State) : Out :=
  runOp (.bclr h off imm) s fun c s =>
    .next ((putBeads false (beadVals s c off imm) c (takePort s c (0, 0))).finish c (beadTraps s c off imm))
def execBtest (h : Hd) (d : Dv) (off : Src) (imm : BitVec 12) (s : State) : Out :=
  runOp (.btest h d off imm) s fun c s =>
    let vs := (lanesOf c.act).filterMap (fun l => (beadOf s c off imm l).map (fun g => (l, (beadGet (s.core c.w.core) g).toNat)))
    .next ((writeRes c none 1 vs (takePort s c (0, 0))).finish c (beadTraps s c off imm))

/-! ### Prefetch -/

/-- The traps of PREF (R206), on all active lanes. -/
def prefTrap (s : State) (c : Cx) (b : BitVec 4) (bar : Option Src) : Option Kind :=
  if nbits (c.rf.brec b.toNat).toNat 63 56 = 0xFE then some .illegal
  else
    match bar with
    | none => none
    | some off =>
      let o := src32 c off (lowLane c.act)
      if o % 16 ≠ 0 then some .misalign
      else if (s.block c.w.block).size < o + 16 then some .range else none

def execPref (h : Hd) (mlc : Bool) (pol : Pol) (b : BitVec 4) (bar : Option Src) (s : State) : Out :=
  runOp (.pref h mlc pol b bar) s fun c s =>
    let s0 := takePort s c (0, 0)
    if c.act = 0 then .next (s0.done c)
    else
      match prefTrap s c b bar with
      | some k => .next (s0.trapAll c k)
      | none =>
        let r := c.rf.brec b.toNat
        let p : Pref := ⟨(s.block c.w.block).ctx, dieOf c.w.core, mlc, recPol pol r, r.toNat % 2 ^ 64, nbits r.toNat 103 64, c.w.block, bar.map (fun o => src32 c o (lowLane c.act)), 0⟩
        .next ((if p.left = 0 then s0 else s0.modCore c.w.core (fun k => { k with prefs := k.prefs ++ [p] })).done c)

/-- What is left of ranges [lo, hi) when [a, b) is taken out. -/
def cutRange (a b : Nat) (rs : List (Nat × Nat)) : List (Nat × Nat) :=
  rs.flatMap (fun r => [(r.1, min r.2 a), (max r.1 b, r.2)].filter (fun x => x.1 < x.2))

/-- The intermediate addresses [lo, hi) of a range of virtual addresses (R207): each address goes through the lowest-numbered
window that holds it (R448). -/
def rangeIas (c : Ctx) (va n : Nat) : List (Nat × Nat) :=
  let top := if va < 2 ^ 56 then 2 ^ 56 else 2 ^ 57
  ((List.range 8).foldl (fun (p : List (Nat × Nat) × List (Nat × Nat)) i =>
    let w := c.win.getD i 0
    let lo := nbits w.toNat 40 0 * 65536
    let hi := (nbits w.toNat 81 41 + 1) * 65536
    if w.getLsbD 126 && lo < hi then
      (cutRange lo hi p.1, p.2 ++ (p.1.map (fun r => (max r.1 lo, min r.2 hi))).filterMap (fun r =>
        if r.1 < r.2 then some (windowIa w r.1, windowIa w r.1 + (r.2 - r.1)) else none))
    else p) ([(va % 2 ^ 57, min (va % 2 ^ 57 + n) top)], [])).2

/-- PREF.DEMOTE (R207): the record's range in the issuing die's L2 and in the MLCs, by IA. -/
def execPrefDemote (h : Hd) (b : BitVec 4) (s : State) : Out :=
  runOp (.prefDemote h b) s fun c s =>
    let s0 := takePort s c (0, 0)
    let r := c.rf.brec b.toNat
    let base := r.toNat % 2 ^ 64
    let x := nbits r.toNat 103 64
    let dem := fun (t : CacheT) => (rangeIas (s.ctx (s.block c.w.block).ctx) base x).foldl (fun t r => t.demote (r.1 / 128) ((r.2 - 1) / 128)) t
    if c.act = 0 || x = 0 || !canonical base then .next (s0.done c)
    else
      let s1 := s0.modDie (dieOf c.w.core) (fun d => { d with l2 := dem d.l2 })
      .next ((({ s1 with dies := s1.dies.map (fun d => { d with mlc := dem d.mlc }) } : State)).done c)

/-! ### Fences and bridges -/

/-- Narrow stores that a fence or bridge performs in the core are covered, and stand at its scope (R209, R393, R394); one of RC
covers the RC writes that other warps of the core hold, which its lanes may have seen (R387; log 15). -/
def coverStores (s : State) (core wid : Nat) (d : Dom) (scope : Scope) (m : LMask) : State :=
  let wider := fun (t : Txn) => if scopeCode t.scope < scopeCode scope then scope else t.scope
  let own := fun (t : Txn) => if t.dom == d && t.kind.writes && (t.mask &&& m) != 0 then { t with publish := true, scope := wider t } else t
  let other := fun (t : Txn) => if d == .rc && t.dom == .rc && t.kind.writes && narrow t.scope then { t with publish := true } else t
  { s with warps := s.warps.map (fun v => if v.core = core then { v with txns := v.txns.map (if v.id = wid then own else other) } else v) }

/-- Invalidates the filters of RC and BULK; the other domains' filters are empty (R366). -/
def invalidateDom (s : State) (core : Nat) (d : Dom) : State :=
  if d == .rc || d == .bulk then invalidateFilter s core d else s

/-- A fence or bridge with its release and acquire parts (R208, R209): `inv` is the domain whose filter is
invalidated, `dst` the domain whose later accesses it orders. Where it is deferred it takes a record (R197). -/
def fenceOp (i : Instr) (rel acq inv : Option Dom) (dst : Dom) (scope : Scope) (s : State) : Out :=
  runOp i s fun c s =>
    let s0 := takePort s c (0, 0)
    if c.act = 0 then .next (s0.done c)
    else
      match fenceBlock s c rel acq dst scope with
      | some w => .next (suspend s c (.unissued w) w w)
      | none =>
        let late := fenceLate s c rel acq
        let s1 := match rel with
          | some d => coverStores s0 c.iss.core c.iss.warp d scope c.act
          | none => s0
        let s2 := match inv with
          | some d => if c.act &&& ~~~late = 0 then s1 else invalidateDom s1 c.w.core d
          | none => s1
        let t : Txn :=
          { id := s.ctr, kind := .fence dst inv.isSome, f := c.iss.f, runId := c.g.runId, mask := late, dst := 0, nregs := 0,
            size := 1, dom := (rel <|> acq).getD dst, scope := scope, ord := .plain, pol := .dflt, accs := [], publish := false,
            drop := false }
        .next ((if late = 0 then s2 else recordDeferred s2 c.iss.warp t late).done c)

def execFence (h : Hd) (dom : Dom) (scope : Scope) (ord : Ord) (s : State) : Out :=
  fenceOp (.fence h dom scope ord) (if ordRel ord then some dom else none) (if ordAcq ord then some dom else none)
    (if ordAcq ord then some dom else none) dom scope s
def execBridge (h : Hd) (d1 d2 : Dom) (scope : Scope) (s : State) : Out :=
  fenceOp (.bridge h d1 d2 scope) (some d1) none (some d2) d2 scope s

/-! ### Monitors -/

/-- MWAIT ends (R212): it writes v in the lanes, disarms the monitor, and the subgroup goes on. -/
def mwaitEnd (s : State) (wid gid : Nat) (f : Fetched) (act : LMask) (q : Option Nat) (lt : Nat) (v : Bool) : State :=
  (s.modWarp wid (fun w =>
    let w1 := w.latchLanes s.ctr lt 1 ((lanesOf act).map (fun l => (l, v.toNat)))
    let rf := match q with | some q => w1.rf.setPred q act (if v then act else 0) | none => w1.rf
    ({ w1 with rf := rf, mon := { w1.mon with armed := false, hit := false } }).advance s.ctr gid f)).bump

/-- MWAIT (R212, R467). -/
def execMwait (h : Hd) (d : Dv) (limit : Src) (s : State) : Out :=
  runOp (.mwait h d limit) s fun c s =>
    let s0 := takePort s c (0, 0)
    if c.act = 0 then .next (s0.done c)
    else if !c.w.mon.armed then .next ((writeRes c none 1 ((lanesOf c.act).map (fun l => (l, 0))) s0).done c)
    else if c.w.mon.hit then
      let s1 := s0.modIss c (fun w => { w with mon := { w.mon with armed := false, hit := false } })
      .next ((writeRes c none 1 ((lanesOf c.act).map (fun l => (l, 1))) s1).done c)
    else
      let lim := src32 c limit (lowLane c.act)
      .next (suspendIssued s0 c [] (.mwait c.act (if lim = 0 then 0 else s.time + lim)) .barrier)

/-! ### Address conversion and tests -/

/-- Offset bits of a space (R183). -/
def apMask : Nat → Nat
  | 0 => 0xFFFF
  | 1 => 0x1FFFFF
  | 2 => 0x707FFFF
  | _ => 0x3FFFFFF

/-- ACVT.TOGEN (R213). -/
def toGen (space off : Nat) : Nat :=
  if off &&& apMask space = off then 0xFE * 2 ^ 56 + space * 2 ^ 52 + off else 0xFEF0000000000000

/-- An aperture address of a space with every must-be-zero bit 0 (R213, R214). -/
def inAperture (space a : Nat) : Bool :=
  nbits a 63 56 == 0xFE && nbits a 55 52 == space && (a % 2 ^ 52) &&& apMask space == a % 2 ^ 52

/-- ACVT.FROMGEN (R213). -/
def fromGen (space a : Nat) : Nat := if inAperture space a then a % 2 ^ 52 else 0xFFFFFFFF

/-- ATEST (R214). -/
def atestVal (c : Ctx) (code a : Nat) : Bool :=
  if code ≤ 3 then inAperture code a
  else if code = 4 then canonical a
  else canonical a && (match findWindow c.win a with | some i => winR (c.win.getD i 0) | none => false)

def execAcvtTogen (h : Hd) (d : Dv) (space : BitVec 2) (off : Src) (s : State) : Out :=
  runLanes (.acvtTogen h d space off) s none 2 fun c l => ⟨toGen space.toNat (src32 c off l), 0⟩
def execAcvtFromgen (h : Hd) (d : Dv) (space : BitVec 2) (addr : Src) (s : State) : Out :=
  runLanes (.acvtFromgen h d space addr) s none 1 fun c l => ⟨fromGen space.toNat (src64 c addr l), 0⟩
def execAtest (h : Hd) (d : Dv) (space : BitVec 3) (addr : Src) (s : State) : Out :=
  runLanes (.atest h d space addr) s none 1 fun c l =>
    ⟨(atestVal (s.ctx (s.block c.w.block).ctx) space.toNat (src64 c addr l)).toNat, 0⟩

end Sys2Proof.Machine
end

