-- ==== Sys2Proof/Machine/Atomics.lean ====
section
/-! DEFINITION. Atomics and reductions (R202 to R204). -/

namespace Sys2Proof.Machine

def execAtom (h : Hd) (r : BitVec 8) (op : AOp) (wide : Bool) (q : MemQ) (am : AMode) (b : BitVec 4)
    (addr dat : Src) (imm : BitVec 12) (s : State) : Out :=
  runMem (.atom h r op wide q am b addr dat imm) s
def execRed (h : Hd) (op : AOp) (wide : Bool) (q : MemQ) (am : AMode) (b : BitVec 4)
    (addr dat : Src) (imm : BitVec 12) (s : State) : Out :=
  runMem (.red h op wide q am b addr dat imm) s

end Sys2Proof.Machine
end

