-- ==== Sys2Proof/Machine/Control.lean ====
section
/-! DEFINITION. Control instructions (R144 to R155): branches, calls, join barriers, EXIT, NOP, YIELD, VPOINT. -/

namespace Sys2Proof.Machine

/-- A branch offset, sign-extended (R145). -/
def off64 (off : W32) : W64 := off.signExtend 64

/-- Active lanes whose target is odd (R145). -/
def oddLanes (c : Cx) (tgt : Nat → W64) : LMask := maskOf (fun l => hasLane c.act l && (tgt l).getLsbD 0)

/-- The active lanes go to their targets and the others on; lanes with an odd target trap (R145). A
lane with a reported fault stops at its new PC (R147). -/
def State.goTo (s : State) (c : Cx) (tgt : Nat → W64) : State :=
  let bad := oddLanes c tgt
  let s1 := trapLanes s c bad .illegal
  let dest := fun l => if hasLane c.act l then tgt l else c.iss.f.next
  let s2 := s1.modIss c (fun w =>
    let w := if bad = 0 then { w with rf := freeLast c w.rf } else w
    let m := (w.group c.g.gid).mask
    (w.leave c.g.gid m).landAll s.ctr ((lanesOf m).map (fun l => (l, dest l))) (w.awaited c.g.runId))
  s2.bump.out (if bad = 0 then .issued else trapOut c bad)

/-- SIND in a lane. -/
def sind (c : Cx) (a : Src) (l : Nat) : W64 := BitVec.ofNat 64 (src64 c a l)

/-- CALL (R146): the return address goes to the destination of every lane that does not trap. -/
def callTo (c : Cx) (tgt : Nat → W64) (s : State) : State :=
  let ok := (lanesOf (c.act &&& ~~~oddLanes c tgt)).map (fun l => (l, c.iss.f.next.toNat))
  (writeRes c none 2 ok s).goTo c tgt

def execBra (h : Hd) (off : W32) (s : State) : Out :=
  runOp (.bra h off) s fun c s => .next (s.goTo c (fun _ => c.iss.f.pc + off64 off))
def execBrx (h : Hd) (off : W32) (a : Src) (s : State) : Out :=
  runOp (.brx h off a) s fun c s => .next (s.goTo c (fun l => sind c a l + off64 off))
def execCall (h : Hd) (d : Dv) (off : W32) (s : State) : Out :=
  runOp (.call h d off) s fun c s => .next (callTo c (fun _ => c.iss.f.pc + off64 off) s)
def execCallInd (h : Hd) (d : Dv) (off : W32) (a : Src) (s : State) : Out :=
  runOp (.callInd h d off a) s fun c s => .next (callTo c (fun l => sind c a l + off64 off) s)
def execRet (h : Hd) (a : Src) (s : State) : Out :=
  runOp (.ret h a) s fun c s => .next (s.goTo c (sind c a))

/-- JOIN.ARM on a barrier (R148). With no active lane it leaves a disarmed barrier as it is: the instruction executes in no lane
(R60), though its pseudocode, read alone, would arm the barrier for none (DESIGN CHOICE, log 82). -/
def JoinB.arm (b : JoinB) (act : LMask) : JoinB :=
  if b.armed then { b with expected := b.expected ||| act } else ⟨true, act, 0⟩
/-- JOIN.BREAK on a barrier (R148); the completion is evaluated at the cycle's end (R149). -/
def JoinB.break (b : JoinB) (act : LMask) : JoinB :=
  let e := b.expected &&& ~~~act
  if e = 0 then ⟨false, e, 0⟩ else { b with expected := e }

/-- Lanes of a subgroup leave it to wait at the instruction; one with a reported fault stops there
instead (R443, log 11). -/
def waitAt (s : State) (c : Cx) (m : LMask) (st : LaneSt) : State :=
  s.modIss c (fun w =>
    let stop := maskOf (fun l => hasLane m l && (w.thread l).stop)
    let w1 := (w.leave c.g.gid m).modLanes (m &&& ~~~stop) (fun _ t => { t with st := st })
    let w2 := w1.modLanes stop (fun _ t => { t with st := .memStopped c.iss.f.pc, stop := false })
    if stop = 0 then w1 else { w2 with parkDue := true })

/-- Lanes of a mask with no reported fault. -/
def runLanesOf (w : Warp) (m : LMask) : LMask := maskOf (fun l => hasLane m l && !(w.thread l).stop)

def execJoinArm (h : Hd) (j : BitVec 4) (s : State) : Out :=
  runOp (.joinArm h j) s fun c s =>
    .next ((s.modIss c (fun w => { w with joins := w.joins.modify j.toNat (fun b => if c.act = 0 then b else b.arm c.act) })).done c)
/-- JOIN.WAIT (R148). Its completion is evaluated once, at the end of the cycle (R149). -/
def execJoinWait (h : Hd) (j : BitVec 4) (s : State) : Out :=
  runOp (.joinWait h j) s fun c s =>
    let b := c.w.joins.getD j.toNat default
    if !b.armed then .next (s.done c)
    else
      let bad := c.act &&& ~~~b.expected
      let go := c.act &&& b.expected
      let s1 := s.modIss c (fun w => { w with joins := w.joins.modify j.toNat (fun b => { b with arrived := b.arrived ||| runLanesOf w go }) })
      let s2 := trapLanes (waitAt s1 c go (.atJoin j.toNat c.iss.f.pc)) c bad .illegal
      let s3 := if bad = 0 then s2.done c else s2.doneTrap c bad
      .next (if go = 0 then s3 else s3.out (.suspended .barrier .issued))
def execJoinBreak (h : Hd) (j : BitVec 4) (s : State) : Out :=
  runOp (.joinBreak h j) s fun c s =>
    .next ((s.modIss c (fun w => { w with joins := w.joins.modify j.toNat (fun b => if c.act = 0 then b else b.break c.act) })).done c)

/-- EXIT takes effect (R151, R152): lanes with a reported fault stop at it, the others exit, and lanes
whose guard did not hold go on. -/
def exitDone (s : State) (wid gid : Nat) (f : Fetched) (act : LMask) : State :=
  let stop := maskOf (fun l => hasLane act l && ((s.warp wid).thread l).stop)
  let s1 := s.modWarp wid (fun w =>
    let w1 := (w.leave gid act).modLanes stop (fun _ t => { t with st := .memStopped f.pc, stop := false })
    let w2 := if stop = 0 then w1 else { w1 with parkDue := true }
    w2.advance s.ctr gid f)
  exitLanes s1.bump wid (act &&& ~~~stop)

/-- EXIT (R151, R152); at trap depth 1 it refuses the trap (R441). -/
def execExit (h : Hd) (s : State) : Out :=
  runOp (.exit h) s fun c s =>
    if c.act = 0 then .next (s.done c)
    else if c.w.deep &&& c.act ≠ 0 then
      .next ((killBlock s c.w.block ⟨kindCode .refused, c.act, c.iss.f.pc, c.w.index * 32 + lowLane c.act⟩).out .issued)
    else if mayFault c.w c.act then .next (suspend s c (.issued .memory c.act {}) .memory .issued)
    else .next ((exitDone s c.iss.warp c.g.gid c.iss.f c.act).out .issued)
def execNop (h : Hd) (s : State) : Out := runOp (.nop h) s fun c s => .next (s.done c)
def execYield (h : Hd) (s : State) : Out :=
  runOp (.yield h) s fun c s => .next ((s.modIss c (fun w => { w with yielded := true })).done c)

/-- The switch-point entry of variant k for number n (R287). -/
def switchEntry (l : Launch) (k n : Nat) : Option (BitVec 512) :=
  ((l.tables.getD []).find? (fun x => x.1 == k && nbits x.2.toNat 5 0 == n)).map (·.2)

/-- The number of the rendezvous that a block has open. -/
def Vp.num : Vp → Option Nat
  | .none => Option.none
  | .opened n | .joinsDone n | .moving n _ _ | .moved n _ => some n

/-- VPOINT (R154, R155). -/
def execVpoint (h : Hd) (n : BitVec 6) (s : State) : Out :=
  runOp (.vpoint h n) s fun c s =>
    let b := s.block c.w.block
    if c.act = 0 then .next (s.done c)
    else if switchEntry (s.launch b.launch) b.variant n.toNat = none || b.vp.num.any (· != n.toNat) || c.w.deep &&& c.act ≠ 0 then
      .next (s.trapAll c .illegal)
    else
      let s1 := s.modBlock c.w.block (fun b => if b.vp = .none then { b with vp := .opened n.toNat } else b)
      let s2 := (waitAt s1 c c.act (.atVpoint n.toNat c.iss.f.pc)).done c
      .next (s2.out (.suspended .barrier .issued))

end Sys2Proof.Machine
end

