-- ==== Sys2Proof/Machine/Special.lean ====
section
/-! DEFINITION. The special functions (R164, R165). Their approximations are free values (log 6) that stay
within the bounds of R164: a free candidate within its bound is the result, and a candidate outside it
gives way to the nearest FP32 value. Exact results are evaluated in fixed point with 512 fraction bits, of which more than 480
are right: no FP32 value stands nearer to the edge of a bound (log 6). -/

namespace Sys2Proof.Machine

/-- 1 in fixed point. -/
def fxOne : Int := 2 ^ 512
/-- A product in fixed point. -/
def fxMul (a b : Int) : Int := a * b / fxOne

/-- ln 2 in fixed point: the sum of 1 / (k 2^k). -/
def fxLn2 : Int := (List.range 512).foldl (fun r i => r + fxOne / (((i + 1) * 2 ^ (i + 1) : Nat) : Int)) 0
/-- e^x for a fixed-point x from 0 to 1. -/
def fxExp (x : Int) : Int :=
  ((List.range 128).foldl (fun (p : Int × Int) i =>
    let t := fxMul p.1 x / ((i + 1 : Nat) : Int)
    (t, p.2 + t)) (fxOne, fxOne)).2
/-- The arctangent of 1/k. -/
def fxAtanInv (k : Nat) : Int :=
  (List.range 120).foldl (fun r i =>
    let t := fxOne / ((k ^ (2 * i + 1) * (2 * i + 1) : Nat) : Int)
    if i % 2 = 0 then r + t else r - t) 0
/-- π. -/
def fxPi : Int := 16 * fxAtanInv 5 - 4 * fxAtanInv 239
/-- The sum t − t x² / ((k+1)(k+2)) + … of sine (k = 1, t = x) or cosine (k = 0, t = 1). -/
def fxTrig (x t : Int) (k : Nat) : Int :=
  ((List.range 110).foldl (fun (p : Int × Int) i =>
    let d : Nat := (k + 2 * i + 1) * (k + 2 * i + 2)
    let u := -(fxMul (fxMul p.1 x) x / (d : Int))
    (u, p.2 + u)) (t, t)).2
/-- The binary logarithm of a fixed-point value from 1 to 2, bit by bit. -/
def fxLog2 (m : Int) : Int :=
  ((List.range 506).foldl (fun (p : Int × Int × Int) _ =>
    let (x, w, r) := p
    let y := fxMul x x
    if 2 * fxOne ≤ y then (y / 2, w / 2, r + w) else (y, w / 2, r)) (m, fxOne / 2, 0)).2.2

/-- A signed fraction. -/
structure Frac where
  num : Int
  den : Nat
  deriving DecidableEq, Repr, Inhabited

/-- The value of a special function at ± n / d, by opcode (R158, R164). -/
def sfuExact (opc : Nat) (neg : Bool) (n d : Nat) : Frac :=
  let a : Int := if neg then -(n : Int) else n
  match opc with
  | 0x110 => ⟨if neg then -(d : Int) else d, n⟩
  | 0x112 => match sqrtNum d n with
    | .fin _ p q => ⟨p, q⟩
    | _ => ⟨0, 1⟩
  | 0x113 =>
    let k := a / (d : Int)
    let y := fxExp (fxMul ((a % (d : Int)) * fxOne / (d : Int)) fxLn2)
    if 0 ≤ k then ⟨y * 2 ^ k.toNat, 2 ^ 512⟩ else ⟨y, 2 ^ (512 + (-k).toNat)⟩
  | 0x114 =>
    let e := log2Frac n d
    let m : Int := if 0 ≤ e then (n : Int) * fxOne / ((d * 2 ^ e.toNat : Nat) : Int)
      else ((n * 2 ^ (-e).toNat : Nat) : Int) * fxOne / (d : Int)
    ⟨e * fxOne + fxLog2 m, 2 ^ 512⟩
  | 0x115 => ⟨let x := a * fxOne / (d : Int) % (2 * fxPi); fxTrig x x 1, 2 ^ 512⟩
  | 0x116 => ⟨fxTrig (a * fxOne / (d : Int) % (2 * fxPi)) fxOne 0, 2 ^ 512⟩
  | _ =>
    let e := (List.range 6).foldl (fun e _ => fxMul e e) (fxExp ((n : Int) * fxOne / ((32 * d : Nat) : Int)))
    ⟨if neg then fxOne - e else e - fxOne, (e + fxOne).toNat⟩

/-- ulp(y) of R164 as a fraction. -/
def ulpOf (y : Frac) : Nat × Nat :=
  let e := if y.num = 0 then -200 else log2Frac y.num.natAbs y.den
  if e < -126 then (1, 2 ^ 149) else if 0 ≤ e - 23 then (2 ^ (e - 23).toNat, 1) else (1, 2 ^ (23 - e).toNat)

/-- The bound of R164 at ± n / d with the exact result y. -/
def sfuBound (opc n d : Nat) (y : Frac) : Nat × Nat :=
  match opc with
  | 0x110 => ulpOf y
  | 0x112 | 0x113 => (2 * (ulpOf y).1, (ulpOf y).2)
  | 0x114 => if d ≤ 2 * n && n ≤ 2 * d then (1, 2 ^ 22) else (2 * (ulpOf y).1, (ulpOf y).2)
  | _ => (1, 2 ^ 21)

/-- A candidate lies within a bound of y. -/
def sfuNear (cand : Nat) (y : Frac) (b : Nat × Nat) : Bool :=
  match decodeBin .f32 cand with
  | .fin neg n d =>
    let x : Int := if neg then -(n : Int) else n
    decide ((x * (y.den : Int) - y.num * (d : Int)).natAbs * b.2 ≤ b.1 * (d * y.den))
  | _ => false

/-- The exact cases of R164 for a finite nonzero input. -/
def sfuCase (opc : Nat) (neg : Bool) (n d : Nat) : Option Num :=
  let e := log2Frac n d
  let pow := scaled false 1 e == Num.fin false (if 0 ≤ e then 2 ^ e.toNat else 1) (if 0 ≤ e then 1 else 2 ^ (-e).toNat)
    && (if 0 ≤ e then n == d * 2 ^ e.toNat else n * 2 ^ (-e).toNat == d)
  match opc with
  | 0x110 => if pow then some (scaled neg 1 (-e)) else none
  | 0x112 => if pow && e % 2 == 0 then some (scaled false 1 (-(e / 2))) else none
  | 0x113 => if n % d = 0 && (if neg then n / d ≤ 149 else n / d ≤ 127) then
      some (scaled false 1 (if neg then -((n / d : Nat) : Int) else (n / d : Nat))) else none
  | 0x114 => if pow then some (.fin (e < 0) e.natAbs 1) else none
  | 0x117 => if 10 * d ≤ n then some (.fin neg 1 1) else none
  | _ => none

/-- The table of R165 for zeros and infinities: row 0 +0, 1 −0, 2 +∞, 3 −∞. -/
def sfuTable (opc row : Nat) : Nat × Nat :=
  let pinf := infBits .f32 false
  let ninf := infBits .f32 true
  let one := 0x3F800000
  let bad := (canonNan .f32, 1)
  let t := match opc with
    | 0x110 => [(pinf, 2), (ninf, 2), (0, 0), (0x80000000, 0)]
    | 0x112 => [(pinf, 2), (ninf, 2), (0, 0), bad]
    | 0x113 => [(one, 0), (one, 0), (pinf, 0), (0, 0)]
    | 0x114 => [(ninf, 2), (ninf, 2), (pinf, 0), bad]
    | 0x115 => [(0, 0), (0x80000000, 0), bad, bad]
    | 0x116 => [(one, 0), (one, 0), bad, bad]
    | _ => [(0, 0), (0x80000000, 0), (one, 0), (0xBF800000, 0)]
  t.getD row bad

/-- A result below 2^−126 is tiny: it sets UF and IX unless it is an exact case, and is flushed under
FTZS (R164). -/
def sfuTiny (ftz exact yTiny : Bool) (r : Nat) : Nat × Nat :=
  let m := r % 2 ^ 31
  let tiny := if m = 0 then yTiny else decide (m < 0x00800000)
  if !tiny then (r, 0)
  else if ftz then (r / 2 ^ 31 * 2 ^ 31, 24)
  else (r, if exact then 0 else 24)

/-- A special function's result and flags (R164, R165). -/
def sfuVal (opc fpctl x : Nat) : Nat × Nat :=
  let ftz := ftzOf .f32 fpctl
  let xb := flushIn .f32 fpctl x
  match decodeBin .f32 xb with
  | .nan neg sig f m => roundNum .f32 .rn false false (dnanOf fpctl) (.nan neg sig f m)
  | .inf neg => sfuTable opc (2 + neg.toNat)
  | .fin neg 0 _ => sfuTable opc neg.toNat
  | .fin neg n d =>
    if neg && (opc == 0x112 || opc == 0x114) then (canonNan .f32, 1)
    else if opc == 0x110 && 2 ^ 128 * n ≤ d then (infBits .f32 neg, 20)
    else if opc == 0x113 && !neg && 128 * d ≤ n then (infBits .f32 false, 20)
    else
      match sfuCase opc neg n d with
      | some y => sfuTiny ftz true false (rne32 y)
      | none =>
        let big := (opc == 0x115 || opc == 0x116) && 2 ^ 20 * d ≤ n
        let far := opc == 0x113 && neg && 400 * d ≤ n
        let y := if big then ⟨0, 1⟩ else if far then ⟨1, 2 ^ 400⟩ else sfuExact opc neg n d
        let b := if big then (1, 1) else sfuBound opc n d y
        let cand := (Config.sfu opc (BitVec.ofNat 32 xb)).toNat
        let r := if sfuNear cand y b then cand else rne32 (.fin (y.num < 0) y.num.natAbs y.den)
        sfuTiny ftz false (!big && decide (y.num.natAbs * 2 ^ 126 < y.den)) r

/-- What FDIV, FSQRT and the special functions do behind the gate (R167, R342, R435): they hold the
special-function unit, and their results are on their way. Registers are allocated when some lane will
write. `per` is 2 for FDIV and FSQRT. With an exception enabled, the last reads are freed when the results are known not
to trap (R22). -/
def issueLong (c : Cx) (per : Nat) (rs : List (Nat × Res)) (s : State) : State :=
  if c.act = 0 then s.done c
  else
    let en := nbits c.rf.fpctl.toNat 10 6
    let occ := (laneCount c.act + 7) / 8 * per
    let writes := rs.any (fun x => enabledExc c.rf.fpctl.toNat x.2.flags == 0)
    let (uni, dst) := match c.p.dst with | .s r _ => (true, r) | .v r _ => (false, r) | _ => (false, 0)
    let lt := (c.p.lt.getD 0).toNat
    let r : Llr :=
      { id := s.ctr, gid := c.g.gid, runId := c.g.runId, f := c.iss.f, pos := c.g.pos, act := c.act,
        uni := uni && !c.p.d, exc := BitVec.ofNat 5 en, dst := dst, d := c.p.d, lt := lt, latch := c.act,
        vals := rs.map (fun x => (x.1, BitVec.ofNat 32 x.2.val, BitVec.ofNat 5 x.2.flags)),
        lats := (lanesOf c.act).map (fun l => (l, (c.w.thread l).lat)),
        frees := if en ≠ 0 && c.g.mask == c.w.live then c.p.lasts else [] }
    let s1 := if writes then s.allocate c else s
    let s2 := s1.modIss c (fun w => let w := w.unpendLatch c.g.runId lt c.act; { w with llr := w.llr ++ [r] })
    let s3 := s2.modQuad c.iss.core c.iss.quad (fun q => { q with sfuUntil := s.now c + occ })
    if en = 0 then s3.bump.done c else s3.bump.doneTrap c 0

/-- A long-latency instruction with one result per lane. -/
def runLong (i : Instr) (s : State) (per : Nat) (f : Cx → Nat → Res) : Out :=
  runOp i s (fun c s => .next (issueLong c per (laneResults c f) s))

/-- A special-function instruction. -/
def runSfu (i : Instr) (opc : Nat) (a : Src) (s : State) : Out :=
  runLong i s 1 fun c l =>
    let r := sfuVal opc c.rf.fpctl.toNat (srcVal c (some .f32) 1 a l)
    ⟨r.1, r.2⟩

def execFrcp (h : Hd) (d : Du) (a : Src) (s : State) : Out := runSfu (.frcp h d a) 0x110 a s
def execFrsq (h : Hd) (d : Du) (a : Src) (s : State) : Out := runSfu (.frsq h d a) 0x112 a s
def execFexp2 (h : Hd) (d : Du) (a : Src) (s : State) : Out := runSfu (.fexp2 h d a) 0x113 a s
def execFlog2 (h : Hd) (d : Du) (a : Src) (s : State) : Out := runSfu (.flog2 h d a) 0x114 a s
def execFsin (h : Hd) (d : Du) (a : Src) (s : State) : Out := runSfu (.fsin h d a) 0x115 a s
def execFcos (h : Hd) (d : Du) (a : Src) (s : State) : Out := runSfu (.fcos h d a) 0x116 a s
def execFtanh (h : Hd) (d : Du) (a : Src) (s : State) : Out := runSfu (.ftanh h d a) 0x117 a s

end Sys2Proof.Machine
end

