-- ==== Sys2Proof/Machine/Float.lean ====
section
/-! DEFINITION. Floating-point arithmetic and comparison (R157 to R163, R166, R167). -/

namespace Sys2Proof.Machine

/-- The operations of R159. -/
inductive FOp
  | add | sub | mul | mac | div | sqrt
  deriving DecidableEq, Repr, Inhabited

/-- Element e of a floating operand (R157): an inline constant supplies every element. -/
def felem (c : Cx) (t : Ty) (a : Src) (e l : Nat) : Nat :=
  match a with
  | .k i => constVal (some t) i.toNat
  | _ => srcVal c none 1 a l / 2 ^ (tyBits t * e) % 2 ^ tyBits t

/-- The value with its sign changed. -/
def Num.negate : Num → Num
  | .nan s g f m => .nan s g f m
  | .inf s => .inf (!s)
  | .fin s n d => .fin (!s) n d

/-- The operands of an operation in source order. -/
def FOp.opds (op : FOp) (a b c : Num) : List Num :=
  match op with
  | .mac => [a, b, c]
  | .sqrt => [a]
  | _ => [a, b]

/-- The invalid cases of R159. -/
def fInvalid (op : FOp) (a b c : Num) : Bool :=
  let zi := (a.isZero && b.isInf) || (a.isInf && b.isZero)
  match op with
  | .add => a.isInf && b.isInf && a.neg != b.neg
  | .sub => a.isInf && b.isInf && a.neg == b.neg
  | .mul => zi
  | .mac => zi || (!a.isNan && !b.isNan && (a.isInf || b.isInf) && c.isInf && (a.neg != b.neg) != c.neg)
  | .div => (a.isZero && b.isZero) || (a.isInf && b.isInf)
  | .sqrt => !a.isNan && a.neg && !a.isZero

/-- The exact result of a valid operation on values that are no NaN (R159). -/
def fExact (op : FOp) (mode : RMode) (a b c : Num) : Num :=
  match op with
  | .add => addNum mode a b
  | .sub => addNum mode a b.negate
  | .mul => mulNum a b
  | .mac => addNum mode (mulNum a b) c
  | .div =>
    match a, b with
    | .fin sa na da, .fin sb nb db => .fin (sa != sb) (na * db) (da * nb)
    | .fin sa _ _, y => .fin (sa != y.neg) 0 1
    | x, y => .inf (x.neg != y.neg)
  | .sqrt =>
    match a with
    | .fin s 0 _ => .fin s 0 1
    | .fin _ n d => sqrtNum n d
    | x => x

/-- One element of R159: its bits and flags. -/
def fArith (op : FOp) (t : Ty) (mode : RMode) (fpctl : Nat) (a b c : Num) : Nat × Nat :=
  let sig := if (op.opds a b c).any (fun x => sigFlag x == 1) then 1 else 0
  if fInvalid op a b c then (canonNan t, 1)
  else
    match (op.opds a b c).find? Num.isNan with
    | some x => ((roundNum t mode false false (dnanOf fpctl) x).1, sig)
    | none =>
      if op == .div && b.isZero && !a.isInf then (infBits t (a.neg != b.neg), 2)
      else roundNum t mode false (ftzOf t fpctl) (dnanOf fpctl) (fExact op mode a b c)

/-- FMIN and FMAX on one element (R160). -/
def fMinMax (max : Bool) (t : Ty) (fpctl x y : Nat) : Nat × Nat :=
  let xb := flushIn t fpctl x
  let yb := flushIn t fpctl y
  let a := decodeBin t xb
  let b := decodeBin t yb
  let fl := if sigFlag a == 1 || sigFlag b == 1 then 1 else 0
  let less := numLt a b || (numEq a b && a.neg && !b.neg)
  (if a.isNan && b.isNan then (roundNum t .rn false false (dnanOf fpctl) a).1
    else if a.isNan then yb else if b.isNan then xb
    else if less != max then xb else yb, fl)

/-- Packs the elements of a result; flags join (R157, R166). -/
def packElems (t : Ty) (xs : List (Nat × Nat)) : Res :=
  xs.foldr (fun x r => ⟨x.1 + 2 ^ tyBits t * r.val, x.2 ||| r.flags⟩) ⟨0, 0⟩

/-- Elements of a form: one, or two in the F2 family. -/
def elemsOf (pair : Bool) : List Nat := if pair then [0, 1] else [0]

/-- The lane function of an R159 operation; the third operand reads as +0 where there is none. -/
def fLane (op : FOp) (t : Ty) (r : Rnd) (pair : Bool) (a : Src) (b : Nat → Nat → Nat) (e : Option Src) (c : Cx) (l : Nat) : Res :=
  let fp := c.rf.fpctl.toNat
  packElems t ((elemsOf pair).map (fun i =>
    fArith op t (rmode r fp) fp (readF t fp (felem c t a i l)) (readF t fp (b i l))
      (match e with | some x => readF t fp (felem c t x i l) | none => .fin false 0 1)))

def execFadd (h : Hd) (d : Du) (ty : Ty) (r : Rnd) (a b : Src) (s : State) : Out :=
  runLanes (.fadd h d ty r a b) s (some ty) 1 fun c => fLane .add ty r false a (felem c ty b) none c
def execFaddImm (h : Hd) (d : Du) (ty : Ty) (r : Rnd) (a : Src) (imm : W32) (s : State) : Out :=
  runLanes (.faddImm h d ty r a imm) s (some ty) 1 fun c => fLane .add ty r false a (fun _ _ => immF ty imm) none c
def execFsub (h : Hd) (d : Du) (ty : Ty) (r : Rnd) (a b : Src) (s : State) : Out :=
  runLanes (.fsub h d ty r a b) s (some ty) 1 fun c => fLane .sub ty r false a (felem c ty b) none c
def execFmul (h : Hd) (d : Du) (ty : Ty) (r : Rnd) (a b : Src) (s : State) : Out :=
  runLanes (.fmul h d ty r a b) s (some ty) 1 fun c => fLane .mul ty r false a (felem c ty b) none c
def execFmulImm (h : Hd) (d : Du) (ty : Ty) (r : Rnd) (a : Src) (imm : W32) (s : State) : Out :=
  runLanes (.fmulImm h d ty r a imm) s (some ty) 1 fun c => fLane .mul ty r false a (fun _ _ => immF ty imm) none c
def execFmac (h : Hd) (d : Du) (ty : Ty) (r : Rnd) (a b e : Src) (s : State) : Out :=
  runLanes (.fmac h d ty r a b e) s (some ty) 1 fun c => fLane .mac ty r false a (felem c ty b) (some e) c
def execFdiv (h : Hd) (d : Du) (ty : Ty) (r : Rnd) (a b : Src) (s : State) : Out :=
  runLong (.fdiv h d ty r a b) s 2 fun c => fLane .div ty r false a (felem c ty b) none c
def execFsqrt (h : Hd) (d : Du) (ty : Ty) (r : Rnd) (a : Src) (s : State) : Out :=
  runLong (.fsqrt h d ty r a) s 2 fun c => fLane .sqrt ty r false a (fun _ _ => 0) none c
def execF2add (h : Hd) (d : Du) (ty : Ty) (r : Rnd) (a b : Src) (s : State) : Out :=
  runLanes (.f2add h d ty r a b) s (some ty) 1 fun c => fLane .add ty r true a (felem c ty b) none c
def execF2mul (h : Hd) (d : Du) (ty : Ty) (r : Rnd) (a b : Src) (s : State) : Out :=
  runLanes (.f2mul h d ty r a b) s (some ty) 1 fun c => fLane .mul ty r true a (felem c ty b) none c
def execF2mac (h : Hd) (d : Du) (ty : Ty) (r : Rnd) (a b e : Src) (s : State) : Out :=
  runLanes (.f2mac h d ty r a b e) s (some ty) 1 fun c => fLane .mac ty r true a (felem c ty b) (some e) c

/-- The lane function of FMIN, FMAX and their F2 forms (R160). -/
def fmmLane (max : Bool) (t : Ty) (pair : Bool) (a : Src) (b : Nat → Nat → Nat) (c : Cx) (l : Nat) : Res :=
  packElems t ((elemsOf pair).map (fun i => fMinMax max t c.rf.fpctl.toNat (felem c t a i l) (b i l)))

def execFmin (h : Hd) (d : Du) (ty : Ty) (a b : Src) (s : State) : Out :=
  runLanes (.fmin h d ty a b) s (some ty) 1 fun c => fmmLane false ty false a (felem c ty b) c
def execFminImm (h : Hd) (d : Du) (ty : Ty) (a : Src) (imm : W32) (s : State) : Out :=
  runLanes (.fminImm h d ty a imm) s (some ty) 1 fun c => fmmLane false ty false a (fun _ _ => immF ty imm) c
def execFmax (h : Hd) (d : Du) (ty : Ty) (a b : Src) (s : State) : Out :=
  runLanes (.fmax h d ty a b) s (some ty) 1 fun c => fmmLane true ty false a (felem c ty b) c
def execFmaxImm (h : Hd) (d : Du) (ty : Ty) (a : Src) (imm : W32) (s : State) : Out :=
  runLanes (.fmaxImm h d ty a imm) s (some ty) 1 fun c => fmmLane true ty false a (fun _ _ => immF ty imm) c
def execF2min (h : Hd) (d : Du) (ty : Ty) (a b : Src) (s : State) : Out :=
  runLanes (.f2min h d ty a b) s (some ty) 1 fun c => fmmLane false ty true a (felem c ty b) c
def execF2max (h : Hd) (d : Du) (ty : Ty) (a b : Src) (s : State) : Out :=
  runLanes (.f2max h d ty a b) s (some ty) 1 fun c => fmmLane true ty true a (felem c ty b) c

/-- FABS and FNEG copy the bits with the sign cleared or inverted (R161). -/
def execFabs (h : Hd) (d : Du) (ty : Ty) (a : Src) (s : State) : Out :=
  runLanes (.fabs h d ty a) s (some ty) 1 fun c l => ⟨felem c ty a 0 l % 2 ^ (tyBits ty - 1), 0⟩
def execFneg (h : Hd) (d : Du) (ty : Ty) (a : Src) (s : State) : Out :=
  runLanes (.fneg h d ty a) s (some ty) 1 fun c l => ⟨(felem c ty a 0 l + 2 ^ (tyBits ty - 1)) % 2 ^ tyBits ty, 0⟩
def execFcmp (h : Hd) (d : Dv) (ty : Ty) (cmp : FCmp) (a b : Src) (s : State) : Out :=
  runLanes (.fcmp h d ty cmp a b) s none 1 fun c l =>
    let fp := c.rf.fpctl.toNat
    let x := readF ty fp (felem c ty a 0 l)
    let y := readF ty fp (felem c ty b 0 l)
    ⟨(fcmpHolds cmp x y).toNat, if sigFlag x == 1 || sigFlag y == 1 then 1 else 0⟩
def execFclass (h : Hd) (d : Du) (ty : Ty) (a : Src) (s : State) : Out :=
  runLanes (.fclass h d ty a) s (some .n32) 1 fun c l => ⟨2 ^ classBit ty (felem c ty a 0 l), 0⟩

end Sys2Proof.Machine
end

