-- ==== Sys2Proof/Machine/Integer.lean ====
section
/-! DEFINITION. Integer, logic and address instructions (R130 to R140). -/

namespace Sys2Proof.Machine

/-- The operations of R131 that share ZADD's form. -/
inductive ZOp
  | add | sub | min | max
  deriving DecidableEq, Repr, Inhabited

/-- Limits of an integer type. -/
def tyLo (t : Ty) : Int := if tySigned t then -((2 ^ (tyBits t - 1) : Nat) : Int) else 0
def tyHi (t : Ty) : Int :=
  if tySigned t then ((2 ^ (tyBits t - 1) : Nat) : Int) - 1 else ((2 ^ tyBits t : Nat) : Int) - 1

/-- ZADD, ZSUB, ZMIN and ZMAX (R131). -/
def zop (op : ZOp) (t : Ty) (sat : Bool) (a b : Int) : Nat :=
  let x := match op with
    | .add => a + b
    | .sub => a - b
    | .min => if a ≤ b then a else b
    | .max => if a ≤ b then b else a
  wrapI (if sat then clampI x (tyLo t) (tyHi t) else x) (tyBits t)

/-- ZMUL and ZMAC (R131): the part of the exact product that is kept, plus c. -/
def zmulPart (p : Part) (a b c : Int) : Nat :=
  match p with
  | .lw => wrapI (a * b + c) 32
  | .hw => wrapI ((a * b) / 2 ^ 32 + c) 32
  | .dw => wrapI (a * b + c) 64

/-- The type of ZMAC's c operand (R131). -/
def macTy (p : Part) (t : Ty) : Ty := if p = .dw then (if tySigned t then .s64 else .n64) else t
/-- Registers of a product's result. -/
def partRegs (p : Part) : Nat := if p = .dw then 2 else 1

/-- AADD (R131): wraps modulo 2^64. -/
def aaddVal (a : Nat) (b : Int) (sh : Nat) : Nat := wrapI ((a : Int) + b * 2 ^ sh) 64

/-- LTAB on one lane (R132, R73). -/
def ltabVal (tab a b c : Nat) : Nat :=
  (List.range 32).foldl (fun r i =>
    r + nbits tab (nbits a i i + 2 * nbits b i i + 4 * nbits c i i) (nbits a i i + 2 * nbits b i i + 4 * nbits c i i) * 2 ^ i) 0

/-- The shift count (R133). -/
def shCount (wrap : Bool) (w n : Nat) : Nat := if wrap then n % w else min n w

/-- SHL (R133). -/
def shlVal (t : Ty) (wrap : Bool) (a n : Nat) : Nat := a * 2 ^ shCount wrap (tyBits t) n % 2 ^ tyBits t
/-- SHR (R133): arithmetic for S types. -/
def shrVal (t : Ty) (wrap : Bool) (a : Int) (n : Nat) : Nat :=
  wrapI (a / ((2 ^ shCount wrap (tyBits t) n : Nat) : Int)) (tyBits t)
/-- SHF (R133). -/
def shfVal (right wrap : Bool) (a b c : Nat) : Nat :=
  let f := b * 2 ^ 32 + a
  let n := shCount wrap 32 c
  if right then f / 2 ^ n % 2 ^ 32 else f * 2 ^ n / 2 ^ 32 % 2 ^ 32

/-- BFE (R134). -/
def bfeVal (t : Ty) (a b : Nat) : Nat :=
  let p := b % 256
  let n := min (b / 256 % 256) 32
  let x : Int := if t = .s32 then sextN a 32 else a
  let f := wrapI (x / ((2 ^ p : Nat) : Int)) n
  if n = 0 then 0 else if t = .s32 then wrapI (sextN f n) 32 else f
/-- BFI (R134). -/
def bfiVal (a b c : Nat) : Nat :=
  let p := b % 256
  let n := min (b / 256 % 256) 32
  let m := (2 ^ n - 1) * 2 ^ p % 2 ^ 32
  (c &&& (2 ^ 32 - 1 - m)) ||| (a * 2 ^ p % 2 ^ 32 &&& m)

/-- POPC, CLZ, CTZ and BREV over w bits (R135). -/
def popcVal (w a : Nat) : Nat := ((List.range w).filter (fun i => nbits a i i == 1)).length
def clzVal (w a : Nat) : Nat := if a = 0 then w else w - 1 - Nat.log2 a
def ctzVal (w a : Nat) : Nat := ((List.range w).find? (fun i => nbits a i i == 1)).getD w
def brevVal (w a : Nat) : Nat := (List.range w).foldl (fun r i => r + nbits a i i * 2 ^ (w - 1 - i)) 0

/-- BYSEL (R136). -/
def byselVal (a b c : Nat) : Nat :=
  (List.range 4).foldl (fun r i =>
    let k := nbits b (4 * i + 3) (4 * i)
    let x := (a + c * 2 ^ 32) / 2 ^ (8 * (k % 8)) % 256
    r + (if 8 ≤ k then 0 else x) * 2 ^ (8 * i)) 0

def execZadd (h : Hd) (d : Du) (ty : Ty) (sat : Bool) (a b : Src) (s : State) : Out :=
  runLanes (.zadd h d ty sat a b) s (some ty) (tyRegs ty) fun c l => ⟨zop .add ty sat (srcInt c ty a l) (srcInt c ty b l), 0⟩
def execZaddImm (h : Hd) (d : Du) (ty : Ty) (sat : Bool) (a : Src) (imm : W32) (s : State) : Out :=
  runLanes (.zaddImm h d ty sat a imm) s (some ty) (tyRegs ty) fun c l => ⟨zop .add ty sat (srcInt c ty a l) (immInt ty imm), 0⟩
def execZsub (h : Hd) (d : Du) (ty : Ty) (sat : Bool) (a b : Src) (s : State) : Out :=
  runLanes (.zsub h d ty sat a b) s (some ty) (tyRegs ty) fun c l => ⟨zop .sub ty sat (srcInt c ty a l) (srcInt c ty b l), 0⟩
def execZmul (h : Hd) (d : Du) (ty : Ty) (p : Part) (a b : Src) (s : State) : Out :=
  runLanes (.zmul h d ty p a b) s (some ty) (partRegs p) fun c l => ⟨zmulPart p (srcInt c ty a l) (srcInt c ty b l) 0, 0⟩
def execZmulImm (h : Hd) (d : Du) (ty : Ty) (p : Part) (a : Src) (imm : W32) (s : State) : Out :=
  runLanes (.zmulImm h d ty p a imm) s (some ty) (partRegs p) fun c l => ⟨zmulPart p (srcInt c ty a l) (immInt ty imm) 0, 0⟩
def execZmac (h : Hd) (d : Du) (ty : Ty) (p : Part) (a b e : Src) (s : State) : Out :=
  runLanes (.zmac h d ty p a b e) s (some ty) (partRegs p) fun c l =>
    ⟨zmulPart p (srcInt c ty a l) (srcInt c ty b l) (srcInt c (macTy p ty) e l), 0⟩
def execZmin (h : Hd) (d : Du) (ty : Ty) (a b : Src) (s : State) : Out :=
  runLanes (.zmin h d ty a b) s (some ty) (tyRegs ty) fun c l => ⟨zop .min ty false (srcInt c ty a l) (srcInt c ty b l), 0⟩
def execZminImm (h : Hd) (d : Du) (ty : Ty) (a : Src) (imm : W32) (s : State) : Out :=
  runLanes (.zminImm h d ty a imm) s (some ty) (tyRegs ty) fun c l => ⟨zop .min ty false (srcInt c ty a l) (immInt ty imm), 0⟩
def execZmax (h : Hd) (d : Du) (ty : Ty) (a b : Src) (s : State) : Out :=
  runLanes (.zmax h d ty a b) s (some ty) (tyRegs ty) fun c l => ⟨zop .max ty false (srcInt c ty a l) (srcInt c ty b l), 0⟩
def execZmaxImm (h : Hd) (d : Du) (ty : Ty) (a : Src) (imm : W32) (s : State) : Out :=
  runLanes (.zmaxImm h d ty a imm) s (some ty) (tyRegs ty) fun c l => ⟨zop .max ty false (srcInt c ty a l) (immInt ty imm), 0⟩
def execAadd (h : Hd) (d : Du) (ty : Ty) (sh : BitVec 3) (a b : Src) (s : State) : Out :=
  runLanes (.aadd h d ty sh a b) s (some .n64) 2 fun c l => ⟨aaddVal (src64 c a l) (srcInt c ty b l) sh.toNat, 0⟩
def execAaddImm (h : Hd) (d : Du) (ty : Ty) (sh : BitVec 3) (a : Src) (imm : W32) (s : State) : Out :=
  runLanes (.aaddImm h d ty sh a imm) s (some .n64) 2 fun c l => ⟨aaddVal (src64 c a l) (immInt ty imm) sh.toNat, 0⟩
def execLtab (h : Hd) (d : Du) (tab : BitVec 8) (a b e : Src) (s : State) : Out :=
  runLanes (.ltab h d tab a b e) s (some .b32) 1 fun c l => ⟨ltabVal tab.toNat (src32 c a l) (src32 c b l) (src32 c e l), 0⟩
def execShl (h : Hd) (d : Du) (ty : Ty) (wrap : Bool) (a b : Src) (s : State) : Out :=
  runLanes (.shl h d ty wrap a b) s (some ty) (tyRegs ty) fun c l => ⟨shlVal ty wrap (srcVal c none (tyRegs ty) a l) (src32 c b l), 0⟩
def execShlImm (h : Hd) (d : Du) (ty : Ty) (wrap : Bool) (a : Src) (imm : W32) (s : State) : Out :=
  runLanes (.shlImm h d ty wrap a imm) s (some ty) (tyRegs ty) fun c l => ⟨shlVal ty wrap (srcVal c none (tyRegs ty) a l) imm.toNat, 0⟩
def execShr (h : Hd) (d : Du) (ty : Ty) (wrap : Bool) (a b : Src) (s : State) : Out :=
  runLanes (.shr h d ty wrap a b) s (some ty) (tyRegs ty) fun c l => ⟨shrVal ty wrap (srcInt c ty a l) (src32 c b l), 0⟩
def execShrImm (h : Hd) (d : Du) (ty : Ty) (wrap : Bool) (a : Src) (imm : W32) (s : State) : Out :=
  runLanes (.shrImm h d ty wrap a imm) s (some ty) (tyRegs ty) fun c l => ⟨shrVal ty wrap (srcInt c ty a l) imm.toNat, 0⟩
def execShf (h : Hd) (d : Du) (right wrap : Bool) (a b e : Src) (s : State) : Out :=
  runLanes (.shf h d right wrap a b e) s (some .b32) 1 fun c l => ⟨shfVal right wrap (src32 c a l) (src32 c b l) (src32 c e l), 0⟩
def execBfe (h : Hd) (d : Du) (ty : Ty) (a b : Src) (s : State) : Out :=
  runLanes (.bfe h d ty a b) s (some ty) 1 fun c l => ⟨bfeVal ty (src32 c a l) (src32 c b l), 0⟩
def execBfeImm (h : Hd) (d : Du) (ty : Ty) (a : Src) (imm : W32) (s : State) : Out :=
  runLanes (.bfeImm h d ty a imm) s (some ty) 1 fun c l => ⟨bfeVal ty (src32 c a l) imm.toNat, 0⟩
def execBfi (h : Hd) (d : Du) (a b e : Src) (s : State) : Out :=
  runLanes (.bfi h d a b e) s (some .b32) 1 fun c l => ⟨bfiVal (src32 c a l) (src32 c b l) (src32 c e l), 0⟩
def execPopc (h : Hd) (d : Du) (ty : Ty) (a : Src) (s : State) : Out :=
  runLanes (.popc h d ty a) s (some .n32) 1 fun c l => ⟨popcVal (tyBits ty) (srcVal c none (tyRegs ty) a l), 0⟩
def execClz (h : Hd) (d : Du) (ty : Ty) (a : Src) (s : State) : Out :=
  runLanes (.clz h d ty a) s (some .n32) 1 fun c l => ⟨clzVal (tyBits ty) (srcVal c none (tyRegs ty) a l), 0⟩
def execCtz (h : Hd) (d : Du) (ty : Ty) (a : Src) (s : State) : Out :=
  runLanes (.ctz h d ty a) s (some .n32) 1 fun c l => ⟨ctzVal (tyBits ty) (srcVal c none (tyRegs ty) a l), 0⟩
def execBrev (h : Hd) (d : Du) (ty : Ty) (a : Src) (s : State) : Out :=
  runLanes (.brev h d ty a) s (some ty) (tyRegs ty) fun c l => ⟨brevVal (tyBits ty) (srcVal c none (tyRegs ty) a l), 0⟩
def execBysel (h : Hd) (d : Du) (a b e : Src) (s : State) : Out :=
  runLanes (.bysel h d a b e) s (some .b32) 1 fun c l => ⟨byselVal (src32 c a l) (src32 c b l) (src32 c e l), 0⟩
def execByselImm (h : Hd) (d : Du) (a : Src) (imm : W32) (s : State) : Out :=
  runLanes (.byselImm h d a imm) s (some .b32) 1 fun c l => ⟨byselVal (src32 c a l) imm.toNat 0, 0⟩
def execZcmp (h : Hd) (d : Dv) (ty : Ty) (cmp : Cmp) (a b : Src) (s : State) : Out :=
  runLanes (.zcmp h d ty cmp a b) s none 1 fun c l => ⟨(cmpHolds cmp (srcInt c ty a l) (srcInt c ty b l)).toNat, 0⟩
def execZcmpImm (h : Hd) (d : Dv) (ty : Ty) (cmp : Cmp) (a : Src) (imm : W32) (s : State) : Out :=
  runLanes (.zcmpImm h d ty cmp a imm) s none 1 fun c l => ⟨(cmpHolds cmp (srcInt c ty a l) (immInt ty imm)).toNat, 0⟩
def execSel (h : Hd) (d : Du) (ty : Ty) (a b : Src) (p : PSrc) (s : State) : Out :=
  runLanes (.sel h d ty a b p) s (some ty) (tyRegs ty) fun c l =>
    ⟨srcVal c none (tyRegs ty) (if psrcVal c p l then a else b) l, 0⟩
def execMov (h : Hd) (d : Du) (ty : Ty) (a : Src) (s : State) : Out :=
  runLanes (.mov h d ty a) s (some ty) (tyRegs ty) fun c l => ⟨srcVal c none (tyRegs ty) a l, 0⟩
def execMovImm (h : Hd) (d : Du) (ty : Ty) (imm : W32) (s : State) : Out :=
  runLanes (.movImm h d ty imm) s (some ty) (tyRegs ty) fun _ _ => ⟨wrapI (immInt ty imm) (tyBits ty), 0⟩

end Sys2Proof.Machine
end

