-- ==== Sys2Proof/Machine/Convert.lean ====
section
/-! DEFINITION. Conversion, packing and format words (R169 to R179). -/

namespace Sys2Proof.Machine

/-- An element's exact value, read under FTZ. -/
def readElem (t : Ty) (fpctl x : Nat) : Num := if tyBin t then readF t fpctl x else decode t (x % 2 ^ tyBits t)

/-- CVT between two integer types (R116, R170). -/
def cvtInt (td : Ty) (satf : Bool) (x : Int) : Nat :=
  wrapI (if satf then clampI x (tyLo td) (tyHi td) else x) (tyBits td)

/-- CVT on one lane (R116, R170): an integer input sets no flag. -/
def cvtVal (td ts : Ty) (mode : RMode) (satf : Bool) (fpctl x : Nat) : Nat × Nat :=
  if tyInt ts then
    if tyInt td then (cvtInt td satf (intOf ts x), 0)
    else ((roundNum td mode satf (ftzOf td fpctl) (dnanOf fpctl) (decode ts x)).1, 0)
  else roundNum td mode satf (ftzOf td fpctl) (dnanOf fpctl) (readElem ts fpctl x)

/-- A narrow integer result extended to 32 bits (R170). -/
def narrowExt (t : Ty) (x : Nat) : Nat := if tySigned t && tyBits t < 32 then wrapI (sextN x (tyBits t)) 32 else x

/-- The type that a constant operand of a conversion is read at. -/
def cvtFt (t : Ty) : Option Ty := if tyInt t then none else some t

/-- The element of PCVT after its scale (R174); under 0xFF the operand goes, and a signalling one sets no IV (log 76). -/
def pcvtScale (td ts : Ty) (s : Nat) (x : Num) : Num :=
  let narrow := if tyWide td then ts else td
  let up := tyWide td
  if tyWide narrow then x
  else if narrow == .d8 then scale10 x (if up then sextN s 8 else -sextN s 8)
  else if s = 255 then .nan false false 0 0
  else scale2 x (if up then (s : Int) - 127 else 127 - (s : Int))

/-- The number of elements of PCVT. -/
def pcount : PCount → Nat
  | .two => 2
  | .four => 4
  | .eight => 8

/-- PCVT on one lane (R174). -/
def pcvtVal (td ts : Ty) (n : PCount) (mode : RMode) (satf : Bool) (fpctl x s : Nat) : Res :=
  packElems td ((List.range (pcount n)).map (fun i =>
    roundNum td mode satf (ftzOf td fpctl) (dnanOf fpctl)
      (pcvtScale td ts s (readElem ts fpctl (x / 2 ^ (i * tyBits ts) % 2 ^ tyBits ts)))))

/-- FRND (R175): no IX. -/
def frndVal (t : Ty) (mode : RMode) (fpctl x : Nat) : Nat × Nat :=
  match readF t fpctl x with
  | .fin neg n d => ((roundNum t mode false false true (.fin neg (roundInt mode neg n d).1 1)).1, 0)
  | y => roundNum t mode false false (dnanOf fpctl) y

/-- FLDEX (R175). A scale beyond ±600 gives what ±600 gives: every nonzero value of the three formats
over- or underflows alike. -/
def fldexVal (t : Ty) (mode : RMode) (fpctl x n : Nat) : Nat × Nat :=
  roundNum t mode false (ftzOf t fpctl) (dnanOf fpctl) (scale2 (readF t fpctl x) (clampI (sextN n 32) (-600) 600))

/-- Elements of PACK and UNPK. -/
def packVal (w a b : Nat) : Nat := b % 2 ^ w * 2 ^ w + a % 2 ^ w
def unpkVal (w : Nat) (sx : Bool) (a : Nat) : Nat :=
  let e := fun x => if sx then wrapI (sextN x w) 32 else x % 2 ^ w
  e a + 2 ^ 32 * e (a / 2 ^ w)

def execCvt (h : Hd) (d : Du) (td ts : Ty) (r : Rnd) (satf : Bool) (a : Src) (s : State) : Out :=
  runLanes (.cvt h d td ts r satf a) s (some td) (tyRegs td) fun c l =>
    let fp := c.rf.fpctl.toNat
    let x := cvtVal td ts (rmode r fp) satf fp (srcVal c (cvtFt ts) (tyRegs ts) a l)
    ⟨narrowExt td x.1, x.2⟩
def execPcvt (h : Hd) (d : Dv) (td ts : Ty) (n : PCount) (r : Rnd) (satf : Bool) (a sc : Src) (s : State) : Out :=
  runLanes (.pcvt h d td ts n r satf a sc) s none (pcvtRegs n td) fun c l =>
    let fp := c.rf.fpctl.toNat
    pcvtVal td ts n (rmode r fp) satf fp (srcVal c none (pcvtRegs n ts) a l) (src32 c sc l % 256)
/-- FMTW (R179): a lane with an illegal word traps, the others complete. -/
def execFmtw (h : Hd) (d : Du) (a : Src) (s : State) : Out :=
  runOp (.fmtw h d a) s fun c s =>
    let vs := (lanesOf c.act).map (fun l => (l, src32 c a l))
    let bad := (vs.filter (fun x => !fmtLegal x.2)).map (fun x => (x.1, Kind.illegal))
    .next ((writeRes c (some .b32) 1 (vs.filter (fun x => fmtLegal x.2)) s).finish c bad)
def execFmtwImm (h : Hd) (d : Du) (imm : W32) (s : State) : Out :=
  runLanes (.fmtwImm h d imm) s (some .b32) 1 fun _ _ => ⟨imm.toNat, 0⟩
def execPack (h : Hd) (d : Du) (ty : Ty) (a b : Src) (s : State) : Out :=
  runLanes (.pack h d ty a b) s (some ty) 1 fun c l => ⟨packVal (tyBits ty) (src32 c a l) (src32 c b l), 0⟩
def execUnpk (h : Hd) (d : Dv) (ty : Ty) (sx : Bool) (a : Src) (s : State) : Out :=
  runLanes (.unpk h d ty sx a) s none 2 fun c l => ⟨unpkVal (tyBits ty) sx (src32 c a l), 0⟩
def execFrnd (h : Hd) (d : Du) (ty : Ty) (r : Rnd) (a : Src) (s : State) : Out :=
  runLanes (.frnd h d ty r a) s (some ty) 1 fun c l =>
    let fp := c.rf.fpctl.toNat
    let x := frndVal ty (rmode r fp) fp (felem c ty a 0 l)
    ⟨x.1, x.2⟩
def execFldex (h : Hd) (d : Du) (ty : Ty) (r : Rnd) (a b : Src) (s : State) : Out :=
  runLanes (.fldex h d ty r a b) s (some ty) 1 fun c l =>
    let fp := c.rf.fpctl.toNat
    let x := fldexVal ty (rmode r fp) fp (felem c ty a 0 l) (src32 c b l)
    ⟨x.1, x.2⟩

end Sys2Proof.Machine
end

