-- ==== Sys2Proof/Machine/Array.lean ====
section
/-! DEFINITION. The arithmetic of the matrix array: operands (R104, R108, R118), a pass (R119), the accumulator
step (R120, R121), the deck's layout (R230, R414) and the conversion of ACCCVT (R234, R235). -/

namespace Sys2Proof.Machine

/-- Bits of an element of a format word's code (R177). -/
def elemBits (f : Nat) : Nat := if f ≤ 1 then 16 else if f = 4 then 4 else 8

/-- The type of a format word's code; INT8 is S8. -/
def elemTy (f : Nat) : Ty :=
  match f with
  | 0 => .f16
  | 1 => .bf16
  | 2 => .e4m3
  | 3 => .e5m2
  | 4 => .e2m1
  | 5 => .d8
  | _ => .s8

/-- A D8 operand of the array: its exact value to nearest even at 16 significant bits (R108). -/
def d8Array (x : Nat) : Num :=
  match decodeD8 x with
  | .fin neg n d =>
    if n = 0 then .fin false 0 1
    else
      let q := log2Frac n d - 15
      let (a, b) := inUnits n d q
      scaled neg (roundInt .rn false a b).1 q
  | y => y

/-- An E8M0 scale on an element (R104); under 0xFF an infinity is NaN, too (log 76). -/
def blockScale (x : Num) (s : Nat) : Num :=
  if s = 255 then .nan false false 0 0 else scale2 x ((s : Int) - 127)

/-- The exact value of an operand element (R118); the scale applies when the side has scales. -/
def elemVal (f x : Nat) (scale : Option Nat) : Num :=
  let v := if f = 5 then d8Array x else if f = 6 then decode .s8 x else decodeBin (elemTy f) x
  match scale with
  | some s => blockScale v s
  | none => v

/-- Element k of a row or column held as one number, low bytes first (R226). -/
def elemOf (f row k : Nat) : Nat := row / 2 ^ (elemBits f * k) % 2 ^ elemBits f

/-- The 256 values of a row or column; scale byte kb scales elements 32 kb to 32 kb + 31. -/
def elems (f row : Nat) (scales : Option Nat) : List Num :=
  (List.range 256).map (fun k => elemVal f (elemOf f row k) (scales.map (fun s => s / 2 ^ (8 * (k / 32)) % 256)))

/-- A product of a pass (R119): ∞ × 0 is NaN. -/
def prodNum (a b : Num) : Num :=
  if a.isNan || b.isNan || (a.isInf && b.isZero) || (a.isZero && b.isInf) then .nan false false 0 0 else mulNum a b

/-- A finite value truncated toward −∞ to a multiple of 2^q, in units of 2^q. -/
def floorUnits (x : Num) (q : Int) : Int :=
  match x with
  | .fin neg n d =>
    let (a, b) := inUnits n d q
    (if neg then -(a : Int) else a) / (b : Int)
  | _ => 0

/-- A pass sum: the FP32 result, invalid and overflow (R119). -/
structure PassRes where
  val : Nat
  inv : Bool
  ovf : Bool
  deriving DecidableEq, Repr, Inhabited

/-- `pass_sum` of R119 over the products. -/
def passSum (ps : List Num) : PassRes :=
  if ps.any (·.isNan) || (ps.any (fun p => p.isInf && p.neg) && ps.any (fun p => p.isInf && !p.neg)) then ⟨0x7FC00000, true, false⟩
  else if ps.any (·.isInf) then ⟨infBits .f32 (ps.any (fun p => p.isInf && p.neg)), false, false⟩
  else if ps.all (·.isZero) then ⟨0, false, false⟩
  else
    let es := ps.filterMap (fun p => match p with | .fin _ n d => if n = 0 then none else some (log2Frac n d) | _ => none)
    let u := es.foldl max (es.headD 0) - 60
    let t := (ps.map (floorUnits · u)).sum
    let r := rne32 (if t = 0 then .fin false 0 1 else scaled (t < 0) t.natAbs u)
    ⟨r, false, (decodeBin .f32 r).isInf⟩

/-- The accumulator step of R120: element c and pass r; invalid and overflow of the add. -/
def accumF (ovw : Bool) (c : Nat) (r : PassRes) : PassRes :=
  if ovw then r
  else
    let x := decodeBin .f32 c
    let y := decodeBin .f32 r.val
    if x.isNan || y.isNan || (x.isInf && y.isInf && x.neg != y.neg) then ⟨0x7FC00000, true, r.ovf⟩
    else
      let z := rne32 (addNum .rn x y)
      ⟨z, r.inv, r.ovf || (!x.isInf && !y.isInf && (decodeBin .f32 z).isInf)⟩

/-- The integer pass of R121: the S32 element and saturation. -/
def accumI (ovw : Bool) (c : Nat) (a b : List Num) : Nat × Bool :=
  let int := fun (x : Num) => match x with | .fin neg n _ => (if neg then -(n : Int) else n) | _ => 0
  let t := ((a.zip b).map (fun p => int p.1 * int p.2)).sum
  if ovw then (wrapI t 32, false)
  else
    let y := sextN c 32 + t
    let z := clampI y (-(2 ^ 31 : Nat)) ((2 ^ 31 : Nat) - 1)
    (wrapI z 32, decide (y ≠ z))

/-- One element of an operation (R227): its new value, and ACCSTAT's INV, OVF and SAT in bits 0 to 2. -/
def macElem (fw : Nat) (ovw : Bool) (c : Nat) (a b : List Num) : Nat × BitVec 3 :=
  if nbits fw 9 8 = 1 then
    let (v, sat) := accumI ovw c a b
    (v, if sat then 4 else 0)
  else
    let r := accumF ovw c (passSum ((a.zip b).map (fun p => prodNum p.1 p.2)))
    (r.val, (if r.inv then 1 else 0) ||| (if r.ovf then 2 else 0))

/-! ### The deck -/

/-- Slots of a handle (R229). -/
def slotsOf (f : Nat) (scb : Bool) : Nat := if f ≤ 1 || ((f = 2 || f = 3) && scb) then 2 else 1

/-- The slots lie in the deck and are aligned (R229). -/
def slotOk (f : Nat) (scb : Bool) (slot : Int) : Bool :=
  decide (0 ≤ slot ∧ slot + slotsOf f scb ≤ 64) && decide (slot % slotsOf f scb = 0)

/-- Bytes of B's elements in a DKLD source (R230). -/
def srcElems (f : Nat) : Nat := 256 * 512 * elemBits f / 8
/-- Bytes of a DKLD source, with its scales. -/
def srcBytes (f : Nat) (scb : Bool) : Nat := srcElems f + if scb then 4096 else 0

/-- Byte j of rod n's slot h of a handle, from the source's bytes (R414). -/
def deckByte (f : Nat) (scb : Bool) (src : Nat → Nat) (n h j : Nat) : Nat :=
  if f ≤ 1 then src ((128 * h + j / 2) * 1024 + 2 * n + j % 2)
  else if f = 4 then
    if j < 128 then
      src (2 * j * 256 + n / 2) / 16 ^ (n % 2) % 16 + 16 * (src ((2 * j + 1) * 256 + n / 2) / 16 ^ (n % 2) % 16)
    else if scb && j < 136 then src (srcElems f + 512 * (j - 128) + n) else 0
  else if h = 0 then src (512 * j + n)
  else if j < 8 then src (srcElems f + 512 * j + n) else 0

/-! ### ACCCVT -/

/-- A conversion word's destination type (R234). -/
def cwTy (cw : Nat) : Ty := (tyOf (nbits cw 4 0)).getD .f32

/-- A conversion word is legal (R234). -/
def cwOk (cw : Nat) : Bool :=
  let td := nbits cw 4 0
  cw / 2 ^ 26 == 0 && [14, 12, 13, 15, 16, 18, 0].contains td && (td != 0 || nbits cw 25 25 == 1) && nbits cw 7 5 ≤ 4

/-- The rounding of a conversion word; MODE 0 takes the last signer's FPCTL.RM (R234). -/
def cwMode (cw rm : Nat) : RMode := rmode ((rndOf (nbits cw 7 5)).getD .fpctl) rm

/-- ACCCVT on one element (R235). -/
def accConv (cw rm x : Nat) : Nat :=
  let v := if nbits cw 25 25 = 1 then decode .s32 x else decodeBin .f32 x
  let sc := nbits cw 23 16
  let td := cwTy cw
  let y :=
    if nbits cw 24 24 = 0 then (if sc = 255 then .nan false false 0 0 else scale2 v (127 - (sc : Int)))
    else scale10 v (-sextN sc 8)
  if y.isNan then (if td = .s8 then (roundNum td (cwMode cw rm) false false true y).1 else canonNan td)
  else (roundNum td (cwMode cw rm) (nbits cw 8 8 == 1) false true y).1

end Sys2Proof.Machine
end

