-- ==== Sys2Proof/Machine/Sync.lean ====
section
/-! DEFINITION. Barrier objects (R241 to R244) and the rally points of a block and a cluster (R245, R246). -/

namespace Sys2Proof.Machine

/-! ### Barrier objects -/

/-- COUNT, INIT and PHASE of a barrier object (R241). -/
def barCount (x : Nat) : Nat := nbits x 31 0
def barInit (x : Nat) : Nat := nbits x 63 32
def barPhase (x : Nat) : Nat := nbits x 79 64

/-- A barrier object with three fields replaced; ERR and the reserved bits stay. -/
def barPut (x count init phase : Nat) : Nat :=
  count % 2 ^ 32 + init % 2 ^ 32 * 2 ^ 32 + phase % 2 ^ 16 * 2 ^ 64 + x / 2 ^ 80 * 2 ^ 80

/-- The decrement of R242 in closed form: after the phase in progress, whole phases of INIT. -/
def barDown (x d : Nat) : Nat :=
  if d < barCount x || d = 0 then barPut x (barCount x - d) (barInit x) (barPhase x)
  else if barInit x = 0 then barPut x 0 0 (barPhase x + 1)
  else
    let r := d - barCount x
    barPut x (barInit x - r % barInit x) (barInit x) (barPhase x + 1 + r / barInit x)

/-- Counts d down on the object at a physical offset of a core's scratchpad (R242); `err` sets ERR (R255). -/
def barStep (k : Core) (a d : Nat) (err : Bool) : Core :=
  let x := barDown (scrRead k a 16) d
  scrWrite k a 16 (if err && nbits x 80 80 = 0 then x + 2 ^ 80 else x)

/-- The object that a lane names (R243): its physical offset, or the lane's trap. -/
def barAt (s : State) (c : Cx) (off : Src) (imm : BitVec 12) (l : Nat) : Except Kind Nat :=
  match scratchPiece (s.block c.w.block) ((src32 c off l : Nat) + imm12 imm 16) 16 ⟨16, true, true, true, .rc, .block⟩ 16 with
  | .ok p => .ok p.key
  | .error k => .error k.2

/-- Lanes whose offset is refused trap (R243, R186). -/
def barTraps (s : State) (c : Cx) (off : Src) (imm : BitVec 12) : Traps :=
  (lanesOf c.act).filterMap (fun l => match barAt s c off imm l with | .error k => some (l, k) | .ok _ => none)

/-- The objects of the other active lanes. -/
def barPlaces (s : State) (c : Cx) (off : Src) (imm : BitVec 12) : List (Nat × Nat) :=
  (lanesOf c.act).filterMap (fun l => match barAt s c off imm l with | .ok a => some (l, a) | .error _ => none)

/-- BARINIT (R243): the lowest lane that does not trap gives the operands (log 16). -/
def execBarinit (h : Hd) (off n : Src) (imm : BitVec 12) (s : State) : Out :=
  runOp (.barinit h off n imm) s fun c s =>
    let s0 := takePort s c (0, 0)
    match barPlaces s c off imm with
    | [] => .next (s0.finish c (barTraps s c off imm))
    | (l, a) :: _ =>
      let x := src32 c n l
      if x = 0 then .next (s0.trapAll c .illegal)
      else .next ((s0.modCore c.w.core (fun k => scrWrite k a 16 (x + x * 2 ^ 32))).finish c (barTraps s c off imm))

/-- What an ARRIVE reads when it issues: its lanes' objects, by window offset, and the lowest lane's count. -/
def arriveArgs (s : State) (c : Cx) (off n : Src) (imm : BitVec 12) : Args :=
  let ps := barPlaces s c off imm
  { vals := ps.map (fun p => (p.1, p.2 - (s.block c.w.block).base)), b := BitVec.ofNat 64 (src32 c n ((ps.map (·.1)).headD 0)) }

/-- ARRIVE on the object of the lowest lane, by that lane's count (R243, R242). -/
def arriveAct (c : Cx) (x : Args) (s : State) : State :=
  match x.vals with
  | [] => s
  | (_, o) :: _ =>
    let a := (s.block c.w.block).base + o
    let phase := barPhase (scrRead (s.core c.w.core) a 16)
    (writeRes c none 1 (x.vals.map (fun p => (p.1, phase))) s).modCore c.w.core (fun k => barStep k a x.b.toNat false)

/-- ARRIVE (R243): a release for the lanes' scratchpad stores (R244). -/
def execArrive (h : Hd) (d : Dv) (off n : Src) (imm : BitVec 12) (s : State) : Out :=
  runOp (.arrive h d off n imm) s fun c s =>
    .next (runRelease c (barTraps s c off imm) (arriveArgs s c off n imm) arriveAct (takePort s c (0, 0)))

/-- A token has been passed: the object's PHASE differs from it (R243). -/
def passed (k : Core) (a tok : Nat) : Bool := barPhase (scrRead k a 16) != tok % 2 ^ 16

/-- TRYWAIT (R243); a 1 acquires (R244). -/
def execTrywait (h : Hd) (d : Dv) (off tok : Src) (imm : BitVec 12) (s : State) : Out :=
  runOp (.trywait h d off tok imm) s fun c s =>
    let s0 := takePort s c (0, 0)
    let vs := (barPlaces s c off imm).map (fun p => (p.1, (passed (s.core c.w.core) p.2 (src32 c tok p.1)).toNat))
    let s1 := if vs.any (fun v => v.2 != 0) then acquireBoth s0 c.w.core else s0
    .next ((writeRes c none 1 vs s1).finish c (barTraps s c off imm))

/-- The operands of a WAIT: per lane, the object's window offset and the token, as one number. -/
def waitVal (off tok : Nat) : Nat := off * 65536 + tok % 65536

/-- Every lane of a WAIT finds its phase ended (R243). -/
def waitOver (s : State) (w : Warp) (vals : List (Nat × Nat)) : Bool :=
  let b := s.block w.block
  vals.all (fun v => passed (s.core w.core) (b.base + v.2 / 65536) v.2)

/-- WAIT (R243); its return acquires (R244). -/
def execWait (h : Hd) (off tok : Src) (imm : BitVec 12) (s : State) : Out :=
  runOp (.wait h off tok imm) s fun c s =>
    let s0 := takePort s c (0, 0)
    let ts := barTraps s c off imm
    let b := s.block c.w.block
    let vs := (barPlaces s c off imm).map (fun p => (p.1, waitVal (p.2 - b.base) (src32 c tok p.1)))
    if vs = [] then .next (s0.finish c ts)
    else if waitOver s c.w vs then .next ((acquireBoth s0 c.w.core).finish c ts)
    else .next (suspendIssued s0 c ts (.lanes (c.act &&& ~~~trapMask ts) vs) .barrier)

/-! ### Rally points -/

/-- Lanes execute RALLY id with a count (R245). -/
def rallyArrive (s : State) (c : Cx) (id count : Nat) : State :=
  s.modBlock c.w.block (fun b => { b with rally := b.rally.modify id (fun r =>
    { r with lanes := cset r.lanes 0 c.w.index (cget r.lanes 0 c.w.index ||| c.act), asks := cset r.asks 0 c.w.index count }) })

/-- Lanes execute CRALLY or CRALLY.GO (R246): an arrival ahead of the phase's end counts for the next one. -/
def crallyArrive (s : State) (c : Cx) : State :=
  s.modBlock c.w.block (fun b => { b with crLanes := cset b.crLanes 0 c.w.index (cget b.crLanes 0 c.w.index ||| c.act) })

/-- A subgroup that has arrived waits for a phase, unless the arrival completes it (R318). -/
def waitRally (s : State) (c : Cx) (phase : Nat) : State :=
  let s1 := rallies (suspendIssued s c [] (.rally phase) .barrier) c.w.block
  if ((s1.warp c.iss.warp).group? c.g.gid).any (fun g => g.wait == some (.rally phase)) then s1 else s1.out .issued

/-- A RALLY's count differs from the one that the phase's first arrival recorded (R245). The counts as named are compared: 0 and an
explicit number that equals what 0 came to differ (DESIGN CHOICE, log 85). -/
def rallyDiffers (s : State) (c : Cx) (id count : Nat) : Bool :=
  ((s.block c.w.block).rally.getD id default).first.any (fun x => x.1 != count)

/-- An arrival at a rally point releases the lanes' scratchpad stores: it waits for them, and acts then (R244 to R246). -/
def rallyRun (c : Cx) (act : State → State) (s : State) : Out :=
  if storesAway s c.w c.act then .next (suspendKeep s c .barrier { whole := c.g.mask == c.w.live }) else .next (act s)

/-- RALLY and RALLY.GO (R245). -/
def rallyOp (i : Instr) (id : BitVec 4) (count : BitVec 6) (go : Bool) (s : State) : Out :=
  runOp i s fun c s =>
    let s0 := takePort s c (0, 0)
    if c.act = 0 then .next (s0.done c)
    else if rallyDiffers s c id.toNat count.toNat then .next (s0.trapAll c .illegal)
    else
      let phase := ((s.block c.w.block).rally.getD id.toNat default).phase
      rallyRun c (fun s =>
        let s1 := rallyArrive s c id.toNat count.toNat
        if go then rallies (s1.done c) c.w.block else waitRally s1 c phase) s0

def execRally (h : Hd) (id : BitVec 4) (count : BitVec 6) (s : State) : Out := rallyOp (.rally h id count) id count false s
def execRallyGo (h : Hd) (id : BitVec 4) (count : BitVec 6) (s : State) : Out := rallyOp (.rallyGo h id count) id count true s

/-- CRALLY and CRALLY.GO (R246). -/
def crallyOp (i : Instr) (go : Bool) (s : State) : Out :=
  runOp i s fun c s =>
    let s0 := takePort s c (0, 0)
    if c.act = 0 then .next (s0.done c)
    else rallyRun c (fun s => if go then rallies ((crallyArrive s c).done c) c.w.block else waitRally (crallyArrive s c) c (s.block c.w.block).crArr) s0

def execCrally (h : Hd) (s : State) : Out := crallyOp (.crally h) false s
def execCrallyGo (h : Hd) (s : State) : Out := crallyOp (.crallyGo h) true s

/-- A subgroup whose arrival was delayed by its stores arrives, and goes on or waits for its phase (R244 to R246). -/
def rallyWake (c : Cx) (a : Args) (go : Bool) (phase : Nat) (s : State) : State :=
  if go then rallies (progWake s c a (.done s)) c.w.block
  else rallies (s.modIss c (fun w => w.modGroup c.g.gid (fun g => { g with wait := some (.rally phase) }))) c.w.block

/-- A delayed RALLY is tried again. -/
def rallyAgain (id count : Nat) (go : Bool) (c : Cx) (a : Args) (s : State) : State :=
  if storesAway s c.w c.act then s
  else if rallyDiffers s c id count then progWake s c a (.trap .illegal)
  else rallyWake c a go ((s.block c.w.block).rally.getD id default).phase (rallyArrive s c id count)

/-- A delayed CRALLY is tried again. -/
def crallyAgain (go : Bool) (c : Cx) (a : Args) (s : State) : State :=
  if storesAway s c.w c.act then s else rallyWake c a go (s.block c.w.block).crArr (crallyArrive s c)

/-- CRALLY.HOLD (R246). -/
def execCrallyHold (h : Hd) (s : State) : Out :=
  runOp (.crallyHold h) s fun c s =>
    let s0 := takePort s c (0, 0)
    let b := s.block c.w.block
    if c.act = 0 then .next (s0.done c)
    else if b.crArr = b.crPhase then .next ((if b.crPhase = 0 then s0 else acquireBoth s0 c.w.core).done c)
    else .next (suspendIssued s0 c [] (.rally b.crPhase) .barrier)

end Sys2Proof.Machine
end

