-- ==== Sys2Proof/Machine/Matrix.lean ====
section
/-! DEFINITION. The matrix-class instructions: ownership of the engine (R217 to R220, R461, R462), signing (R222
to R226, R233, R234, R238), the deck handles (R229 to R231), ACCZ, ACCSTAT, OPFENCE and MXWAIT. -/

namespace Sys2Proof.Machine

/-! ### Ownership -/

/-- Whether the issuing lanes' group owns the engine; an engine-collective team waits for its grant
instead of trapping (R217, R219). -/
inductive Own
  | yes | wait | no
  deriving DecidableEq, Repr, Inhabited

/-- R217 and R219 on the issuing lanes. -/
def ownership (s : State) (c : Cx) : Own :=
  let o := ownerOf s c.w c.act
  if (s.core c.iss.core).owner.any (·.same o) then .yes
  else if (s.block c.w.block).ecol && o.hand.isNone then .wait
  else .no

/-- A handler may name only the tiles of HTILE (R220). -/
def tileOk (s : State) (c : Cx) (acc : Nat) : Bool :=
  c.w.deep &&& c.act == 0 || nbits (s.launch (s.block c.w.block).launch).htile acc acc == 1

/-- Steps that every matrix-class instruction makes first: ownership, then the tile it names. -/
def withEngine (c : Cx) (acc : Option Nat) (s : State) (k : Prog) : Prog :=
  match ownership s c with
  | .no => .trap .illegal
  | .wait => .wait .engine s
  | .yes => if acc.all (tileOk s c) then k else .trap .illegal

/-- Adds an owner to the FIFO of waiting groups, unless it is queued (R218). -/
def enqueue (s : State) (core : Nat) (o : Owner) : State :=
  s.modCore core (fun k => if k.fifo.any (·.same o) then k else { k with fifo := k.fifo ++ [o] })

/-- An engine that nobody owns, waits for or occupies is granted at once. -/
def engineFree (k : Core) : Bool := k.owner.isNone && k.fifo.isEmpty && k.eng.isEmpty

/-- The tiles of a mask with their flags. -/
def tilesOf (k : Core) (m : Nat) : List (Nat × Tile) :=
  ((List.range 8).filter (fun i => nbits m i i == 1)).map (fun i => (i, k.acc.getD i default))

/-- Sets aside a group's open collections (R461). -/
def setAside (s : State) (o : Owner) : State :=
  s.modBlock o.block (fun b =>
    let open_ := ((List.range 8).zip b.cv).filter (fun x => x.2.opened && x.2.owner == o.tag)
    { b with
      aside := b.aside ++ open_
      cv := b.cv.map (fun v => if v.opened && v.owner == o.tag then { v with opened := false } else v) })

/-- The interrupted group of a handler's owner. -/
def Owner.group (o : Owner) : Owner := { o with hand := none }

/-- MXACQ of a handler (R461): it waits for the interrupted group's operations, sets its collections aside,
takes a slot, gets or queues for the engine, and saves the tiles of HTILE. Of several handlers of the group that owns the engine the
next in the FIFO gets it (R462). -/
def handlerAcquire (c : Cx) (o : Owner) (s : State) : Prog :=
  let k := s.core c.iss.core
  let m := (s.launch (s.block c.w.block).launch).htile
  let has := k.owner.any (·.same o)
  match k.hslots.find? (·.owner.same o) with
  | some h =>
    let next := k.owner.any (·.same o.group) && (k.fifo.find? (fun x => x.hand.isSome && x.group.same o.group)).any (·.same o)
    if has && h.tiles ≠ [] then .done s
    else if !has && (!next || busyFor s c.iss.core o.group) then .wait .engine s
    else
      let put := fun (x : HSlot) => if x.owner.same o then { x with tiles := tilesOf k m, back := if has then x.back else some o.group } else x
      .done ((if has then s else setAside s o.group).modCore c.iss.core (fun k =>
        { k with owner := some o, fifo := k.fifo.filter (fun x => !x.same o), hslots := k.hslots.map put }))
  | none =>
    if busyFor s c.iss.core o.group then .wait .engine s
    else
      let s1 := setAside s o.group
      if 8 ≤ k.hslots.length then .wait .engine s1
      else if k.owner.any (·.same o.group) then
        .done (s1.modCore c.iss.core (fun k => { k with owner := some o, hslots := k.hslots ++ [⟨o, tilesOf k m, some o.group⟩] }))
      else if engineFree k then
        .done (s1.modCore c.iss.core (fun k => { k with owner := some o, hslots := k.hslots ++ [⟨o, tilesOf k m, none⟩] }))
      else .wait .engine (enqueue (s1.modCore c.iss.core (fun k => { k with hslots := k.hslots ++ [⟨o, [], none⟩] })) c.iss.core o)

/-- MXACQ (R218, R219, R461). -/
def mxacqStep (c : Cx) (_ : Args) (s : State) : Prog :=
  let o := ownerOf s c.w c.act
  let k := s.core c.iss.core
  if o.hand.isSome then handlerAcquire c o s
  else if (s.block c.w.block).ecol then .done s
  else
    let s1 := s.modIss c (fun w => { w with holding := true })
    if k.owner.any (·.same o) then .done s1
    else if engineFree k then .done (s1.modCore c.iss.core (fun k => { k with owner := some o }))
    else .wait .engine (enqueue s1 c.iss.core o)

/-- RESUME's first step (R462): the handler's open collections go, its operations are waited for, the saved
tiles return with the slot, the set-aside collections reopen, and the engine goes back. -/
def handlerRelease (c : Cx) (s : State) : Option State :=
  let o := ownerOf s c.w c.act
  let core := c.iss.core
  match (s.core core).hslots.find? (·.owner.same o) with
  | none => some s
  | some h =>
    let s1 := discardOpen s o
    if busyFor s1 core o then none
    else
      let put := fun (a : List Tile) => h.tiles.foldl (fun a x => a.set x.1 x.2) a
      let s2 := s1.modCore core (fun k =>
        { k with
          acc := put k.acc
          hslots := k.hslots.filter (fun x => !x.owner.same o)
          fifo := k.fifo.filter (fun x => !x.same o)
          owner := if k.owner.any (·.same o) then h.back else k.owner })
      let s3 := s2.modBlock o.block (fun b =>
        let mine := b.aside.filter (fun x => x.2.owner == o.group.tag)
        { b with
          aside := b.aside.filter (fun x => x.2.owner != o.group.tag)
          cv := mine.foldl (fun cv x => cv.set x.1 { x.2 with err := (cv.getD x.1 default).err }) b.cv })
      let b := s3.block o.block
      let gone := h.back.isSome && !b.ecol && (holders s3 b) &&& o.warps == 0
      some (if gone then (discardOpen s3 o.group).modCore core (fun k => { k with owner := none }) else s3)

def execMxacq (h : Hd) (s : State) : Out := runWait (.mxacq h) s (fun _ _ => {}) mxacqStep
/-- MXREL (R218, R219). A handler keeps the engine to its RESUME (R461, log 17). -/
def execMxrel (h : Hd) (s : State) : Out :=
  runOp (.mxrel h) s fun c s =>
    let o := ownerOf s c.w c.act
    if c.act = 0 || o.hand.isSome || (s.block c.w.block).ecol || !(s.core c.iss.core).owner.any (·.same o)
    then .next (s.done c)
    else .next ((releaseMark s c.iss.warp).done c)

/-! ### Signing -/

/-- The parameters in a signed operation's word (R222). -/
structure Sig where
  opc : Nat
  acc : Nat
  cv : Nat
  dh : Nat
  rows : Nat
  ovw : Bool
  deriving DecidableEq, Repr, Inhabited

/-- The signed operations: their parameters and their two sources (R225). -/
def sigOf : Instr → Option (Sig × Src × Src × Bool)
  | .mma _ acc cv f a dh rows ovw => some (⟨0x302, acc.toNat, cv.toNat, dh.toNat, rows.toNat, ovw⟩, f, a, true)
  | .mxrun _ acc cv f a dh rows ovw => some (⟨0x303, acc.toNat, cv.toNat, dh.toNat, rows.toNat, ovw⟩, f, a, false)
  | .accrd _ acc cv r o rows => some (⟨0x308, acc.toNat, cv.toNat, 0, rows.toNat, false⟩, r, o, false)
  | .accwr _ acc cv r o rows => some (⟨0x309, acc.toNat, cv.toNat, 0, rows.toNat, false⟩, r, o, false)
  | .acccvt _ acc cv w o rows => some (⟨0x30A, acc.toNat, cv.toNat, 0, rows.toNat, false⟩, w, o, false)
  | _ => none

/-- SFMT and SADS of a lane. -/
def sigVals (c : Cx) (f a : Src) (wide : Bool) (l : Nat) : Nat × Nat := (src32 c f l, if wide then src64 c a l else src32 c a l)

/-- What a signature reads when it issues. -/
def sigArgs (f a : Src) (wide : Bool) (c : Cx) (_ : State) : Args :=
  let v := sigVals c f a wide (lowLane c.act)
  { a := BitVec.ofNat 64 v.1, b := BitVec.ofNat 64 v.2, same := (lanesOf c.act).all (fun l => sigVals c f a wide l == v),
    rm := c.rf.fpctl.toNat % 4 }

/-- A register that takes lanes' signatures: no operation in flight, and no open collection that one of them
has signed (R223 step 2, R224). -/
def cvFree (b : Block) (idx : Nat) (act : LMask) (n : Nat) : Bool :=
  let v := b.cv.getD n default
  !v.busy && !(v.opened && (cget v.signed 0 idx &&& act) != 0)

/-- Fields of the A descriptor (R226). -/
def adOff (a : Nat) : Nat := nbits a 20 0
def adStr (a : Nat) : Nat := nbits a 41 21
def adScale (a : Nat) : Nat := nbits a 62 42

/-- The handle's format is the word's (R223 step 5). -/
def handleFits (h : Handle) (fw : Nat) : Bool := h.valid && h.fmt == nbits fw 7 4 && h.scb == (nbits fw 11 11 == 1)

/-- Bytes of one row of an ACCCVT result. -/
def cwRow (cw : Nat) : Nat := 512 * tyBits (cwTy cw) / 8

/-- Steps 5 to 7 of R223 on a signature's values. -/
def sigCheck (b : Block) (g : Sig) (f a : Nat) : Option Kind :=
  let rows := g.rows + 1
  let sca := nbits f 10 10 == 1
  let legal :=
    if g.opc = 0x302 then
      fmtLegal f && handleFits (b.dh.getD g.dh default) f && nbits a 63 63 == 0 && adStr a % 16 == 0
        && adOff a % 16 == 0 && adScale a % 8 == 0
    else if g.opc = 0x303 then fmtLegal f && handleFits (b.dh.getD g.dh default) f
    else if g.opc = 0x30A then cwOk f && nbits f 15 9 + rows ≤ 128
    else f < 128 && f + rows ≤ 128
  let aligned := if g.opc = 0x302 then true else if g.opc = 0x303 then a % 64 == 0 else a % 16 == 0
  let inside :=
    if g.opc = 0x302 then
      adOff a + g.rows * adStr a + 32 * elemBits (f % 16) ≤ b.size && (!sca || adScale a + 8 * rows ≤ b.size)
    else if g.opc = 0x303 then a + 64 ≤ b.size
    else if g.opc = 0x30A then a + rows * cwRow f ≤ b.size
    else a + 2048 * rows ≤ b.size
  if !legal then some .illegal else if !aligned then some .misalign else if !inside then some .range else none

/-- The expected signers of a group (R222): the live lanes of its warps, or a handler's lanes. -/
def expectedOf (s : State) (b : Block) (o : Owner) : Cells LMask :=
  match o.hand with
  | some (i, m) => [(i, m)]
  | none =>
    (b.warps.filterMap (fun i =>
      let w := s.warp i
      if nbits o.warps w.index w.index = 1 && w.live ≠ 0 then some (w.index, w.live) else none))

/-- The parameters equal those recorded for the open collection (R223 step 4). -/
def sameSig (v : Conv) (g : Sig) (o : Owner) (f a : W64) : Bool :=
  v.opc == g.opc && v.acc == g.acc && v.dh == g.dh && v.rows == g.rows && v.ovw == g.ovw && v.fmt == f
    && v.ads == a && v.owner == o.tag

/-- The lanes that may sign now (R223 step 2): those that have not signed the open collection, while the register has no operation
in flight. -/
def signNow (s : State) (n : Nat) (c : Cx) : LMask :=
  let v := (s.block c.w.block).cv.getD n default
  if v.busy then 0 else c.act &&& ~~~(if v.opened then cget v.signed 0 c.w.index else 0)

/-- A signature (R222, R223): the lanes that may sign do and go on, and the others wait. -/
def signStep (g : Sig) (c : Cx) (x : Args) (s : State) : Prog :=
  let b := s.block c.w.block
  let o := ownerOf s c.w c.act
  let v := b.cv.getD g.cv default
  let m := signNow s g.cv c
  withEngine c (some g.acc) s (
    if m = 0 then .wait .engine s
    else if !x.same then .trap .fmtDiverge
    else if v.opened && !sameSig v g o x.a x.b then .trap .fmtDiverge
    else
      match sigCheck b g x.a.toNat x.b.toNat with
      | some k => .trap k
      | none =>
        let v1 : Conv := if v.opened then v
          else ⟨true, false, g.opc, g.acc, g.dh, g.rows, g.ovw, x.a, x.b, expectedOf s b o, [], v.err, 0, o.tag⟩
        let v2 := { v1 with
          signed := cset v1.signed 0 c.w.index (cget v1.signed 0 c.w.index ||| m)
          rm := x.rm }
        let s1 := collect (s.modBlock c.w.block (fun b => { b with cv := b.cv.set g.cv v2 })) c.w.block
        if c.act &&& ~~~m = 0 then .done s1 else .part (c.act &&& ~~~m) .engine s1)

/-- A signed operation. -/
def runSign (i : Instr) (s : State) : Out :=
  match sigOf i with
  | some (g, f, a, wide) => runWait i s (sigArgs f a wide) (signStep g)
  | none => runOp i s fun c s => .next (s.done c)

def execMma (h : Hd) (acc cv : BitVec 3) (fmt ads : Src) (dh : BitVec 4) (rows : BitVec 7) (ovw : Bool) (s : State) : Out :=
  runSign (.mma h acc cv fmt ads dh rows ovw) s
def execMxrun (h : Hd) (acc cv : BitVec 3) (fmt ads : Src) (dh : BitVec 4) (rows : BitVec 7) (ovw : Bool) (s : State) : Out :=
  runSign (.mxrun h acc cv fmt ads dh rows ovw) s
def execAccrd (h : Hd) (acc cv : BitVec 3) (row off : Src) (rows : BitVec 7) (s : State) : Out :=
  runSign (.accrd h acc cv row off rows) s
def execAccwr (h : Hd) (acc cv : BitVec 3) (row off : Src) (rows : BitVec 7) (s : State) : Out :=
  runSign (.accwr h acc cv row off rows) s
def execAcccvt (h : Hd) (acc cv : BitVec 3) (cw off : Src) (rows : BitVec 7) (s : State) : Out :=
  runSign (.acccvt h acc cv cw off rows) s

/-- MXWAIT (R224): it acquires at BLOCK scope and writes whether the register's last operation ended in
error. -/
def mxwaitStep (n : Nat) (c : Cx) (_ : Args) (s : State) : Prog :=
  let b := s.block c.w.block
  withEngine c none s (
    if !cvFree b c.w.index c.act n then .wait .engine s
    else
      let e := (b.cv.getD n default).err.toNat
      .done (writeRes c none 1 ((lanesOf c.act).map (fun l => (l, e))) (acquireBoth s c.w.core)))

def execMxwait (h : Hd) (d : Dv) (cv : BitVec 3) (s : State) : Out :=
  runWait (.mxwait h d cv) s (fun _ _ => {}) (mxwaitStep cv.toNat)

/-! ### Deck handles -/

/-- A handle is named by an operation that is collecting or in flight (R221). -/
def handleBusy (b : Block) (dh : Nat) : Bool :=
  b.cv.any (fun v => (v.opened || v.busy) && (v.opc == 0x302 || v.opc == 0x303) && v.dh == dh)

/-- The 4 KiB pieces of a global source: offset, length and IA of each, or none where a window is missing or
denies R. -/
def sourcePieces (c : Ctx) (a len : Nat) : Option (List (Nat × Nat × Nat × Bool)) :=
  let lo := a / 4096
  let hi := (a + len - 1) / 4096
  (List.range (hi + 1 - lo)).foldr (fun i r =>
    let from_ := max a ((lo + i) * 4096)
    let to_ := min (a + len) ((lo + i + 1) * 4096)
    match r, canonical from_, findWindow c.win from_ with
    | some r, true, some w =>
      let x := c.win.getD w 0
      if winR x then some ((from_ - a, to_ - from_, windowIa x from_, winUser x) :: r) else none
    | _, _, _ => none) (some [])

/-- What a DKLD names once its operands have passed steps 5 to 7 of R223: its handle and, for a global source, the reads
of its fill (R229, R230). -/
def dkldPlan (dh slot : Nat) (isRef : Bool) (c : Cx) (x : Args) (s : State) : Except Kind (Handle × Option Txn) :=
  let b := s.block c.w.block
  let fw := x.a.toNat
  let a := x.b.toNat
  let f := nbits fw 7 4
  let scb := nbits fw 11 11 == 1
  let len := srcBytes f scb
  let ap := nbits a 63 56 == 0xFE
  let h : Handle := ⟨true, f, scb, slot, slotsOf f scb, isRef, x.b⟩
  if !fmtLegal fw || !slotOk f scb slot || (ap && [0, 2, 3].contains (nbits a 55 52)) then .error .illegal
  else if a % 128 ≠ 0 then .error .misalign
  else if ap then
    if nbits a 55 52 = 1 && nbits a 51 21 = 0 && a % 2 ^ 21 + len ≤ b.size then .ok (h, none) else .error .range
  else
    match sourcePieces (s.ctx b.ctx) a len with
    | none => .error .range
    | some ps =>
      let acc := fun (p : Nat × Nat × Nat × Bool) => Acc.mk (lowLane c.act) p.1 p.2.1 .global p.2.2.1 0 0 0 p.2.2.2 .none .issued 0
      .ok (h, some
        { id := s.ctr, kind := .fill dh, f := c.iss.f, runId := c.g.runId, mask := c.act, dst := 0, nregs := 0, size := 1,
          dom := .bulk, scope := .device, ord := .plain, pol := .dflt, accs := ps.map acc, publish := false, drop := false })

/-- DKLD (R229, R230). -/
def dkldStep (dh slot : Nat) (isRef : Bool) (c : Cx) (x : Args) (s : State) : Prog :=
  withEngine c none s (
    match dkldPlan dh slot isRef c x s with
    | .error k => .trap k
    | .ok (h, t) =>
      if handleBusy (s.block c.w.block) dh then .wait .engine s
      else
        let s1 := s.modBlock c.w.block (fun b => { b with dh := b.dh.set dh h })
        let fill : Fill := ⟨s.ctr, c.w.block, dh, h, t.map (·.id), c.iss.warp⟩
        let s2 := s1.modCore c.iss.core (fun k => { k with fills := k.fills ++ [fill] })
        let s3 := match t with
          | some t => s2.modIss c (fun w => { w with txns := w.txns ++ [t] })
          | none => s2
        .done s3.bump)

/-- The wait before issue of a DKLD (R33): a fill from global memory needs a place for its fault. -/
def dkldBlock (dh slot : Nat) (isRef : Bool) (c : Cx) (x : Args) (s : State) : Option Cause :=
  if c.act = 0 || ownership s c == .no then none
  else match dkldPlan dh slot isRef c x s with
    | .ok (_, some _) => if pfqRoom s c.w then none else some .memory
    | _ => none

def execDkld (h : Hd) (fmt addr : Src) (dh : BitVec 4) (slot : BitVec 7) (isRef : Bool) (s : State) : Out :=
  runOp (.dkld h fmt addr dh slot isRef) s fun c s =>
    match dkldBlock dh.toNat slot.toNat isRef c (sigArgs fmt addr true c s) s with
    | some why => .next (suspend s c (.unissued why) why why)
    | none => waitOp (sigArgs fmt addr true) (dkldStep dh.toNat slot.toNat isRef) c s

/-- DKFREE (R36, R231). -/
def dkfreeStep (dh : Nat) (c : Cx) (_ : Args) (s : State) : Prog :=
  withEngine c none s (
    if !((s.block c.w.block).dh.getD dh default).valid then .trap .illegal
    else if handleBusy (s.block c.w.block) dh then .wait .engine s
    else .done (s.modBlock c.w.block (fun b => { b with dh := b.dh.modify dh (fun h => { h with valid := false }) })))

def execDkfree (h : Hd) (dh : BitVec 4) (s : State) : Out :=
  runWait (.dkfree h dh) s (fun _ _ => {}) (dkfreeStep dh.toNat)

/-! ### Accumulators -/

/-- ACCZ enters engine order (R221, R232). -/
def acczStep (acc : Nat) (c : Cx) (_ : Args) (s : State) : Prog :=
  let o := ownerOf s c.w c.act
  withEngine c (some acc) s (
    let op : EngOp := ⟨s.ctr, .accz, c.w.block, o.tag, 0, none, acc, default, 127, false, 0, 0, 0, 0, none, false⟩
    .done (s.bump.modCore c.iss.core (fun k => { k with eng := k.eng ++ [op] })))

def execAccz (h : Hd) (acc : BitVec 3) (s : State) : Out :=
  runWait (.accz h acc) s (fun _ _ => {}) (acczStep acc.toNat)

/-- An operation earlier in engine order may name the tile (R221): the loops of an MXRUN reach any. -/
def tileBusy (k : Core) (acc seq : Nat) : Bool := k.eng.any (fun e => e.seq < seq && (e.acc == acc || e.kind == .mxrun))

/-- A tile's flags go to an ACCSTAT; `.CLR` clears them then (R236). -/
def clearStat (s : State) (core acc : Nat) (clr : Bool) : State :=
  if clr then s.modCore core (fun k => { k with acc := k.acc.modify acc (fun t => { t with stat := 0 }) }) else s

/-- ACCSTAT (R236): `x.a` names the place in engine order at which it issued; `x.vals` holds the flags that the last operation
before it left, once that has completed while it waited. -/
def accstatStep (acc : Nat) (clr : Bool) (c : Cx) (x : Args) (s : State) : Prog :=
  let k := s.core c.iss.core
  let put := fun (v : Nat) => writeRes c none 1 ((lanesOf c.act).map (fun l => (l, v)))
  match x.vals with
  | (_, v) :: _ => .done (put v s)
  | [] =>
    withEngine c (some acc) s (
      if tileBusy k acc x.a.toNat then .wait .engine s
      else .done (clearStat (put (k.acc.getD acc default).stat.toNat s) c.iss.core acc clr))

def execAccstat (h : Hd) (d : Dv) (acc : BitVec 3) (clr : Bool) (s : State) : Out :=
  runWait (.accstat h d acc clr) s (fun _ s => { a := BitVec.ofNat 64 s.ctr }) (accstatStep acc.toNat clr)

/-- The ACCSTATs of a core that wait for an operation to complete (R221): the place in engine order, the warp, the subgroup, the
tile and whether it clears. -/
def statWaiters (s : State) (core : Nat) : List (Nat × Nat × Nat × Nat × Bool) :=
  (coreWarps s core).flatMap (fun w => if (s.block w.block).kill.isSome then [] else w.groups.filterMap (fun g =>
    match g.wait, g.cur with
    | some (.issued _ _ a), some f =>
      (match decodeWord f.word with
       | .ok (.accstat _ _ acc clr) => if a.vals.isEmpty then some (a.a.toNat, w.id, g.gid, acc.toNat, clr) else none
       | _ => none)
    | _, _ => none))

/-- An ACCSTAT whose last operation has completed takes the flags at once, whether or not its warp can go on now (R221, R236,
R430). -/
def takeStat (core : Nat) (s : State) (x : Nat × Nat × Nat × Nat × Bool) : State :=
  let (at_, wid, gid, acc, clr) := x
  let w := s.warp wid
  if tileBusy (s.core core) acc at_ || !(s.core core).owner.any (·.same (ownerOf s w (w.group gid).mask)) then s
  else
    let v := ((s.core core).acc.getD acc default).stat.toNat
    let keep := fun (g : Group) => match g.wait with
      | some (.issued c m a) => { g with wait := some (.issued c m { a with vals := [(0, v)] }) }
      | _ => g
    clearStat (s.modWarp wid (fun w => w.modGroup gid keep)) core acc clr

/-- Operations have left engine order: the waiting ACCSTATs that come next take their flags, in the order of their issue. -/
def takeStats (s : State) (core : Nat) : State :=
  let insert := fun (x : Nat × Nat × Nat × Nat × Bool) (l : List (Nat × Nat × Nat × Nat × Bool)) =>
    l.filter (fun y => decide (y.1 < x.1)) ++ [x] ++ l.filter (fun y => decide (x.1 ≤ y.1))
  ((statWaiters s core).foldr insert []).foldl (takeStat core) s

/-- The core's operand generation moves on; at 0 every entry goes (R237, R418). -/
def Core.nextGen (k : Core) : Core :=
  { k with gen := k.gen + 1, opc := if k.gen + 1 = 0 then [] else k.opc }

/-- OPFENCE (R237): it waits for the lanes' earlier scratchpad stores; then the generation moves on, once. -/
def opfenceStep (c : Cx) (_ : Args) (s : State) : Prog :=
  withEngine c none s (if storesAway s c.w c.act then .wait .memory s else .done (s.modCore c.iss.core Core.nextGen))

def execOpfence (h : Hd) (s : State) : Out := runWait (.opfence h) s (fun _ _ => {}) opfenceStep

end Sys2Proof.Machine
end

