-- ==== Sys2Proof/Machine/Transfer.lean ====
section
/-! DEFINITION. Transfer requests: posting (R247, R248), records (R249 to R252), ends (R255), XCANCEL and
XQUERY (R256). -/

namespace Sys2Proof.Machine

/-! ### Records -/

/-- Header fields (R249). -/
def reqKind (r : Nat) : Nat := nbits r 7 0
def reqDom (r : Nat) : Nat := nbits r 10 8
def reqScope (r : Nat) : Nat := nbits r 13 11
def reqPol (r : Nat) : Nat := nbits r 15 14
def reqBeads (r : Nat) : Bool := nbits r 16 16 == 1
def reqCnt (r : Nat) : Bool := nbits r 17 17 == 1
/-- The barrier object's window offset. -/
def reqBar (r : Nat) : Nat := nbits r 40 24 * 16
def reqNloop (r : Nat) : Nat := nbits r 43 41
def reqElen (r : Nat) : Nat := nbits r 63 44
/-- Source and destination of copies and loops (R250, R251). -/
def reqSrc (r : Nat) : Nat := nbits r 127 64
def reqDst (r : Nat) : Nat := nbits r 191 128
/-- LEN of a copy (R250). -/
def reqLen (r : Nat) : Nat := nbits r 231 192
/-- Loop j of a loop record (R251). -/
def reqBound (r j : Nat) : Nat := nbits r (207 + 64 * j) (192 + 64 * j)
def reqSs (r j : Nat) : Int := sextN (nbits r (231 + 64 * j) (208 + 64 * j)) 24
def reqDs (r j : Nat) : Int := sextN (nbits r (255 + 64 * j) (232 + 64 * j)) 24
/-- Fields of a route record (R252). -/
def reqList (r : Nat) : Nat := nbits r 127 64
def reqTok (r : Nat) : Nat := nbits r 191 128
def reqNent (r : Nat) : Nat := nbits r 207 192
def reqToklen (r : Nat) : Nat := nbits r 223 208
def reqSeq0 (r : Nat) : Nat := nbits r 255 224
def reqDtab (r : Nat) : Nat := nbits r 319 256
def reqNexp (r : Nat) : Nat := nbits r 327 320

/-- Iterations of a loop record. -/
def reqIters (r : Nat) : Nat := (List.range (reqNloop r)).foldl (fun n j => n * reqBound r j) 1

/-- A loop record's own fields are well formed (R249, R251). -/
def loopOk (r : Nat) : Bool :=
  reqElen r != 0 && reqNloop r ≤ 5 &&
    (List.range 5).all (fun j => if j < reqNloop r then reqBound r j != 0 else nbits r (255 + 64 * j) (192 + 64 * j) == 0)

/-- A route record's own fields are well formed (R252). -/
def routeOk (r : Nat) : Bool :=
  reqNexp r != 0 && reqToklen r != 0 && reqNent r != 0 && r / 2 ^ 328 == 0

/-- A record is well formed for a block's window (R249 to R252). -/
def recOk (size r : Nat) : Bool :=
  let k := reqKind r
  (k == 1 || k == 2 || k == 3) && reqDom r ≤ 4 && reqScope r ≤ 6 && nbits r 23 18 == 0
    && (!reqCnt r || reqBar r + 16 ≤ size)
    && (k == 2 || (reqElen r == 0 && reqNloop r == 0))
    && (if k == 1 then r / 2 ^ 232 == 0 else if k == 2 then loopOk r else routeOk r && !reqBeads r)

/-- Units that a request counts down in all (R254): bytes, or a route's entries. -/
def reqUnits (r : Nat) : Nat :=
  match reqKind r with
  | 1 => reqLen r
  | 2 => reqElen r * reqIters r
  | _ => reqNent r

/-! ### Requests of a block -/

/-- A request of a block by its id. -/
def Block.req? (b : Block) (id : W32) : Option Req := b.reqs.find? (fun q => q.id == id)
/-- Changes a request of a block. -/
def State.modReq (s : State) (bid : Nat) (id : W32) (f : Req → Req) : State :=
  s.modBlock bid (fun b => { b with reqs := b.reqs.map (fun q => if q.id == id then f q else q) })

/-- The id is one of the block's last 256 (R256). -/
def Block.recent (b : Block) (id : W32) : Bool :=
  let age := (b.nextReq - id).toNat
  age != 0 && age ≤ 256

/-- Counts units of a request down on its barrier object, in the block's window (R254, R255). -/
def countDown (s : State) (bid : Nat) (r n : Nat) (err : Bool) : State :=
  let b := s.block bid
  if reqCnt r && (n != 0 || err) then s.modCore b.core (fun k => barStep k (b.base + reqBar r) n err) else s

/-- The first four jobs of every engine run (R426). -/
def markRunning (s : State) : State :=
  (s.engines.flatMap (·.take 4)).foldl (fun s j =>
    s.modReq j.block j.req (fun q => if q.st == .queued then { q with st := .running } else q)) s

/-- Jobs leave their engines, and the next ones start (R426). -/
def State.dropJobs (s : State) (p : Job → Bool) : State :=
  markRunning { s with engines := s.engines.map (fun js => js.filter (fun j => !p j)) }

/-- A request is over with an outcome: 0 ok, 1 cancelled, 2 in error (R255, R256). It leaves the queue and its engine. -/
def closeReq (s : State) (bid : Nat) (id : W32) (outcome : Nat) : State :=
  let s1 := s.modReq bid id (fun q => { q with st := .done, outcome := outcome, counted := reqUnits q.record.toNat })
  let s2 := s1.modCore (s.block bid).core (fun k => { k with reqq := k.reqq.filter (fun x => !(x.1 == bid && x.2 == id)) })
  s2.dropJobs (fun j => j.block == bid && j.req == id)

/-- A request ends early (R255, R256): its remainder is counted down, and an error sets ERR. -/
def endReq (s : State) (bid : Nat) (id : W32) (outcome : Nat) : State :=
  let b := s.block bid
  match b.req? id with
  | none => s
  | some q =>
    let r := q.record.toNat
    closeReq (if recOk b.size r then countDown s bid r (reqUnits r - q.counted) (outcome == 2) else s) bid id outcome

/-- Bytes or entries of a request are performed, and counted down (R254); with the last one it is done. One that has ended
counts nothing more. -/
def requestCount (s : State) (bid : Nat) (id : W32) (n : Nat) : State :=
  match (s.block bid).req? id with
  | none => s
  | some q =>
    let r := q.record.toNat
    if q.st == .done then s
    else
      let s1 := countDown (s.modReq bid id (fun q => { q with counted := q.counted + n })) bid r n false
      if q.counted + n = reqUnits r then closeReq s1 bid id 0 else s1

/-- Index of loop j of a loop record at an iteration, loop 0 fastest (R251). -/
def reqIndex (r it j : Nat) : Nat := it / (List.range j).foldl (fun n i => n * reqBound r i) 1 % reqBound r j

/-- The 192 bits of an iteration vector (R421): DONE, GOFF, KIND, NLOOP and the loop indices. A GOFF of 65,536, which R421 takes to be
impossible and a destination that is not aligned makes possible, reads as 0 (DESIGN CHOICE, log 92). -/
def iterVector (done goff kind nloop : Nat) (index : Nat → Nat) : Nat :=
  (List.range nloop).foldl (fun x j => x + index j % 65536 * 2 ^ (16 * j))
    (nloop * 2 ^ 128 + kind * 2 ^ 131 + goff % 65536 * 2 ^ 136 + done % 2 ^ 40 * 2 ^ 152)

/-- The vector of a copy or loop request (R421). -/
def reqVector (q : Req) : Nat :=
  let r := q.record.toNat
  if reqKind r = 1 then iterVector q.count 0 2 0 (fun _ => 0) else iterVector q.count q.goff 1 (reqNloop r) (reqIndex r q.count)

/-- Source and destination of an iteration (R250, R251). -/
def iterAddrs (r it : Nat) : Nat × Nat :=
  if reqKind r = 1 then (reqSrc r, reqDst r)
  else
    let sum := fun (f : Nat → Int) => (List.range (reqNloop r)).foldl (fun (x : Int) j => x + (reqIndex r it j : Int) * f j) 0
    (wrapI ((reqSrc r : Int) + sum (reqSs r)) 64, wrapI ((reqDst r : Int) + sum (reqDs r)) 64)

/-- Bytes of an iteration. -/
def iterLen (r : Nat) : Nat := if reqKind r = 1 then reqLen r else reqElen r

/-- The iteration that a copy or loop request is at, and its bytes already written. -/
def iterAt (r : Nat) (q : Req) : Nat × Nat := if reqKind r = 1 then (0, q.moved) else (q.count, q.moved - q.count * reqElen r)

/-- Bytes of a route's slot (R253). -/
def slotSize (r : Nat) : Nat := 16 + 16 * reqToklen r

/-- Where a claimed slot starts (R253). -/
def Claim.slot (r : Nat) (c : Claim) : Nat := nbits c.dest 63 0 + c.old.getD 0 * slotSize r

/-- A route's entry stands between two 16-byte granules of its slot (R426). -/
def Claim.atGranule (r : Nat) (c : Claim) : Bool := c.pos == 0 || (c.slot r + c.pos) % 16 == 0

/-- A request stands between two 16-byte granules of its destination (R426). -/
def atGranule (q : Req) : Bool :=
  let r := q.record.toNat
  if reqKind r = 3 then q.claims.all (Claim.atGranule r)
  else
    let (it, off) := iterAt r q
    off == 0 || ((iterAddrs r it).2 + off) % 16 == 0

/-- A request is cancelled (R256, R473): between two granules at once, inside one when it is written. -/
def cancelReq (s : State) (bid : Nat) (id : W32) : State :=
  match (s.block bid).req? id with
  | none => s
  | some q => if q.st == .running && !atGranule q then s.modReq bid id (fun q => { q with cancel := true }) else endReq s bid id 1

/-- Requests past the last 256 go once they are done (R256). -/
def Block.trim (b : Block) : Block := { b with reqs := b.reqs.filter (fun q => q.st != .done || b.recent q.id) }

/-! ### XPOST -/

/-- The records that an XPOST at a window offset names. -/
def postRecs (s : State) (b : Block) (off n : Nat) : List Nat :=
  (List.range n).map (fun i => scrRead (s.core b.core) (b.base + off + 64 * i) 64)

/-- What the fork edge waits for (R248): earlier accesses of the lanes in each record's domain, recorded ones too, and
what stands before them. A copy engine reads at the coherent level, so stores that a narrow scope leaves in the core are
waited for (log 71). -/
def forkWait (s : State) (c : Cx) (rs : List Nat) : List Acc :=
  let own := rs.flatMap (fun r =>
    match domOf (reqDom r), scopeOf (reqScope r) with
    | some d, some _ => (lanesOf c.act).flatMap (fun l =>
        fenceRel s c.w d .system l ++ ((faultedBefore s c.w s.ctr l).filter (fun t => t.dom == d)).flatMap (·.of l))
    | _, _ => [])
  let held := (coreWarps s c.w.core).flatMap (fun v => v.txns.flatMap (fun t =>
    if t.kind.writes && narrow t.scope && (t.publish || t.dom == .rc) && v.block == c.w.block then t.accs.filter (fun a => a.st != .done) else []))
  if rs = [] then [] else own ++ held

/-- XPOST (R247, R248): MISALIGN, RANGE, room for all records, the fork edge, then the ids. -/
def xpostStep (n : Nat) (c : Cx) (x : Args) (s : State) : Prog :=
  let b := s.block c.w.block
  let off := x.a.toNat
  if off % 64 ≠ 0 then .trap .misalign
  else if b.size < off + 64 * n then .trap .range
  else if 64 < (s.core c.iss.core).reqq.length + n then .wait .engine s
  else
    let rs := postRecs s b off n
    let w := forkWait s c rs
    if w ≠ [] then .wait .memory s
    else
      let id := fun (i : Nat) => b.nextReq + BitVec.ofNat 32 i
      let qs := (List.range n).map (fun i => { id := id i, st := .queued, outcome := 0, record := BitVec.ofNat 512 (rs.getD i 0), count := 0, goff := 0, counted := 0, entry := 0, claims := [], launch := b.launch })
      let s1 := writeRes c none 1 ((lanesOf c.act).map (fun l => (l, b.nextReq.toNat))) s
      let s2 := s1.modBlock c.w.block (fun b => Block.trim { b with nextReq := id n, reqs := b.reqs ++ qs })
      let s3 := s2.modCore c.iss.core (fun k => { k with reqq := k.reqq ++ qs.map (fun q => (c.w.block, q.id)) })
      .done (s3.count c.iss.core 28 n)

def execXpost (h : Hd) (d : Dv) (off : Src) (count : BitVec 4) (s : State) : Out :=
  runWait (.xpost h d off count) s (fun c _ => { a := BitVec.ofNat 64 (src32 c off (lowLane c.act)) }) (xpostStep (count.toNat + 1))

/-! ### XCANCEL and XQUERY -/

/-- The lanes cancel in ascending order (R256); each answers whether its request was queued or running. One that has been cancelled
and is still to end its granule is neither (DESIGN CHOICE, log 94). -/
def cancelLanes (bid : Nat) (ids : List (Nat × W32)) (s : State) : State × List (Nat × Nat) :=
  ids.foldl (fun (p : State × List (Nat × Nat)) x =>
    let b := p.1.block bid
    match (if b.recent x.2 then b.req? x.2 else none) with
    | some q => if q.st == .done || q.cancel then (p.1, p.2 ++ [(x.1, 0)]) else (cancelReq p.1 bid x.2, p.2 ++ [(x.1, 1)])
    | none => (p.1, p.2 ++ [(x.1, 0)])) (s, [])

/-- The ids that the lanes name. -/
def laneIds (c : Cx) (i : Src) : List (Nat × W32) := (lanesOf c.act).map (fun l => (l, BitVec.ofNat 32 (src32 c i l)))

def execXcancel (h : Hd) (d : Dv) (i : Src) (s : State) : Out :=
  runOp (.xcancel h d i) s fun c s =>
    let (s1, vs) := cancelLanes c.w.block (laneIds c i) s
    .next ((writeRes c none 1 vs s1).done c)

/-- The two words of XQUERY (R256). -/
def queryVal (b : Block) (id : W32) : Nat :=
  match (if b.recent id then b.req? id else none) with
  | none => 3
  | some q =>
    let st := match q.st with | .queued => 0 | .running => 1 | .done => 2
    let n := q.count % 2 ^ 40
    st + q.outcome * 4 + n / 2 ^ 32 * 16 + n % 2 ^ 32 * 2 ^ 32

def execXquery (h : Hd) (d : Dv) (i : Src) (s : State) : Out :=
  runOp (.xquery h d i) s fun c s =>
    let b := s.block c.w.block
    .next ((writeRes c none 2 ((laneIds c i).map (fun x => (x.1, queryVal b x.2))) s).done c)

end Sys2Proof.Machine
end

