-- ==== Sys2Proof/Machine/Faults.lean ====
section
/-! DEFINITION. Fault records (R32, R33, R264, R266), replay of recorded accesses (R197, R267, R270), and the
writing of deck slots (R414). -/

namespace Sys2Proof.Machine

/-! ### Deck slots -/

/-- The byte at an offset of a fill's source, from its delivered accesses. -/
def fillByte (as : List Acc) (i : Nat) : Nat :=
  match as.find? (fun a => a.part ≤ i && i < a.part + a.n) with
  | some a => a.got / 256 ^ (i - a.part) % 256
  | none => 0

/-- The deck with a handle's slots written from its source (R414). -/
def deckWrite (k : Core) (h : Handle) (src : Nat → Nat) : Core :=
  let keys := (List.range 512).flatMap (fun n => (List.range h.count).flatMap (fun i =>
    (List.range 256).map (fun j => (((n * 64 + h.slot + i) * 256 + j), deckByte h.fmt h.scb src n i j))))
  { k with deck := keys.foldl (fun d x => cset d 0 x.1 (BitVec.ofNat 8 x.2)) k.deck }

/-- A fill ends (R230): its slots are written, counted, and the fill goes. -/
def fillDone (s : State) (core : Nat) (f : Fill) (src : Nat → Nat) : State :=
  (s.modCore core (fun k => { deckWrite k f.hdl src with fills := k.fills.filter (fun x => x != f) })).count core 27 f.hdl.count

/-- The fill that a transaction reads for. -/
def fillOf (k : Core) (wid : Nat) (t : Txn) : Option Fill := k.fills.find? (fun f => f.warp == wid && f.txn == some t.id)

/-! ### Fault records -/

/-- OLDER (R264): full records that are older and share a lane. -/
def olderOf (w : Warp) (r : FaultRec) : Nat :=
  ((w.fr.filterMap id).filter (fun x => x.seq < r.seq && (x.txn.mask &&& r.txn.mask) != 0)).length

/-- An emptied record of a fill that was not replayed ends the fill without writing it. -/
def dropFill (s : State) (w : Warp) (r : FaultRec) : State :=
  if r.txn.mask ≠ 0 then s
  else
    match fillOf (s.core w.core) w.id r.txn with
    | some f => s.modCore w.core (fun k => { k with fills := k.fills.filter (fun x => x != f) })
    | none => s

/-- The oldest fault of a warp in the pending-fault queue takes an empty record (R33, R266). -/
def takePending (wid : Nat) (s : State) (n : Nat) : State :=
  let w := s.warp wid
  match w.frAt n, (s.core w.core).pfq.find? (fun x => x.1 == wid) with
  | none, some x =>
    let s1 := s.modWarp wid (fun w => { w with fr := w.fr.set n (some x.2) })
    s1.modCore w.core (fun k => { k with pfq := k.pfq.erase x })
  | _, _ => s

/-- Records whose mask is empty are emptied, and pending faults take their places (R266): those of a saved warp at its restore. -/
def tidyRecs (s : State) (wid : Nat) : State :=
  let w := s.warp wid
  if w.place = .saved then s else
  let s1 := (w.fr.filterMap id).foldl (fun s r => dropFill s w r) s
  let s2 := s1.modWarp wid (fun w => { w with fr := w.fr.map (fun r => r.filter (fun x => x.txn.mask != 0)) })
  (List.range 4).foldl (takePending wid) s2

/-- Lanes leave a record, whose transaction has become t (R266). -/
def leaveRec (s : State) (wid n : Nat) (t : Txn) (m : LMask) : State :=
  let cut := { t with mask := t.mask &&& ~~~m }
  tidyRecs (s.modWarp wid (fun w => { w with fr := w.fr.modify n (fun r => r.map (fun r => { r with txn := cut })) })) wid

/-- A record's access delivers a value: a load or an ATOM (R268, R269). -/
def TxKind.delivers : TxKind → Bool
  | .load => true
  | .atomic _ _ red => !red
  | _ => false

/-! ### Replay -/

/-- What trying an access again comes to. -/
inductive Try
  | wait
  | fault (k : Kind) (level : Nat)
  | go (a : Acc)
  deriving DecidableEq, Repr, Inhabited

/-- The translation that an access needs. -/
def accNeed (t : Txn) : Need := ⟨!t.kind.isStore, t.kind.writes, some t.dom⟩

/-- The access translated, or what its translation found (R452, R453, R457). A host page that was denied stays so until it is asked
for again (R480). A place above the device memory stays untranslated (R2). -/
def tryAcc (s : State) (w : Warp) (t : Txn) (a : Acc) : Try :=
  if a.sp != .global || a.st == .done then .go a
  else if a.xl == .fault .hostPage 0 then .fault .hostPage 0
  else
    match translate s (dieOf w.core) (s.ctx (s.block w.block).ctx) a.key (accNeed t) with
    | .fault k l => .fault k l
    | .loc p =>
      if Config.deviceBytes ≤ p && p < peerBase then .wait
      else if poisoned s p a.n then .fault .poison 0
      else .go { a with xl := .loc p }
    | _ => .wait

/-- What stands before a replayed access: earlier accesses of its lane that order puts before it, or that
share its location, and the coherent level. -/
def replayReady (s : State) (w : Warp) (t : Txn) (a : Acc) : Bool :=
  orderOk w t a && !olderReads w t a && (!t.kind.writes || (!olderWrites s w t a && releaseDrains s w t))
    && (!t.kind.isLoad || !queueBlocks s w t a)
    && (!(t.kind.writes && !t.kind.isStore) || t.dom != .causal || a.sp != .global || (s.die (dieOf w.core)).upd.isEmpty)
    && ((t.kind.isLoad && l1Hit s w t a) || (levelOk s w.core t.dom a t.kind.writes && !(t.kind.isLoad && usesL1 t a && unackedLine s w.core a)))

/-- An access stands in its warp's transactions, with the others of its instruction that are there. -/
def Warp.rejoin (w : Warp) (t : Txn) (a : Acc) : Warp :=
  match w.txn? t.id with
  | some u => w.putTxn { u with mask := u.mask ||| laneBit a.lane, accs := u.accs ++ [a] }
  | none => { w with txns := w.txns ++ [{ t with mask := laneBit a.lane, accs := [a] }] }

/-- A CAUSAL store is performed at its die's causal home (R391); what it is to be told of its update goes by its lane and
part. -/
def causalStore (s : State) (wid : Nat) (t : Txn) (a : Acc) : State :=
  s.modDie (dieOf (s.warp wid).core) (fun d => { d with upd := d.upd ++ [⟨.lane wid t.id a.name, a.key, a.place, a.n, a.data⟩] })

/-- A replayed access is performed as it would have been: a RC or BULK load in L1 (R364), any other at its home, with the caches'
lines (R368, R369); a copy in the core's L1 takes a write (R365). A CAUSAL store goes on to its acknowledgement as one that did not
fault does (R391). -/
def performAcc (wid : Nat) (t : Txn) (p : State × List Acc) (a : Acc) : State × List Acc :=
  let w := p.1.warp wid
  let load := t.kind.isLoad && usesL1 t a
  let s := if a.st == .done then p.1 else ((if load then p.1 else touchAcc p.1 w.core t a).bump : State)
  let ctx := (s.block w.block).ctx
  let put := fun (x : Nat) (old : Nat) =>
    let s1 := homeWrite s wid a x
    (s1.modCore w.core (fun k => if a.sp == .global then k.l1write ctx a.key a.n x else k), p.2 ++ [{ a with got := old, st := .done }])
  if a.st == .done then (s, p.2 ++ [a])
  else
    match t.kind with
    | .store =>
      if t.dom == .causal && a.sp == .global then
        ((causalStore s wid t a).modWarp wid (fun w => w.rejoin t { a with st := .causal }), p.2 ++ [{ a with st := .done }])
      else put a.data 0
    | .atomic op wd _ =>
      let old := homeRead s wid a
      put (atomVal op wd old a.data a.cmp) old
    | _ => (if load then l1After s w t a else s, p.2 ++ [{ a with got := loadVal s w t a load, st := .done }])

/-- The transaction as access a's parts before it leave it, performed. -/
def Txn.upTo (t : Txn) (a : Acc) : Txn :=
  { t with accs := t.accs.map (fun b => if b.lane == a.lane && decide (b.part < a.part) then { b with st := .done } else b) }

/-- What the performed accesses of a lane deliver: registers, a record, the monitor, or a deck handle. -/
def deliverReplay (s : State) (wid : Nat) (t : Txn) (l : Nat) : State :=
  let w := s.warp wid
  match t.kind with
  | .load => deliverLane s wid t l (laneValue t l)
  | .atomic _ _ red => if red then s else deliverLane s wid t l (laneValue t l)
  | .ldrec b =>
    let x := laneValue t l
    if recordOk x then s.modWarp wid (fun w => { w with rf := { w.rf with b := cset w.rf.b 0 b (BitVec.ofNat 256 x) } }) else s
  | .monitor => armMonitor s wid t (t.accs.headD default)
  | .fill _ =>
    match fillOf (s.core w.core) wid t with
    | some f => fillDone s w.core f (fillByte t.accs)
    | none => s
  | .fence d inv => if inv then invalidateDom s w.core d else s
  | .store => s

/-- The outcome of replaying a lane's part of a transaction. -/
inductive Replay
  | wait
  | fault (k : Kind) (level : Nat)
  | ok (s : State) (t : Txn)
  deriving DecidableEq, Repr

/-- Replays a lane's part of a transaction (R197, R267): all of its accesses or none. -/
def replayLane (s : State) (wid : Nat) (t : Txn) (l : Nat) : Replay :=
  let w := s.warp wid
  let mine := t.of l
  if t.kind.shared && mine.all (·.st == .done) then .ok s t
  else
    let ts := mine.map (tryAcc s w t)
    match ts.find? (fun x => match x with | .fault .. => true | _ => false) with
    | some (.fault k v) => .fault k v
    | _ =>
      let as := ts.filterMap (fun x => match x with | .go a => some a | _ => none)
      if as.length < mine.length || !as.all (fun a => a.st == .done || replayReady s w (t.upTo a) a) then .wait
      else
        let ctx := s.ctx (s.block w.block).ctx
        let s0 := (mine.filter (fun a => a.sp == .global && a.st != .done)).foldl (fun s a => s.walkFor w.core ctx a.key) s
        let (s1, done) := as.foldl (performAcc wid t) (s0, [])
        let put := fun (a : Acc) => (done.find? (fun d => d.lane == a.lane && d.part == a.part)).getD a
        let t1 := { t with accs := t.accs.map put }
        let s2 := beadEffect (acquireDone (deliverReplay s1 wid t1 l) w.core t1 l) w.core t.bead (accGranules mine)
        .ok (if t.bead = 1 ∨ t.bead = 2 then acquireBoth s2 w.core else s2) t1

/-- Replays the given lanes of record n in ascending order: the lanes that left it, or none while one of
them must wait. A lane that faults again stays. -/
def replayRec (s : State) (wid n : Nat) (ls : List Nat) : Option (State × LMask) :=
  ls.foldl (fun (p : Option (State × LMask)) l =>
    match p with
    | none => none
    | some (s, m) =>
      match (s.warp wid).frAt n with
      | none => some (s, m)
      | some r =>
        if !hasLane r.txn.mask l then some (s, m)
        else
          match replayLane s wid r.txn l with
          | .wait => none
          | .fault _ _ => some (s, m)
          | .ok s1 t => some (s1.modWarp wid (fun w => { w with fr := w.fr.modify n (fun r => r.map (fun r => { r with txn := { t with mask := t.mask &&& ~~~laneBit l } })) }), m ||| laneBit l))
    (some (s, 0))

/-- The host pages of the given lanes of record n that no reply has come for are asked for (R453, R478). -/
def askRec (wid n : Nat) (ls : List Nat) (s : State) : State :=
  let w := s.warp wid
  let die := dieOf w.core
  let c := s.ctx (s.block w.block).ctx
  match w.frAt n with
  | none => s
  | some r =>
    let due := fun (a : Acc) => a.sp == .global && a.st != .done && a.xl != .fault .hostPage 0 && inHost c a.key
      && translate s die c a.key ⟨false, false, none⟩ == .asked && (r.txn.kind.shared || ls.contains a.lane)
    let mark := fun (a : Acc) => if due a then { a with xl := .asked } else a
    let s1 := s.modWarp wid (fun w => { w with fr := w.fr.modify n (fun r => r.map (fun r => { r with txn := { r.txn with accs := r.txn.accs.map mark } })) })
    (r.txn.accs.filter due).foldl (fun s a => askAts s die c a.key) s1

/-- The denials that lanes of a record hold, of any page or of those that `hit` names, are forgotten: the pages are asked for again
(R480, R270). -/
def FaultRec.reask (m : LMask) (hit : Nat → Bool) (r : FaultRec) : FaultRec :=
  let again := fun (a : Acc) =>
    if a.xl == .fault .hostPage 0 && hit (a.key / 4096) && ((r.txn.kind.shared && r.txn.mask &&& m != 0) || hasLane m a.lane) then { a with xl := .none } else a
  { r with txn := { r.txn with accs := r.txn.accs.map again } }

/-- Changes every fault record of a warp, full or pending, saved or not. -/
def State.modRecs (s : State) (wid : Nat) (f : FaultRec → FaultRec) : State :=
  let mine := fun (x : Nat × FaultRec) => if x.1 == wid then (x.1, f x.2) else x
  let s1 := s.modWarp wid (fun w => { w with fr := w.fr.map (·.map f) })
  if (s.warp wid).place = .saved then { s1 with saves := s1.saves.map (fun (v : Save) => { v with pfq := v.pfq.map mine }) }
  else s1.modCore (s.warp wid).core (fun k => { k with pfq := k.pfq.map mine })

/-- The denials in a warp's records. -/
def reaskWarp (s : State) (wid : Nat) (m : LMask) (hit : Nat → Bool) : State := s.modRecs wid (FaultRec.reask m hit)

/-- Usxon writes page-table entries (R445, R267): (place, entry). Cached leaves of the context go, so that
a changed leaf is read again. -/
def writePtes (s : State) (ctx : Nat) (ptes : List (Nat × W64)) : State :=
  let m := ptes.foldl (fun m p => memWriteN m p.1 8 p.2.toNat) s.mem
  { s with mem := m, dies := s.dies.map (fun d => { d with tlb := d.tlb.filter (fun e => e.1 != ctx) }) }

/-- The records of a warp that hold a lane of a mask, in the order in which their faults were raised (R264):
(seq, record). -/
def recsOf (w : Warp) (m : LMask) : Cells Nat :=
  (List.range 4).foldl (fun c n =>
    match w.frAt n with
    | some r => if (r.txn.mask &&& m) != 0 then cput c r.seq n else c
    | none => c) []

end Sys2Proof.Machine
end

