-- ==== Sys2Proof/Machine/System.lean ====
section
/-! DEFINITION. System instructions (R258 to R280): TRAP, BPT, SVC, RESUME, FREC, FFIX, SRD, SWR, ACCT, CNT
and MARK. -/

namespace Sys2Proof.Machine

/-- Active lanes all at trap depth 1 (R259). -/
def allDeep (c : Cx) : Bool := c.act &&& ~~~c.w.deep == 0

/-! ### TRAP and BPT -/

/-- TRAP (R261). -/
def execTrap (h : Hd) (code : BitVec 16) (s : State) : Out :=
  runOp (.trap h code) s fun c s =>
    if c.act = 0 then .next (s.done c)
    else .next ((takeTrap s c.iss.warp c.g.pos c.iss.f code ((lanesOf c.act).map (fun l => (l, .userTrap)))).doneTrap c c.act)

/-- A STOP record of lanes of a warp (R349). -/
def stopTrace (s : State) (wid : Nat) (code : Nat) (m : LMask) (pc : W64) : State :=
  let w := s.warp wid
  let t := w.thread (lowLane m)
  let ipc := match t.intr with | some i => if t.depth then i.pos.pc.toNat else 0 | none => 0
  traceEmit s (s.block w.block).ctx w.core w.quad
    { kind := 3, code := code, mask := m, pc := pc, name := laneName s w (lowLane m), arg0 := t.depth.toNat, arg1 := ipc }

/-- BPT (R262, R460): with the id enabled, the active lanes stop after it; the others run on. -/
def execBpt (h : Hd) (id : BitVec 16) (s : State) : Out :=
  runOp (.bpt h id) s fun c s =>
    let hit := (s.ctx (s.block c.w.block).ctx).dbg.any (fun m => nbits m id.toNat id.toNat == 1)
    if c.act = 0 || !hit then .next (s.done c)
    else
      let s1 := stopTrace s c.iss.warp id.toNat c.act c.iss.f.pc
      let s2 := s1.modIss c (fun w =>
        let rest := c.g.mask &&& ~~~c.act
        let w1 := (w.split c.g.gid c.act).modLanes c.act (fun _ t => { t with halt := true })
        let gs := w1.groups.filter (fun g => g.gid == c.g.gid || (rest != 0 && g.gid == w.nextGid))
        gs.foldl (fun w g => w.advance s.ctr g.gid c.iss.f) w1)
      .next (s2.bump.out .issued)

/-! ### SVC -/

/-- What the release part of an SVC waits for (R272): earlier accesses in every domain, at SYSTEM scope; at trap depth 0 those of
fault records too (log 71). -/
def svcWait (s : State) (w : Warp) (m : LMask) : List Acc :=
  [Dom.sc, .tso, .rc, .causal, .bulk].flatMap (fun d => (lanesOf m).flatMap (fenceRel s w d .system))
    ++ (lanesOf m).flatMap (fun l => if (w.thread l).depth then [] else (faultedBefore s w s.ctr l).flatMap (·.of l))

/-- SVC (R271, R272): once released, the call passes to Usxon, whose reply is SVC_REPLY. `Args.vals` holds when it arrived
(R506). -/
def svcOp (i : Instr) (a b : Src) (s : State) : Out :=
  runOp i s fun c s =>
    if c.act = 0 then .next (s.done c)
    else
      let l := lowLane c.act
      let x : Args := { a := BitVec.ofNat 64 (src64 c a l), b := BitVec.ofNat 64 (src64 c b l) }
      let s1 := s.allocate c
      let w := svcWait s c.w c.g.mask
      if w = [] then .next (suspendIssued s1 c [] (.usxon c.act { x with vals := [(0, s.ctr)] }) .trap)
      else .next (suspendIssued s1 c [] (.issued (waitCause w) c.act x) (waitCause w))

def execSvcInfo (h : Hd) (d : Dv) (a b : Src) (s : State) : Out := svcOp (.svcInfo h d a b) a b s
def execSvcReside (h : Hd) (d : Dv) (a b : Src) (s : State) : Out := svcOp (.svcReside h d a b) a b s
def execSvcNotify (h : Hd) (d : Dv) (a b : Src) (s : State) : Out := svcOp (.svcNotify h d a b) a b s
def execSvcBias (h : Hd) (d : Dv) (a b : Src) (s : State) : Out := svcOp (.svcBias h d a b) a b s
def execSvcUndefined (h : Hd) (d : Dv) (n : BitVec 8) (a b : Src) (s : State) : Out := svcOp (.svcUndefined h d n a b) a b s

/-! ### RESUME: THE RETURN FROM A TRAP -/

/-- An access of a record is deferred behind one of its lane that has faulted again in this RESUME (R197): those have
records with a `seq` from `lim` on. -/
def behindAgain (s : State) (w : Warp) (lim : Nat) (t : Txn) (l : Nat) : Bool :=
  (w.fr.filterMap id ++ ((s.core w.core).pfq.filter (fun x => x.1 == w.id)).map (·.2)).any
    (fun r => lim ≤ r.seq && r.txn.id < t.id && hasLane r.txn.mask l && defers r.txn t l)

/-- Step 2 of R270 on one lane of record n: done, or its fault; true while it must wait, and the lanes behind it with
it. -/
def resumeLane (wid n lim : Nat) (p : State × List (Nat × Kind × Nat) × Bool) (l : Nat) : State × List (Nat × Kind × Nat) × Bool :=
  match p with
  | (s, bad, true) => (s, bad, true)
  | (s, bad, false) =>
    match (s.warp wid).frAt n with
    | none => (s, bad, false)
    | some r =>
      if !hasLane r.txn.mask l then (s, bad, false)
      else if behindAgain s (s.warp wid) lim r.txn l then (s, bad ++ [(l, .deferred, 0)], false)
      else
        match replayLane s wid r.txn l with
        | .wait => (askRec wid n [l] s, bad, true)
        | .fault k v => (s, bad ++ [(l, k, v)], false)
        | .ok s1 t =>
          (s1.modWarp wid (fun w => { w with fr := w.fr.modify n (fun r => r.map (fun r => { r with txn := { t with mask := t.mask &&& ~~~laneBit l } })) }), bad, false)

/-- Lanes of record n that faulted again leave it and fill a new record (R270, R197); deferred ones fill another. -/
def faultAgain (s : State) (wid n : Nat) (bad : List (Nat × Kind × Nat)) : State :=
  match (s.warp wid).frAt n with
  | none => s
  | some r =>
    let mask := fun (l : List (Nat × Kind × Nat)) => maskOf (fun i => l.any (fun x => x.1 == i))
    let here := bad.filter (fun x => x.2.1 != .deferred)
    let f := mask here
    let d := mask bad &&& ~~~f
    let s1 := leaveRec s wid n r.txn (f ||| d)
    let s2 := match here with
      | [] => s1
      | (_, k, v) :: _ => (placeRec s1 wid ⟨r.txn.part f, k, v, s1.ctr, r.txn.userLanes f⟩).bump
    if d = 0 then s2 else recordDeferred s2 wid r.txn d

/-- Step 2 of R270: replays what the records hold of the lanes, oldest record first, as pending faults
move up; true while an access must wait. -/
def resumeReplay (wid : Nat) (m : LMask) (lim : Nat) : Nat → State → State × Bool
  | 0, s => (s, false)
  | n + 1, s =>
    match (recsOf (s.warp wid) m).filter (fun x => decide (x.1 < lim)) with
    | [] => (s, false)
    | (_, r) :: _ =>
      let (s1, bad, waits) := (lanesOf m).foldl (resumeLane wid r lim) (s, [], false)
      let s2 := if bad = [] then tidyRecs s1 wid else faultAgain s1 wid r bad
      if waits then (s2, true) else resumeReplay wid m lim n s2

/-- The lanes that have faulted again in this RESUME (R270): those with a record from `lim` on. -/
def faultedAgain (s : State) (w : Warp) (lim : Nat) : LMask :=
  (w.fr.filterMap id ++ ((s.core w.core).pfq.filter (fun x => x.1 == w.id)).map (·.2)).foldl
    (fun m r => if lim ≤ r.seq then m ||| r.txn.mask else m) 0

/-- The latch that RESUME.NEXT writes for a skipped instruction (R270): its value in a lane. -/
def skippedLatch (rf : RegFile) (draw l : Nat) (p : Shape) : W64 :=
  let unk := Config.unknown64 (draw * 256 + 192 + l)
  if p.lt.isNone || p.d then unk
  else
    match p.dst with
    | .none => unk
    | .v r n => if (List.range n).all (fun i => rf.has (r + i)) then latchVal draw l n (vgroup rf r l n) else unk
    | .s r n => latchVal draw l n (rf.sget r).toNat
    | .q r => latchVal draw l 1 (hasLane (rf.pred r) l).toNat

/-- The latches with which a lane returns (R270 step 3). -/
def backLatches (rf : RegFile) (draw l : Nat) (i : Interrupted) (next : Bool) : Latches :=
  match next && i.kind != .memPark, i.pos.run[i.pos.off]? with
  | true, some f =>
    let p := match decodeWord f.word with | .ok x => (shape x).getD { h := default } | _ => { h := default }
    i.lat.set (nbits f.word.toNat 68 67) (skippedLatch rf draw l p)
  | _, _ => i.lat

/-- Where a lane returns to (R270 step 4): a run start, or a position inside a run. A run that could not be fetched whole
holds the one instruction at its start, where its trap was taken (R54, R57). -/
def backPos (i : Interrupted) (next : Bool) : Pos :=
  if i.kind = .memPark then ⟨i.pos.start, [], 0⟩
  else if next then
    match i.pos.run[i.pos.off]? with
    | some f =>
      if f.ends || !(i.pos.run.getLast?.any (·.ends)) then ⟨f.next, [], 0⟩ else { i.pos with off := i.pos.off + 1 }
    | none => i.pos
  else i.pos

/-- A lane returns from its handler (R270 steps 3 and 4); lanes that come back into one run instance at one
offset are one subgroup: those from `base` up are this RESUME's. -/
def returnLane (draw base : Nat) (again : LMask) (next : Bool) (w : Warp) (l : Nat) : Warp :=
  let t := w.thread l
  match t.intr with
  | none => w
  | some i =>
    let p := backPos i next
    let w1 := w.modThread l (fun t => { t with depth := false, trec := none, intr := none, stop := hasLane again l, st := .live })
    if p.off = 0 then w1.land draw l p.start []
    else
      let w2 := w1.modThread l (fun t => { t with lat := backLatches w.rf draw l i next })
      match w2.groups.find? (fun g => base ≤ g.gid && g.pos == p && g.runId == i.runId) with
      | some g => w2.modGroup g.gid (fun g => { g with mask := g.mask ||| laneBit l })
      | none => { w2 with groups := w2.groups ++ [⟨w2.nextGid, laneBit l, p, none, i.runId, []⟩], nextGid := w2.nextGid + 1 }

/-- RETURNING FROM A TRAP (R270): the lanes leave the handler and return. -/
def returnLanes (s : State) (wid gid : Nat) (m again : LMask) (next : Bool) : State :=
  (s.modWarp wid (fun w =>
    let w1 := { (w.leave gid m) with handler := w.handler &&& ~~~m }
    (lanesOf m).foldl (returnLane s.ctr w1.nextGid again next) w1)).bump

/-- RESUME (R270, R462). `Args.vals` holds when it issued: records from then on are of its own replay. -/
def resumeStep (next : Bool) (c : Cx) (x : Args) (s : State) : Prog :=
  if !allDeep c then .trap .illegal
  else
    match handlerRelease c s with
    | none => .wait .engine s
    | some s1 =>
      let fuel := 4 + (s1.core c.iss.core).pfq.length
      let lim := cget x.vals 0 0
      match resumeReplay c.iss.warp c.act lim fuel s1.bump with
      | (s2, true) => .wait .memory s2
      | (s2, false) => .done (returnLanes s2 c.iss.warp c.g.gid c.act (faultedAgain s2 (s2.warp c.iss.warp) lim) next)

/-- What a RESUME keeps while it waits. -/
def resumeArgs (_ : Cx) (s : State) : Args := { vals := [(0, s.ctr)] }

/-- A RESUME replays what its lanes' records hold afresh: host pages that were denied are asked for again (R270, R453). -/
def resumeOp (next : Bool) (c : Cx) (s : State) : Out :=
  waitOp resumeArgs (resumeStep next) c (if allDeep c then reaskWarp s c.iss.warp c.act (fun _ => true) else s)

def execResume (h : Hd) (s : State) : Out := runOp (.resume h) s (resumeOp false)
def execResumeNext (h : Hd) (s : State) : Out := runOp (.resumeNext h) s (resumeOp true)

/-! ### FREC -/

/-- The status word of a full record (R264). -/
def recStatus (w : Warp) (r : FaultRec) : Nat :=
  1 + domCode r.txn.dom * 2 + scopeCode r.txn.scope * 2 ^ 4 + r.txn.kind.writes.toNat * 2 ^ 7 + kindCode r.kind * 2 ^ 8
    + Nat.log2 r.txn.size * 2 ^ 16 + (if r.kind = .walk then r.level else 0) * 2 ^ 19 + olderOf w r * 2 ^ 21

/-- The data that a record holds for a lane (R263): stored bytes, an atomic's operand, CAS's compare and new
values. -/
def recData (t : Txn) (l : Nat) : Nat :=
  match t.kind with
  | .store => (t.of l).foldl (fun r a => r + a.data * 256 ^ a.part) 0
  | .atomic op wd _ =>
    let a := (t.of l).headD default
    if op = .cas then a.cmp + a.data * 2 ^ (8 * atomBytes op wd) else a.data
  | _ => 0

/-- A field of a fault record in a lane (R263). The IA of a deferred access that has none is its offset in the scratchpad or the
slice, and 0 for a fence or bridge (DESIGN CHOICE, log 90). -/
def frecField (w : Warp) (r : FaultRec) (l f : Nat) : Nat :=
  if f = 0 then recStatus w r
  else if f = 1 then r.txn.mask.toNat
  else if !hasLane r.txn.mask l then 0
  else if f = 2 then r.txn.f.pc.toNat
  else if f = 3 then ((r.txn.of l).headD default).key
  else if f ≤ 6 then nbits r.txn.f.word.toNat (32 * f - 97) (32 * f - 128)
  else nbits (recData r.txn l) (32 * f - 193) (32 * f - 224)

/-- A field of a lane's trap record (R263): 0 at depth 0 (R259). -/
def trecField (t : Thread) (f : Nat) : Nat :=
  match t.depth, t.trec with
  | true, some r =>
    if f = 0 then kindCode r.kind
    else if f = 1 then r.mask.toNat
    else if f = 2 then r.pc.toNat
    else if f = 3 then r.code.toNat
    else if r.kind = .memPark then 0
    else nbits r.word.toNat (32 * f - 97) (32 * f - 128)
  | _, _ => 0

def execFrec (h : Hd) (d : Dv) (field : BitVec 8) (record : BitVec 4) (s : State) : Out :=
  runLanes (.frec h d field record) s none (if field = 2 || field = 3 then 2 else 1) fun c l =>
    if record = 4 then ⟨trecField (c.w.thread l) field.toNat, 0⟩
    else match c.w.frAt record.toNat with
      | some r => ⟨frecField c.w r l field.toNat, 0⟩
      | none => ⟨0, 0⟩

/-! ### FFIX -/

/-- A predicate result in the active lanes. -/
def predRes (c : Cx) (m : LMask) : List (Nat × Nat) := (lanesOf c.act).map (fun l => (l, (hasLane m l).toNat))

/-- The active lanes that record N holds, when FFIX.MAP or FFIX.EMUL may act on it (R266). -/
def fixable (c : Cx) (n : Nat) : Option FaultRec :=
  match c.w.frAt n with
  | some r => if olderOf c.w r = 0 && (r.txn.mask &&& c.act) != 0 then some r else none
  | none => none

/-- FFIX.MAP after Usxon's answer, or on deferred lanes (R267): the lanes' accesses are performed, but for the
lanes of the mask `x.b`, whose pages were declined. -/
def ffixStep (n : Nat) (c : Cx) (x : Args) (s : State) : Prog :=
  match fixable c n with
  | none => .done (writeRes c none 1 (predRes c 0) s)
  | some r =>
    match replayRec s c.iss.warp n (lanesOf (r.txn.mask &&& c.act &&& ~~~BitVec.ofNat 32 x.b.toNat)) with
    | none => .wait .translation (askRec c.iss.warp n (lanesOf c.act) s)
    | some (s1, m) => .done (writeRes c none 1 (predRes c m) (tidyRecs s1 c.iss.warp))

/-- FFIX.MAP (R267). -/
def execFfixMap (h : Hd) (d : Dv) (n : BitVec 2) (s : State) : Out :=
  runOp (.ffixMap h d n) s fun c s =>
    if c.act = 0 then .next (s.done c)
    else if !allDeep c then .next (s.trapAll c .illegal)
    else
      match fixable c n.toNat with
      | none => .next ((writeRes c none 1 (predRes c 0) s).done c)
      | some r =>
        if r.kind = .deferred then
          match ffixStep n.toNat c {} s with
          | .done s1 => .next (s1.done c)
          | .trap k => .next (s.trapAll c k)
          | .wait why s1 | .part _ why s1 => .next (suspendIssued s1 c [] (.issued why c.act {}) why)
        else .next (suspendIssued s c [] (.usxon c.act {}) .translation)

/-- Lanes leave a record without their accesses (R268, R269): a load or an ATOM gets the given values, a
MONITOR is disarmed. -/
def disposeLanes (s : State) (c : Cx) (n : Nat) (r : FaultRec) (m : LMask) (val : Nat → Nat) : State :=
  let s1 := if r.txn.kind.delivers then (lanesOf m).foldl (fun s l => deliverLane s c.iss.warp r.txn l (val l)) s else s
  let s2 := if r.txn.kind = .monitor && m ≠ 0 then s1.modIss c (fun w => { w with mon := { w.mon with armed := false } }) else s1
  leaveRec s2 c.iss.warp n r.txn m

/-- FFIX.EMUL as it reads the data group of a record's load or ATOM (R268). -/
def Cx.emul (c : Cx) (o : Opd) : Cx := { c with p := { c.p with srcs := [o] } }

/-- FFIX.EMUL (R268): its data group has the shape of the record's load or ATOM; every register of it is checked as a source is
(R21, R196, R280). -/
def execFfixEmul (h : Hd) (d : Dv) (n : BitVec 2) (dat : Src) (s : State) : Out :=
  runOp (.ffixEmul h d n dat) s fun c s =>
    if c.act = 0 then .next (s.done c)
    else if !allDeep c then .next (s.trapAll c .illegal)
    else
      match fixable c n.toNat with
      | none => .next ((writeRes c none 1 (predRes c 0) s).done c)
      | some r =>
        let k := max 1 r.txn.nregs
        let o : Opd := .grp dat k
        let c' := c.emul o
        if r.txn.kind.delivers && !o.ok then .next (s.trapAll c .illegal)
        else if r.txn.kind.delivers && (llrHold c.w c.g c'.p || (!c.w.namesLoaded c.g c'.p && c'.owed s)) then .next (s.out (.held .dependence))
        else if r.txn.kind.delivers && c.w.namesLoaded c.g c'.p then .next (s.trapAll c .illegal)
        else if r.txn.kind.delivers && c'.p.reads.any (fun x => !c.rf.has x.1) then .next (s.trapAll c .regUndef)
        else
          let m := r.txn.mask &&& c.act
          let val := fun l => srcVal c none k dat l % 256 ^ r.txn.size
          .next ((writeRes c none 1 (predRes c m) (disposeLanes s c n.toNat r m val)).done (if r.txn.kind.delivers then c' else c))

/-- FFIX.SKIP (R269). -/
def execFfixSkip (h : Hd) (n : BitVec 2) (s : State) : Out :=
  runOp (.ffixSkip h n) s fun c s =>
    if c.act = 0 then .next (s.done c)
    else if !allDeep c then .next (s.trapAll c .illegal)
    else
      match c.w.frAt n.toNat with
      | none => .next (s.done c)
      | some r => .next ((disposeLanes s c n.toNat r (r.txn.mask &&& c.act) (fun _ => 0)).done c)

/-! ### Special registers -/

/-- The value of a special register in a lane (R44). -/
def srVal (s : State) (c : Cx) (i l : Nat) : Nat :=
  let w := c.w
  let b := s.block w.block
  let x := s.launch b.launch
  match i with
  | 0 => l
  | 1 => w.index * 32 + l
  | 2 => w.index
  | 3 => match x.team with | some n => w.index / n | none => 0xFFFFFFFF
  | 4 => b.index
  | 5 => b.rank
  | 6 => x.lid.toNat
  | 7 => w.core
  | 8 => w.quad
  | 9 => dieOf w.core
  | 10 => s.devId.toNat
  | 11 => w.live.toNat
  | 12 => c.act.toNat
  | 13 => b.variant
  | 14 => c.rf.fpctl.toNat
  | 15 => (w.thread l).fpstat.toNat
  | 16 => b.clock
  | 17 => s.time
  | 18 => c.rf.footprint
  | _ => (w.thread l).depth.toNat

/-- A long-latency floating-point result is outstanding for the active lanes (R168). -/
def fpOutstanding (c : Cx) : Bool := c.w.llr.any (fun r => (r.act &&& c.act) != 0)

def execSrd (h : Hd) (d : Dv) (idx : BitVec 8) (s : State) : Out :=
  runOp (.srd h d idx) s fun c s =>
    if idx = 15 && fpOutstanding c then .next (s.out (.held .dependence))
    else .next (lanesDone c none (if srWide idx.toNat then 2 else 1) (laneResults c (fun c l => ⟨srVal s c idx.toNat l, 0⟩)) s)

/-- Reserved bits of FPCTL (R38). -/
def fpctlReserved (v : Nat) : Bool := v / 2 ^ 11 != 0 || nbits v 5 5 == 1

/-- SWR (R42, R43, R168, R274). -/
def execSwr (h : Hd) (idx : BitVec 8) (a : Src) (s : State) : Out :=
  runOp (.swr h idx a) s fun c s =>
    if c.act = 0 then .next (s.done c)
    else if idx = 14 then
      let v := src32 c a (lowLane c.act)
      if fpctlReserved v then .next (s.trapAll c .illegal)
      else .next ((s.modIss c (fun w => { w with rf := { w.rf with fpctl := BitVec.ofNat 32 v } })).done c)
    else if fpOutstanding c then .next (s.out (.held .dependence))
    else
      let put := fun l (t : Thread) => { t with fpstat := clearFlags t.fpstat (BitVec.ofNat 32 (src32 c a l)) }
      .next ((s.modIss c (fun w => w.modLanes c.act put)).done c)

/-! ### Accounts, counters and marks -/

/-- A context's count of a cause on a quadrant: stored and live (R339, R340); 17 is HELD. -/
def quadCount (s : State) (ctx core quad cause : Nat) : Nat :=
  cget (s.ctx ctx).acct 0 (72 * core + 18 * quad + cause) + cget (s.core core).acct 0 (18 * quad + cause)

/-- The count of the whole core, the sum of its quadrants (R339). -/
def coreCount (s : State) (ctx core cause : Nat) : Nat := ((List.range 4).map (fun q => quadCount s ctx core q cause)).sum

/-- ACCT (R275): a live read, or the warp's snapshot, 0 before its first. -/
def execAcct (h : Hd) (d : Dv) (cause : BitVec 8) (quad saved : Bool) (s : State) : Out :=
  runLanes (.acct h d cause quad saved) s none 2 fun c _ =>
    let x := (s.block c.w.block).ctx
    let n := cause.toNat
    if saved then ⟨c.w.snap.getD (n + if quad then 18 else 0) 0 % 2 ^ 64, 0⟩
    else if quad then ⟨quadCount s x c.w.core c.w.quad n % 2 ^ 64, 0⟩
    else ⟨coreCount s x c.w.core n % 2 ^ 64, 0⟩

/-- ACCT.SNAP (R275). -/
def execAcctSnap (h : Hd) (s : State) : Out :=
  runOp (.acctSnap h) s fun c s =>
    let x := (s.block c.w.block).ctx
    let snap := (List.range 18).map (coreCount s x c.w.core) ++ (List.range 18).map (quadCount s x c.w.core c.w.quad)
    .next ((s.modIss c (fun w => if c.act = 0 then w else { w with snap := snap })).done c)

/-- An event counter of the issuing context on a core (R276, R340, R342). -/
def cntVal (s : State) (ctx core n : Nat) (shadow : Bool) : Nat :=
  if 48 ≤ n || !(s.ctx ctx).cntMask.getLsbD n then 0
  else if shadow then (if (s.core core).shCtx = ctx then cget (s.core core).shCnt 0 n else 0)
  else cget (s.ctx ctx).cnt 0 (48 * core + n) + cget (s.core core).cnt 0 n

def execCnt (h : Hd) (d : Dv) (n : BitVec 6) (shadow : Bool) (s : State) : Out :=
  runLanes (.cnt h d n shadow) s none 2 fun c _ =>
    ⟨cntVal s (s.block c.w.block).ctx c.w.core n.toNat shadow % 2 ^ 64, 0⟩

/-- MARK (R277, R349). -/
def execMark (h : Hd) (code : BitVec 16) (a : Src) (s : State) : Out :=
  runOp (.mark h code a) s fun c s =>
    if c.act = 0 then .next (s.done c)
    else
      let l := lowLane c.act
      let r : TraceRec := { kind := 2, code := code.toNat, mask := c.act, pc := c.iss.f.pc, name := laneName s c.w l, arg0 := src32 c a l }
      .next ((traceEmit s (s.block c.w.block).ctx c.iss.core c.iss.quad r).done c)

end Sys2Proof.Machine
end

