-- ==== Sys2Proof/Machine/Fetch.lean ====
section
/-! DEFINITION. Fetching runs (R48 to R57, R315) and the Reckoner (R335 to R342). -/

namespace Sys2Proof.Machine

/-! ### Fetch -/

/-- What reading instruction bytes comes to: a memory-side fault has its report (R56). -/
inductive Fetch
  | got (l : List Fetched)
  /-- 24 instructions without an end (R54) -/
  | long (f : Fetched)
  /-- a window is missing or denies X (R57) -/
  | range (pc : W64)
  | fault (x : FetchFault)
  /-- a peer line that is not held here (R522), with the report should its home refuse it (R521) -/
  | peer (line : Nat) (x : FetchFault)
  /-- a host page that no ATS reply has come for (R453), by an intermediate address, with the report should the host deny it -/
  | asked (ia : Nat) (x : FetchFault)
  | wait
  deriving DecidableEq, Repr, Inhabited

/-- One byte of an instruction (R57, R448, R452, R457). -/
inductive FByte
  | got (b : Byte)
  | range
  | fault (k : Kind) (level ia : Nat)
  | peer (line ia : Nat)
  | asked (ia : Nat)
  | wait
  deriving DecidableEq, Repr, Inhabited

/-- The image that a launch runs. -/
def Launch.image (l : Launch) : W64 := BitVec.ofNat 64 (l.field 63 0)

/-- The instruction lines of a warp's image that its core holds or has asked for (R52). -/
def askedCode (s : State) (w : Warp) : List CodeLine :=
  (s.core w.core).code.filter (fun h => h.ctx == (s.block w.block).ctx && h.image == (s.launch (s.block w.block).launch).image)

/-- Those that it holds. -/
def heldCode (s : State) (w : Warp) : List CodeLine := (askedCode s w).filter (fun h => decide (h.due ≤ (s.core w.core).clock))

/-- An instruction byte: memory's, as it is read under a key and tweak, or, where the core holds its line with another value, either of
the two (R52). -/
def codeByte (s : State) (held : List CodeLine) (x va l : Nat) : Byte :=
  let now := seenByte s x l
  match held.find? (fun h => h.line == l / 128) with
  | some h =>
    if now = BitVec.ofNat 8 (h.data.toNat / 256 ^ (l % 128)) then now
    else if (Config.unknown64 (s.ctr * 256 + 240 + va / 64 % 8)).getLsbD (va % 64) then BitVec.ofNat 8 (h.data.toNat / 256 ^ (l % 128))
    else now
  | none => now

/-- The byte at a virtual address, through a window with X and a leaf with R (R57): of a peer's line once it is held here
(R522), and of a line of this device once no peer owns it (R523). A place above the device memory is NOT-PRESENT (log 35). -/
def fetchByte (s : State) (die : Nat) (c : Ctx) (held : List CodeLine) (va : Nat) : FByte :=
  if !canonical va then .range
  else
    match findWindow c.win va with
    | none => .range
    | some i =>
      let w := c.win.getD i 0
      if !winX w then .range
      else
        let ia := windowIa w va
        match translate s die c ia ⟨true, false, none⟩ with
        | .loc l =>
          if Config.deviceBytes ≤ l && l < peerBase then .fault .notPresent 0 ia
          else if poisoned s l 1 then .fault .poison 0 ia
          else if !peerOk s l false then .peer ((l - peerBase) / 128) ia
          else if !dirOk s l false then .wait
          else .got (codeByte s held (sealOf s c.id ia l) va l)
        | .fault k v => .fault k v ia
        | .asked => if inHost c ia then .asked ia else .wait
        | _ => .wait

/-- The bytes of an instruction from an address on, and the first obstacle among them. -/
def fetchBytes (s : State) (die : Nat) (c : Ctx) (held : List CodeLine) (va : Nat) : Nat → List Byte × Option FByte
  | 0 => ([], none)
  | n + 1 =>
    match fetchByte s die c held va with
    | .got b => let r := fetchBytes s die c held (va + 1) n; (b :: r.1, r.2)
    | x => ([], some x)

/-- An instruction's bytes lie in two lines; one whose first byte is not read has a length that is not known (R56). -/
def straddles (s : State) (pc : W64) (len : Option Nat) : Bool :=
  let long := match len with
    | some n => n == 12
    | none => (Config.unknown64 (s.ctr * 256 + 252)).getLsbD 0
  decide (128 < pc.toNat % 128 + (if long then 12 else 6))

/-- The instruction at an address (R48, R49, R51). -/
def fetchOne (s : State) (die : Nat) (c : Ctx) (held : List CodeLine) (pc : W64) : Fetch :=
  let stop := fun (n : Option Nat) (x : FByte) =>
    match x with
    | .fault k v ia => Fetch.fault ⟨k, v, pc, straddles s pc n, ia / 128 * 128⟩
    | .peer l ia => .peer l ⟨.readDenied, 0, pc, straddles s pc n, ia / 128 * 128⟩
    | .asked ia => .asked ia ⟨.hostPage, 0, pc, straddles s pc n, ia / 128 * 128⟩
    | .wait => .wait
    | _ => .range pc
  match fetchByte s die c held pc.toNat with
  | .got b =>
    let n := if b.toNat % 2 = 1 then 12 else 6
    match fetchBytes s die c held (pc.toNat + 1) (n - 1) with
    | (_, some x) => stop (some n) x
    | (bs, none) =>
      match takeForm (b :: bs) with
      | some f => .got [⟨pc, f.word, f.len, f.bad⟩]
      | none => .range pc
  | x => stop none x

/-- A run of at most n instructions (R53, R54). -/
def fetchFrom (s : State) (die : Nat) (c : Ctx) (held : List CodeLine) : Nat → W64 → Fetch
  | 0, _ => .got []
  | n + 1, pc =>
    match fetchOne s die c held pc with
    | .got [f] =>
      if f.ends then .got [f]
      else
        match fetchFrom s die c held n f.next with
        | .got l => .got (f :: l)
        | x => x
    | x => x

/-- The run at a run start (R53, R54). -/
def fetchRun (s : State) (w : Warp) (pc : W64) : Fetch :=
  match fetchFrom s (dieOf w.core) (s.ctx (s.block w.block).ctx) (heldCode s w) 24 pc with
  | .got l => if l.getLast?.any (·.ends) then .got l else .long (l.headD default)
  | x => x

/-- The lines that an instruction's bytes lie in: their intermediate addresses, and their places divided by 128. -/
def codeSpots (s : State) (w : Warp) (f : Fetched) : List (Nat × Nat) :=
  let c := s.ctx (s.block w.block).ctx
  [f.pc.toNat, f.pc.toNat + f.len - 1].flatMap (fun va =>
    match findWindow c.win va with
    | none => []
    | some i =>
      let ia := windowIa (c.win.getD i 0) va
      match translate s (dieOf w.core) c ia ⟨true, false, none⟩ with
      | .loc l => [(ia, l / 128)]
      | _ => [])

/-- The places of those lines, divided by 128. -/
def codeLines (s : State) (w : Warp) (f : Fetched) : List Nat := (codeSpots s w f).map (·.2)

/-- A line that the core has not asked for yet is asked for, with the walk that it takes; it is there from cycle `due` on. One
that is there, or comes sooner, stays (R52, R342). -/
def holdLine (w : Warp) (due : Nat) (s : State) (x : Nat × Nat) : State :=
  let ctx := (s.block w.block).ctx
  let image := (s.launch (s.block w.block).launch).image
  let same := fun (h : CodeLine) => h.ctx == ctx && h.image == image && h.line == x.2
  let k := s.core w.core
  if k.code.any same then s.modCore w.core (fun k => { k with code := k.code.map (fun h => if same h && decide (due < h.due) then { h with due := due } else h) })
  else (s.walkFor w.core (s.ctx ctx) x.1).modCore w.core (fun k =>
    { k with code := k.code ++ [⟨ctx, image, x.2, lineNow s ctx (x.1 / 128 * 128) (128 * x.2), due⟩] })

/-- The core holds the lines of a fetched run (R52). -/
def holdCode (s : State) (w : Warp) (run : List Fetched) : State :=
  (run.flatMap (codeSpots s w)).foldl (holdLine w (s.core w.core).clock) s

/-- The core asks for the lines of a run that it does not hold: they come as the memory has them, in a later cycle that is a
free value (R284, R315, log 20). -/
def askCode (s : State) (w : Warp) (run : List Fetched) : State :=
  let wait := (Config.unknown64 (s.ctr * 256 + 239)).toNat
  ((run.flatMap (codeSpots s w)).foldl (holdLine w ((s.core w.core).clock + 1 + wait)) s).bump

/-- The cores discard the lines that they hold of an image (R52). -/
def dropCode (s : State) (ctx : Nat) (image : W64) : State :=
  { s with cores := s.cores.map (fun k => { k with code := k.code.filter (fun h => h.ctx != ctx || h.image != image) }) }

/-- A subgroup that waits for its run to be fetched. -/
def Group.unfetched (g : Group) : Bool := g.wait.isNone && g.pos.off == 0 && g.pos.run.isEmpty

/-- A warp whose block runs: nothing kills, moves or saves it. -/
def blockRuns (s : State) (w : Warp) : Bool :=
  let b := s.block w.block
  b.kill.isNone && !b.ended && !b.saved && (match b.vp with | .moving .. | .moved .. => false | _ => true)

/-- The instruction at a run start where a trap is taken before the run is fetched (R54, R57); one whose bytes cannot be
read is UNKNOWN, its length too. -/
def firstAt (s : State) (w : Warp) (pc : W64) : Fetched :=
  match fetchOne s (dieOf w.core) (s.ctx (s.block w.block).ctx) (heldCode s w) pc with
  | .got [f] => f
  | _ =>
    let x := fun (n : Nat) => (Config.unknown64 (s.ctr * 256 + n)).toNat
    ⟨pc, BitVec.ofNat 96 (x 254 + x 255 * 2 ^ 64), if x 253 % 2 = 1 then 12 else 6, false⟩

/-- A subgroup parks at its run start with the report of a fetch fault (R56). So does a handler's: R57 has Usxon resolve every
fault of a fetch, which the model takes to hold at trap depth 1 too, though R259 and R472 make a memory-side fault raised by a
lane there unrecoverable (DESIGN CHOICE, log 80). -/
def Warp.parkFetch (w : Warp) (g : Group) (x : FetchFault) : Warp :=
  (w.leave g.gid g.mask).modLanes g.mask (fun _ t => { t with st := .fetchStopped g.pos.start x })

/-- RUN_FETCH (R55): the run is fetched whole; a fault parks the subgroup at the run start (R56), a missing
window or a run without an end traps there (R54, R57), once nothing of the last run can trap any more (R435). A run whose
translation is on its way is fetched later. -/
def execRunFetch (wid grp : Nat) (s : State) : Out :=
  let w := s.warp wid
  match w.group? grp with
  | none => .next s
  | some g =>
    if !g.unfetched || !blockRuns s w then .next s
    else
      let first := firstAt s w g.pos.start
      let trap := fun (f : Fetched) (k : Kind) =>
        Host.Outcome.next (takeTrap s wid { g.pos with run := [first] } f 0 ((lanesOf g.mask).map (fun l => (l, k)))).bump
      match fetchRun s w g.pos.start with
      | .got l => .next ((holdCode s w l).modWarp wid (fun w => w.modGroup grp (fun g => { g with pos := { g.pos with run := l } }))).bump
      | .peer .. | .wait => .next s
      | .asked ia _ => .next (askAts s (dieOf w.core) (s.ctx (s.block w.block).ctx) ia)
      | .long f => if g.after ≠ [] then .next s else trap { f with pc := g.pos.start } .illegal
      | .range pc => if g.after ≠ [] then .next s else trap (firstAt s w pc) .range
      | .fault x =>
        if g.after ≠ [] then .next s
        else
          let c := s.ctx (s.block w.block).ctx
          .next (tellBad ((s.walkFor w.core c x.line).modWarp wid (fun w => w.parkFetch g x)) c x.line).bump

/-! ### The Reckoner -/

/-- The PC where no warp is resident (R337). -/
def noPc : W64 := 0xFFFFFFFFFFFFFFFF

/-- Charge records are enabled for a context: kind 1 of its trace ring's mask (R341, R348). -/
def chargesOn (s : State) (die : Nat) (c : Ctx) : Bool :=
  match c.trace with
  | none => false
  | some r => match softRead s die c (r.va + 16) 1 with | some m => m / 2 % 2 == 1 | none => false

/-- The code of a cause (R335). -/
def causeCode : Cause → Nat
  | .issued => 0 | .noWarp => 1 | .preempt => 2 | .trap => 3 | .switch => 4 | .fetch => 5 | .swap => 6
  | .regAlloc => 7 | .barrier => 8 | .engine => 9 | .translation => 10 | .memory => 11 | .dependence => 12
  | .pipe => 13 | .arbitration => 14 | .singlePc => 15 | .throttle => 16

/-- The bin's contents as a CHARGE record (R341, R349). -/
def chargeRecord (s : State) (ctx core quad : Nat) (b : Bin) : State :=
  let lid := (s.launch b.launch).lid.toNat
  traceEmit s ctx core quad
    { kind := 1, code := causeCode b.cause, pc := b.pc, name := lid + (2 ^ 40 - 1) * 2 ^ 64 + (2 ^ 10 - 1) * 2 ^ 104, arg0 := b.count }
/-- Of two causes, the one with the lower code (R336). -/
def minCause (a b : Cause) : Cause := if causeCode b < causeCode a then b else a

/-- A slot meets the 64 bins of its quadrant (R341): a match counts; else the bin charged least recently is
written and taken. -/
def binCharge (s : State) (ctx core quad : Nat) (pc : W64) (k : Cause) (launch : Nat) : State :=
  let q := s.quad core quad
  let now := s.ctr
  let same := fun (b : Bin) => b.pc == pc && b.cause == k && b.launch == launch
  match q.bins.find? same with
  | some b =>
    let n : Bin := { b with count := b.count + 1, used := now }
    let full := n.count == 0xFFFFFFFF
    let s1 := s.modQuad core quad (fun q => { q with bins := q.bins.map (fun b => if same b then (if full then { n with count := 0 } else n) else b) })
    if full then chargeRecord s1 ctx core quad n else s1
  | none =>
    let fresh : Bin := ⟨pc, k, launch, 1, now⟩
    if q.bins.length < 64 then s.modQuad core quad (fun q => { q with bins := q.bins ++ [fresh] })
    else
      match q.bins.foldl (fun (o : Option Bin) b => match o with | none => some b | some x => if b.used < x.used then some b else some x) none with
      | none => s
      | some old =>
        let s1 := if old.count = 0 then s else chargeRecord s ctx core quad old
        s1.modQuad core quad (fun q => { q with bins := q.bins.map (fun b => if b == old then fresh else b) })

/-- Charges one slot of a quadrant (R336 to R341). The accounts take it at the end of the core's cycle; bins are kept only
while charge records are enabled. -/
def chargeSlot (s : State) (core quad : Nat) (pc : W64) (k : Cause) (launch : Nat) : State :=
  let s1 := s.modCore core (fun c => { c with due := c.due ++ [(quad, k)] })
  match (s.core core).ctx with
  | some x =>
    if chargesOn s (dieOf core) (s.ctx x) then (binCharge s1 x core quad pc k launch).bump
    else if (s.quad core quad).bins = [] then s1 else s1.modQuad core quad (fun q => { q with bins := [] })
  | none => s1

/-- The slots of a finished cycle join the live counts (R339), HELD with them; a core without a context
charges the idle account (R338). -/
def commitDue (s : State) (core : Nat) : State :=
  let k := s.core core
  let add := fun (base : Nat) (a : Cells Nat) =>
    k.due.foldl (fun a d => cadd (cadd a (base + 18 * d.1 + causeCode d.2) 1) (base + 18 * d.1 + 17) 1) a
  let s1 := s.modCore core (fun c => { c with due := [] })
  match k.ctx with
  | some _ => s1.modCore core (fun c => { c with acct := add 0 c.acct })
  | none => { s1 with idle := add (72 * core) s1.idle }

/-- Writes the nonzero bins of a core's quadrants as CHARGE records (R341). -/
def flushBins (s : State) (core ctx : Nat) : State :=
  (List.range 4).foldl (fun s q =>
    let bs := (s.quad core q).bins
    (bs.foldl (fun s b => if b.count = 0 then s else chargeRecord s ctx core q b) s).modQuad core q (fun x => { x with bins := [] })) s

/-- A core's assignment to a context ends (R338, R340): its live counts are stored, the bins written. -/
def endAssignment (s : State) (core : Nat) : State :=
  match (s.core core).ctx with
  | none => s
  | some x =>
    let s0 := flushBins (commitDue s core) core x
    let k := s0.core core
    let acct := fun (a : Cells Nat) => k.acct.foldl (fun a p => cadd a (72 * core + p.1) p.2) a
    let cnt := fun (a : Cells Nat) => k.cnt.foldl (fun a p => cadd a (48 * core + p.1) p.2) a
    let s1 := s0.modCtx x (fun c => { c with acct := acct c.acct, cnt := cnt c.cnt })
    s1.modCore core (fun c => { c with ctx := none, acct := [], cnt := [], quads := c.quads.map (fun q => { q with arb := none }) })

end Sys2Proof.Machine
end

