-- ==== Sys2Proof/Machine/Issue.lean ====
section
/-! DEFINITION. The issue stage: readiness (R314, R325), waits that end (R318), arbitration (R316 to R321),
long-latency results (R167, R435), the end of a slot and of a cycle. -/

namespace Sys2Proof.Machine

/-! ### Waits that end -/

/-- A warp holds a seat, and its image is not on the move. -/
def Warp.isSeated (w : Warp) : Bool := match w.place with | .seated _ => true | _ => false
/-- A warp's image is on the move (R331). -/
def Warp.moving (w : Warp) : Bool := match w.place with | .movingOut .. | .movingIn _ => true | _ => false

/-- The waits before issue of any instruction (R318). -/
def issueBlock (s : State) (c : Cx) (i : Instr) : Option Cause :=
  match i with
  | .fence _ d scope ord => fenceBlock s c (if ordRel ord then some d else none) (if ordAcq ord then some d else none) d scope
  | .bridge _ d1 d2 scope => fenceBlock s c (some d1) none d2 scope
  | .dkld _ f x dh slot isRef => dkldBlock dh.toNat slot.toNat isRef c (sigArgs f x true c s) s
  | i => (memOpOf i).bind (memBlock s c)


/-- A wait before issue: over, or the cause that now stands. A warp swapped for R18 keeps its wait until it is seated
again (R332). -/
def unissuedNow (s : State) (c : Cx) (i : Instr) (why : Cause) : Option Cause :=
  if why == .regAlloc && (!c.w.isSeated || decide (s.poolFree c.w.core c.w.quad < (newRegs c).length)) then some .regAlloc
  else issueBlock s c i

/-- A wait after issue, tried again (R318). -/
def issuedNow (s : State) (c : Cx) (i : Instr) (a : Args) : State :=
  let wait := fun (k : Cause) => s.modIss c (fun w => w.modGroup c.g.gid (fun g => { g with wait := some (.issued k c.act a) }))
  match i with
  | .exit _ => if mayFault c.w c.act then s else exitDone s c.iss.warp c.g.gid c.iss.f c.act
  | .arrive .. => progWake s c a (releaseStep arriveAct c a s)
  | .bset .. => progWake s c a (releaseStep bsetAct c a s)
  | .rally _ id n => rallyAgain id.toNat n.toNat false c a s
  | .rallyGo _ id n => rallyAgain id.toNat n.toNat true c a s
  | .crally _ => crallyAgain false c a s
  | .crallyGo _ => crallyAgain true c a s
  | .mxacq _ => progWake s c a (mxacqStep c a s)
  | .mma .. | .mxrun .. | .accrd .. | .accwr .. | .acccvt .. =>
    match sigOf i with
    | some (g, _) => progWake s c a (signStep g c a s)
    | none => s
  | .mxwait _ _ cv => progWake s c a (mxwaitStep cv.toNat c a s)
  | .dkld _ _ _ dh slot isRef => progWake s c a (dkldStep dh.toNat slot.toNat isRef c a s)
  | .dkfree _ dh => progWake s c a (dkfreeStep dh.toNat c a s)
  | .accz _ acc => progWake s c a (acczStep acc.toNat c a s)
  | .accstat _ _ acc clr => progWake s c a (accstatStep acc.toNat clr c a s)
  | .opfence _ => progWake s c a (opfenceStep c a s)
  | .xpost _ _ _ n => progWake s c a (xpostStep (n.toNat + 1) c a s)
  | .resume _ => progWake s c a (resumeStep false c a s)
  | .resumeNext _ => progWake s c a (resumeStep true c a s)
  | .ffixMap _ _ n => progWake s c a (ffixStep n.toNat c a s)
  | .svcInfo .. | .svcReside .. | .svcNotify .. | .svcBias .. | .svcUndefined .. =>
    let l := svcWait s c.w c.g.mask
    if l = [] then s.modIss c (fun w => w.modGroup c.g.gid (fun g => { g with wait := some (.usxon c.act { a with vals := [(0, s.ctr)] }) })) else wait (waitCause l)
  | _ =>
    match c.w.txn? a.a.toNat with
    | none => progWake s c a (.done s)
    | some t =>
      if t.kind.shared || txnWaits s c.w t then wait (waitCause (t.accs.filter (fun x => x.st == .issued))) else s.resumed c

/-- One waiting subgroup of a warp is tried again. A stopped one keeps its wait until it is released
(R459). -/
def wakeGroup (wid : Nat) (s : State) (gid : Nat) : State :=
  let w := s.warp wid
  match w.group? gid with
  | none => s
  | some g =>
    if w.halted &&& g.mask ≠ 0 then s
    else
      match g.wait, g.cur with
      | some wt, some f =>
        match decodeWord f.word with
        | .illegal _ => s
        | .ok i =>
          let p := (shape i).getD { h := default }
          match wt with
          | .unissued why =>
            let c := wakeCx s wid g f p (g.mask &&& guardMask w.rf p.h)
            s.modWarp wid (fun w => w.modGroup gid (fun g => { g with wait := (unissuedNow s c i why).map Wait.unissued }))
          | .issued _ act a => issuedNow s (wakeCx s wid g f p act) i a
          | .lanes act vals =>
            match i with
            | .wait .. => if waitOver s w vals then (acquireBoth s w.core).resumed (wakeCx s wid g f p act) else s
            | _ => s
          | _ => s
      | _, _ => s

/-- The waits of a warp are tried again, and its join barriers evaluated (R149: once, after both sides). An image on the
move keeps its waits until it has arrived (R331). -/
def wakeWarp (s : State) (wid : Nat) : State :=
  if !blockRuns s (s.warp wid) || (s.warp wid).moving then s
  else
    let s1 := ((s.warp wid).groups.map (·.gid)).foldl (wakeGroup wid) s
    (s1.modWarp wid (joinsComplete s1.ctr)).bump

/-- The resident warps of a quadrant. -/
def quadWarps (s : State) (core quad : Nat) : List Warp :=
  s.warps.filter (fun w => w.core == core && w.quad == quad &&
    (match w.place with | .ended | .saved => false | _ => true))

/-- The waits of a quadrant's warps are tried again, and its barriers completed; subgroups that then stand at one run
start merge (R125, R322). -/
def wakeQuad (s : State) (core quad : Nat) : State :=
  let q := s.quad core quad
  let s1 := ((quadWarps s core quad).map (·.id)).foldl wakeWarp s
  (quadWarps s1 core quad).foldl (fun s w => s.modWarp w.id (fun w => w.merge (if q.hold == some w.id then q.a.toList ++ q.b.toList else []))) s1

/-! ### Readiness -/

/-- The hub holds the issue of an interface to a budget (R307). -/
def throttled (s : State) (w : Warp) : Bool :=
  let i := s.iface (s.ctx (s.block w.block).ctx).iface
  i.bwOver || i.pwOver

/-- The first instruction of a run that names a register or record pending on a load, an atomic or an
LDREC (R325). -/
def pendingAt (s : State) (w : Warp) (run : List Fetched) : Option Fetched :=
  let l := s.owing w
  run.find? (fun f => match f.decoded with
    | .ok i => (shape i).any (fun p => namesPending l p)
    | .illegal _ => false)

/-- A swap-out under way serves the warp's request (R329, R334). -/
def swapServes (s : State) (w : Warp) : Bool :=
  s.warps.any (fun v => match v.place with | .movingOut _ n => n == w.id | _ => false)

/-- The cause of a wait (R216, R257, R280, R318). -/
def waitWhy (s : State) (w : Warp) (g : Group) : Wait → Cause
  | .unissued c => if c == .regAlloc && swapServes s w then .swap else c
  | .issued c _ _ => c
  | .lanes _ _ | .mwait _ _ | .rally _ => .barrier
  | .resume _ _ _ => .memory
  | .usxon _ _ => if g.cur.any (fun f => f.word.toNat / 2 ^ 86 == 0x384) then .translation else .trap

/-- What keeps a subgroup from issuing, with the PC that its slots are charged to (R314, R325, R337); none
when it is ready. -/
def groupWhy (s : State) (w : Warp) (g : Group) : Option (Cause × W64) :=
  if w.halted &&& g.mask ≠ 0 then some (.trap, g.pc)
  else
    match g.wait with
    | some x => some (waitWhy s w g x, g.pc)
    | none =>
      if g.pos.run.isEmpty then some (.fetch, g.pc)
      else if g.after ≠ [] then some (.dependence, g.pc)
      else if g.pos.off = 0 then (pendingAt s w g.pos.run).map (fun f => (.dependence, f.pc))
      else none

/-- Subgroups in the order of R320: the most lanes first, then the lower PC. -/
def bigger (a b : Group) : Bool := laneCount b.mask < laneCount a.mask || (laneCount a.mask == laneCount b.mask && a.pc.toNat < b.pc.toNat)

/-- The first of a list under an order. -/
def firstBy {α : Type} (lt : α → α → Bool) : List α → Option α
  | [] => none
  | a :: r => some (r.foldl (fun x y => if lt y x then y else x) a)

/-- The ready subgroups of a warp. -/
def readyGroups (s : State) (w : Warp) : List Group := w.groups.filter (fun g => (groupWhy s w g).isNone)

/-- A warp can issue, but for what R314 says of YIELD and other warps. -/
def canIssue (s : State) (w : Warp) : Bool := blockRuns s w && !throttled s w && !(readyGroups s w).isEmpty

/-- Where a lane in no subgroup stands. -/
def lanePc (t : Thread) : W64 :=
  match t.st with
  | .atJoin _ pc | .atVpoint _ pc | .memStopped pc | .fetchStopped pc _ => pc
  | .parked p _ => p.pc
  | .live | .exited => 0

/-- The oldest record that holds a lane. -/
def oldestRec (w : Warp) (l : Nat) : Option FaultRec :=
  ((w.fr.filterMap id).filter (fun r => hasLane r.txn.mask l)).foldl (fun (o : Option FaultRec) r =>
    match o with | none => some r | some x => if r.seq < x.seq then some r else o) none

/-- Usxon resolves a record of the lane before the lane goes on or is vectored (R444, R446). -/
def autoWaits (w : Warp) (l : Nat) : Bool := (oldestRec w l).any (fun r => !hasLane r.user l)

/-- What a lane in no subgroup waits for (R335): barriers, a VPOINT, Usxon's resolution of its records (R444), a trap to be
vectored (R439), a fetch, or the debugger's release (R460). -/
def laneWhy (w : Warp) (l : Nat) : Cause × W64 :=
  let t := w.thread l
  let why := match t.st with
    | .atJoin .. | .atVpoint .. | .live | .exited => Cause.barrier
    | .parked .. | .memStopped _ => if autoWaits w l then .translation else .trap
    | .fetchStopped .. => .fetch
  (if t.halt then .trap else why, lanePc t)

/-- Every warp of the block that has not ended has arrived at VPOINT n (R154). -/
def vpArrived (s : State) (b : Block) (n : Nat) : Bool :=
  (aliveWarps s b).all (fun i =>
    let w := s.warp i
    (lanesOf w.live).all (fun l => match (w.thread l).st with | .atVpoint m _ => m == n | _ => false))

/-- Every transfer and engine operation of the block has joined (R154). -/
def vpJoined (s : State) (b : Block) : Bool :=
  b.reqs.all (fun q => q.st == .done) && !b.cv.any (·.busy) && (s.core b.core).eng.all (fun e => e.block != b.id)

/-- A block at a VPOINT, with all its warps there, waits for its engine operations to join (R154, R156). -/
def vpWaits (s : State) (b : Block) : Bool :=
  match b.vp with
  | .opened n => vpArrived s b n && !vpJoined s b
  | _ => false

/-- What keeps a warp from issuing and where (R337): its subgroup with the most lanes, or its lowest live lane's wait; of
the causes offered, the lowest (R336): a killed block's warps wait as trapped ones do (log 23). Stopped lanes are in no subgroup
(R460), and the slots of an image on the move are SWAP throughout (R331). -/
def warpWhy (s : State) (w : Warp) : Cause × W64 :=
  let b := s.block w.block
  let base := match firstBy bigger (w.groups.filter (fun g => w.halted &&& g.mask == 0)) with
    | some g => (groupWhy s w g).getD ((if throttled s w then .throttle else .barrier), g.pc)
    | none =>
      let x := match firstBy bigger w.groups with
        | some g => (Cause.trap, g.pc)
        | none => laneWhy w (lowLane w.live)
      if vpWaits s b && w.halted &&& w.live == 0 then (.engine, x.2) else x
  let more := (if b.kill.isSome then [Cause.trap] else [])
    ++ (match b.vp with | .moving .. | .moved .. => [.switch] | _ => [])
  if w.moving then (.swap, base.2) else (more.foldl minCause base.1, base.2)

/-- The warp in a seat. -/
def seatWarp (s : State) (core quad seat : Nat) : Option Warp := ((s.quad core quad).seats.getD seat none).map s.warp

/-- The warps that hold the seats of a quadrant (R313), by seat; a warp whose image is on the move holds its seat (R331). -/
def seatHolders (s : State) (core quad : Nat) : List (Nat × Warp) :=
  (List.range 16).filterMap (fun k => (seatWarp s core quad k).map (fun w => (k, w)))

/-- Those whose image is not on the move. -/
def seated (s : State) (core quad : Nat) : List (Nat × Warp) := (seatHolders s core quad).filter (fun x => x.2.isSeated)

/-- The oldest seated warp (R337). -/
def oldestWarp (s : State) (core quad : Nat) : Option Warp :=
  (firstBy (fun (a b : Nat × Warp) => b.2.stall < a.2.stall || (a.2.stall == b.2.stall && a.1 < b.1)) (seatHolders s core quad)).map (·.2)

/-! ### Arbitration -/

/-- The weight at which a launch runs (R305): the lesser of its own and its queue's, as that is now (R498). -/
def weightOf (s : State) (l : Launch) : Nat :=
  let q := ((s.iface l.iface).queues.getD l.queue default).weight
  if q = 0 then max 1 l.weight else if l.weight = 0 then q else min l.weight q

/-- The effective weight of a warp's launch (R305). -/
def launchWeight (s : State) (w : Warp) : Nat := weightOf s (s.launch (s.block w.block).launch)

/-- The winner of R317 among warps by seat: age, weight, the lower seat. -/
def winner (s : State) (l : List (Nat × Warp)) : Option (Nat × Warp) :=
  firstBy (fun a b =>
    b.2.age < a.2.age || (a.2.age == b.2.age &&
      (launchWeight s b.2 < launchWeight s a.2 || (launchWeight s a.2 == launchWeight s b.2 && a.1 < b.1)))) l

/-- The cycle in which the earliest of a subgroup's lanes last issued (R320). -/
def Warp.lastIssue (w : Warp) (g : Group) : Nat :=
  (lanesOf g.mask).foldl (fun m l => min m (w.thread l).last) (w.thread (lowLane g.mask)).last

/-- Sides A and B of a winner, from its ready subgroups (R320). -/
def sides (s : State) (w : Warp) : Option Nat × Option Nat :=
  let gs := readyGroups s w
  let old := fun (a b : Group) => w.lastIssue a < w.lastIssue b || (w.lastIssue a == w.lastIssue b && a.pc.toNat < b.pc.toNat)
  match (if w.wins % 8 = 0 then firstBy old gs else firstBy bigger gs) with
  | none => (none, none)
  | some a => (some a.gid, (firstBy bigger (gs.filter (fun g => g.gid != a.gid))).map (·.gid))

/-- The eligible warps of a quadrant (R314): those that can issue, of which one that yielded counts only while no other does. -/
def eligible (s : State) (core quad : Nat) : List (Nat × Warp) :=
  let can := (seated s core quad).filter (fun x => canIssue s x.2)
  if can.any (fun x => !x.2.yielded) then can.filter (fun x => !x.2.yielded) else can

/-- THE ARBITRATION OF A QUADRANT (R316, R317, R320): the winner holds it from the next cycle. -/
def arbitrate (s : State) (core quad : Nat) : State :=
  let all := seated s core quad
  let part := eligible s core quad
  let win := winner s part
  let age := fun (w : Warp) =>
    if win.any (fun x => x.2.id == w.id) then { w with age := 0, wins := w.wins + 1, yielded := false }
    else if part.any (fun x => x.2.id == w.id) then { w with age := w.age + 1, yielded := false }
    else { w with age := 0, yielded := false }
  let s1 := all.foldl (fun s x => s.modWarp x.2.id age) s
  match win with
  | none => s1.modQuad core quad (fun q => { q with hold := none, a := none, b := none, runOver := false })
  | some x =>
    let (a, b) := sides s1 (s1.warp x.2.id)
    (s1.modQuad core quad (fun q => { q with hold := some x.2.id, a := a, b := b, runOver := false })).count core 35 1

/-- The swapped warp that will be swapped in next, or else the one swapped earliest (R332, R337). -/
def nextSwapped (s : State) (core quad : Nat) : Option Warp :=
  let rest := quadWarps s core quad
  let order : Warp → Nat := fun w => match w.place with | .swapped n => n | _ => 0
  (firstBy (fun a b => decide (a.ready.getD 0 < b.ready.getD 0)) (rest.filter (·.ready.isSome))).or
    (firstBy (fun a b => decide (order a < order b)) rest)

/-- The slots of a cycle in which no warp holds (R334, R337), charged as `won`, the arbitration's state, has
it: the PC, the cause and the launch. -/
def emptyCharge (s won : State) (core quad : Nat) : W64 × Cause × Nat :=
  let q := won.quad core quad
  match q.hold with
  | some w =>
    let x := s.warp w
    let pc := ((q.a.bind (won.warp w).group?).map Group.pc).getD noPc
    (pc, if x.lastCause = .issued then (s.quad core quad).prevCause else x.lastCause, (s.block x.block).launch)
  | none =>
    match oldestWarp s core quad with
    | some w => let y := warpWhy s w; (y.2, y.1, (s.block w.block).launch)
    | none =>
      match nextSwapped s core quad with
      | none => (noPc, .noWarp, 0)
      | some w => ((warpWhy s w).2, .noWarp, (s.block w.block).launch)

/-- Both slots of a cycle are charged alike. -/
def chargeBoth (s : State) (core quad : Nat) (pc : W64) (k : Cause) (launch : Nat) : State :=
  (chargeSlot (chargeSlot s core quad pc k launch) core quad pc k launch).modQuad core quad (fun q => { q with prevCause := k })

/-! ### The end of a quadrant's cycle -/

/-- A lane of the warp has issued in the core's present cycle (R320). -/
def issuedNow? (s : State) (w : Warp) : Bool := w.thr.any (fun t => t.last == (s.core w.core).clock + 1)

/-- Stall ages and last causes of the seated warps (R328, R334), as the cycle had them: before its end ends their waits and
fetches their runs. -/
def ageStalls (s : State) (core quad : Nat) : State :=
  let part := eligible s core quad
  (seatHolders s core quad).foldl (fun s x =>
    let can := issuedNow? s x.2 || part.any (fun y => y.2.id == x.2.id)
    let k := (warpWhy s x.2).1
    s.modWarp x.2.id (fun w => { w with stall := if can then 0 else w.stall + 1, lastCause := if can then .issued else k })) s

/-- Swapped warps whose wait has ended join the order of R332. -/
def markReady (s : State) (core quad : Nat) : State :=
  (quadWarps s core quad).foldl (fun s w =>
    match w.place, w.ready with
    | .swapped _, none =>
      let reg := w.groups.any (fun g => g.wait == some (.unissued .regAlloc))
      let ok := if reg then decide (w.rf.footprint < s.poolFree core quad) else w.groups.any (fun g => (groupWhy s w g).all (fun x => x.1 == .fetch))
      if ok then (s.modWarp w.id (fun w => { w with ready := some s.ctr })).bump else s
    | _, _ => s) s

/-- The run at a run start can be read now, or its host page is still to be asked for. -/
def fetchable (s : State) (w : Warp) (pc : W64) : Bool :=
  match fetchRun s w pc with
  | .wait => false
  | .asked ia _ => !(s.die (dieOf w.core)).asks.contains ((s.block w.block).ctx, ia / 4096)
  | _ => true

/-- Subgroups of a quadrant's seated warps whose runs can be read now. -/
def fetchables (s : State) (core quad : Nat) : List (Nat × Nat) :=
  (seated s core quad).flatMap (fun x =>
    if blockRuns s x.2 then (x.2.groups.filter (fun g => g.unfetched && x.2.halted &&& g.mask == 0 && fetchable s x.2 g.pos.start)).map (fun g => (x.2.id, g.gid)) else [])

/-- A run whose lines the core holds is fetched by the cycle after its start became known (R315); the lines of another are
asked for first, and it is fetched once they have come. -/
def fetchOrFill (s : State) (x : Nat × Nat) : State :=
  let w := s.warp x.1
  let go := match execRunFetch x.1 x.2 s with | .next t => t | _ => s
  match fetchRun s w (w.group x.2).pos.start with
  | .got l =>
    let has := fun (h : List CodeLine) => (l.flatMap (codeLines s w)).all (fun n => h.any (fun x => x.line == n))
    if has (heldCode s w) then go else if has (askedCode s w) then s else askCode s w l
  | _ => go

/-- Runs are fetched as a quadrant's cycle ends. -/
def fetchNow (s : State) (core quad : Nat) : State := (fetchables s core quad).foldl fetchOrFill s

/-- A cycle of the special-function unit and of the memory port counts while they are held, and one that bank conflicts take
(R342). -/
def countPorts (s : State) (core quad : Nat) : State :=
  let now := (s.core core).clock
  let q := s.quad core quad
  let s1 := if now < q.sfuUntil then s.count core (40 + quad) 1 else s
  let s2 := if now < q.memUntil then s1.count core (44 + quad) 1 else s1
  if q.lossFrom ≤ now && now < q.memUntil then s2.count core 20 1 else s2

/-- A quadrant's cycle ends: registers freed in it come back to the pool (R327), waits are tried again, runs are fetched. -/
def endQuad (s : State) (core quad : Nat) : State :=
  let s1 := ageStalls (countPorts s core quad) core quad
  let s2 := fetchNow (markReady (wakeQuad s1 core quad) core quad) core quad
  { s2.modQuad core quad (fun q => { q with avail := s2.poolFree core quad, usedA := none }) with iss := none }

/-! ### The order of the slots -/

/-- A core runs in the present tick: it is assigned and its die's clock has an edge (R338, R529). -/
def coreRuns (s : State) (core : Nat) : Bool := (s.core core).ctx.isSome && decide (2000 ≤ s.debt.getD (1 + dieOf core) 0)

/-- The core-time that a queue has had in the present span of 10 ms (R306). -/
def QBlk.coreTime (b : QBlk) (now : Nat) : Nat := if b.span = now / 10000000 then b.used else 0

/-- The queues whose blocks a core holds have a cycle of it (R306). -/
def shareCore (s : State) (core : Nat) : State :=
  let on := (s.blocks.filterMap (fun b =>
    if b.core == core && !b.ended && !b.saved then (let l := s.launch b.launch; some (l.iface, l.queue)) else none)).eraseDups
  let more := fun (b : QBlk) => { b with used := b.coreTime s.time + 1, span := s.time / 10000000 }
  on.foldl (fun s x => s.modIface x.1 (fun i => { i with queues := i.queues.modify x.2 more })) s

/-- A core's cycle ends (R339, R44): the accounts take its slots, its clock and its blocks' clocks move; a block's stands while the
core stops for a pre-emption (R470, log 91). -/
def endCore (s : State) (core : Nat) : State :=
  let s1 := (commitDue (shareCore s core) core).modCore core (fun k => { k with clock := k.clock + 1 })
  let stops := (s.core core).stop != .no
  { s1 with blocks := s1.blocks.map (fun b => if b.core == core && !b.saved && !b.ended && !stops then { b with clock := b.clock + 1 } else b) }

/-- An unassigned core's slots of a tick go to the idle account (R338), and its clock moves. -/
def idleCore (s : State) (c : Nat) : State :=
  if (s.core c).ctx.isSome || s.debt.getD (1 + dieOf c) 0 < 2000 then s
  else
    let idle := (List.range 4).foldl (fun a q => cadd (cadd a (72 * c + 18 * q + 1) 2) (72 * c + 18 * q + 17) 2) s.idle
    { s with idle := idle }.modCore c (fun k => { k with clock := k.clock + 1 })

/-- The next tick, half a nanosecond: a die whose clock debt reaches one period runs a cycle in it. -/
def nextTick (s : State) : State :=
  let half := (s.debt.getD 0 0 + 1) % 2
  let due := (List.range 4).map (fun d => s.debt.getD (1 + d) 0 % 2000 + (s.die d).mhz)
  { s with time := s.time + (1 - half), debt := half :: due, focus := ⟨0, 0, .A⟩ }

/-- The focus passes the cores that do not run in the present tick, from its own on. -/
def passCores (s : State) : State :=
  let f := s.focus.core
  let rest := (List.range 64).filter (fun c => decide (f ≤ c))
  match rest.find? (coreRuns s) with
  | some n => { (rest.filter (fun c => decide (c < n))).foldl idleCore s with focus := ⟨n, 0, .A⟩ }
  | none => nextTick (rest.foldl idleCore s)

/-- The focus moves to the next quadrant, the next core or the next tick. -/
def nextQuad (s : State) : State :=
  let f := s.focus
  if f.quad < 3 then { s with focus := ⟨f.core, f.quad + 1, .A⟩ }
  else
    let s1 := endCore s f.core
    if f.core < 63 then { s1 with focus := ⟨f.core + 1, 0, .A⟩ } else nextTick s1

/-- No warp holds a quadrant any more. -/
def release (s : State) (core quad : Nat) : State :=
  s.modQuad core quad (fun q => { q with hold := none, a := none, b := none, runOver := false })

/-- QUADRANT_ARBITRATION (R316, R317, R319): a cycle of a quadrant that no warp holds. -/
def execQuadrantArbitration (core quad : Nat) (s : State) : Out :=
  let q := s.quad core quad
  if s.focus ≠ ⟨core, quad, .A⟩ || q.hold.isSome || !coreRuns s core || (s.core core).stop ≠ .no then .next s
  else
    let s0 := wakeQuad s core quad
    let s1 := arbitrate s0 core quad
    let (pc, k, lid) := match q.arb, seatHolders s0 core quad with
      | some (pc, lid), _ :: _ => (pc, Cause.arbitration, lid)
      | _, _ => emptyCharge s0 s1 core quad
    let s2 := chargeBoth (s1.modQuad core quad (fun q => { q with arb := none })) core quad pc k lid
    .next (nextQuad (endQuad s2 core quad))

/-! ### Slots -/

/-- What the next step does when no event stands before it. -/
inductive Slot
  | event (i : Instr)
  | issue (i : Instr) (s : State)
  | pass (s : State)
  deriving DecidableEq, Repr

/-- The PC and launch of a core's quadrant under PREEMPT, and its cause: NO_WARP comes first where no warp is seated (R336,
R337). -/
def preemptCharge (s : State) (core quad : Nat) : W64 × Cause × Nat :=
  let q := s.quad core quad
  let at_ := fun (w : Warp) (a : Option Nat) =>
    (((a.bind w.group?).or (firstBy bigger w.groups)).map Group.pc).getD (lanePc (w.thread (lowLane w.live)))
  match q.hold, seatHolders s core quad with
  | some w, _ => (at_ (s.warp w) q.a, .preempt, (s.block (s.warp w).block).launch)
  | none, (_, w) :: _ => (at_ w none, .preempt, (s.block w.block).launch)
  | none, [] => (noPc, .noWarp, 0)

/-- A hold ends: at a run end the quadrant arbitrates in the same cycle; after a suspension the next cycle
is R319's. -/
def endHold (s : State) (core quad : Nat) : State :=
  if (s.quad core quad).arb.isSome then release s core quad else arbitrate s core quad

/-- The end of a held cycle, after side B: the next hold, or side B's refill (R321). -/
def endHeld (s : State) (core quad : Nat) : State :=
  let q := s.quad core quad
  match q.hold with
  | none => nextQuad (endQuad s core quad)
  | some wid =>
    let s1 := endQuad (s.modWarp wid Warp.endCycle) core quad
    let w := s1.warp wid
    if (q.a.bind w.group?).isNone || !blockRuns s1 w || q.runOver then nextQuad (endHold s1 core quad)
    else
      let b := (q.b.bind w.group?).filter (fun g => (groupWhy s1 w g).isNone)
      let b' := b.or (firstBy bigger ((readyGroups s1 w).filter (fun g => some g.gid != q.a)))
      nextQuad (s1.modQuad core quad (fun q => { q with b := b'.map (·.gid) }))

/-- What the charge of a slot is (R335). -/
def outCause : IssOut → Cause
  | .issued => .issued
  | .held c => c
  | .suspended _ c => c
  | .trapped => .trap

/-- After a slot's instruction: its charge (R318, R336), counters, the cycle in which its lanes issued (R320), and the
side's place (R316). A suspension inside a run is followed by R319's cycle; a wait that begins at a run's end is not. A word that
traps by its encoding takes the port of its class on side A, as an instruction of the class does, and needs none on side B, where it
traps at once (DESIGN CHOICE, log 81: R95 and R323 do not say). -/
def afterSlot (s : State) : State :=
  match s.iss with
  | none => s
  | some x =>
    let k := outCause x.out
    let lid := (s.block (s.warp x.warp).block).launch
    let s1 := chargeSlot s x.core x.quad x.f.pc k lid
    let went := k == .issued || k == .trap
    let s2 := if k == .issued then s1.count x.core x.quad 1 else s1
    let s3 := if went then s2.modWarp x.warp (fun w => w.modLanes x.mask (fun _ t => { t with last := (s.core x.core).clock + 1 })) else s2
    let past := ((s3.warp x.warp).group? x.gid).all (fun g => g.wait.isSome)
    let port := (portOf x.f.word).num
    match x.side with
    | .B => endHeld (s3.modQuad x.core x.quad (fun q => { q with b := if past then none else q.b })) x.core x.quad
    | .A =>
      let waits : Bool := match x.out with | .suspended _ c => past && !(c == .issued && x.f.ends) | _ => false
      let s4 := s3.modQuad x.core x.quad (fun q =>
        { q with
          runOver := past
          arb := if waits then some (x.f.pc, lid) else none
          usedA := if went && port ≠ 0 then some port else none
          prevCause := k })
      { s4 with focus := { s4.focus with side := .B } }

/-- Side A's cycle begins: side B reads the registers and latches as they stand (R68, R324), and both sides allocate from
the pool as it stands (R327). -/
def beginCycle (s : State) (core quad wid : Nat) : State :=
  (s.modWarp wid (·.snapCycle s.ctr)).modQuad core quad (fun q => { q with avail := s.poolFree core quad })

/-- What holds the instruction of a side whose warp may not issue for a budget (R334, R336). -/
def throttleWhy (s : State) (i : Instr) : Cause :=
  match gate s i with | .hold _ why => why | .full _ => .regAlloc | _ => .throttle

/-- The instruction of a side of the held quadrant: the subgroup's decoded word. One that does not decode traps in every
lane (R94), once its run's results that may trap have come (R95). -/
def sideSlot (s : State) (core quad wid : Nat) (g : Group) (f : Fetched) (side : Side) : Slot :=
  let x : Iss := ⟨core, quad, side, wid, g.gid, g.mask, f, .issued⟩
  let s1 := { (if side = .A then beginCycle s core quad wid else s) with iss := some x }
  let slow := throttled s (s.warp wid)
  match f.decoded with
  | .ok i => if slow then .pass (afterSlot (s1.out (.held (throttleWhy s1 i)))) else .issue i s1
  | .illegal _ =>
    if llrHold (s.warp wid) g { h := default } then .pass (afterSlot (s1.out (.held .dependence)))
    else if slow then .pass (afterSlot (s1.out (.held .throttle)))
    else .pass (afterSlot ((takeTrap s1 wid g.pos f 0 ((lanesOf g.mask).map (fun l => (l, .illegal)))).out .trapped))

/-- Side B is empty (R334): it shares the cause of a side A that holds, and is charged SINGLE_PC beside one
that issued. -/
def emptySide (s : State) (core quad : Nat) : State :=
  match s.iss with
  | some x =>
    let k := outCause x.out
    let lid := (s.block (s.warp x.warp).block).launch
    endHeld (chargeSlot s core quad x.f.pc (if k = .issued then .singlePc else k) lid) core quad
  | none => endHeld (chargeSlot s core quad noPc .singlePc 0) core quad

/-- Side A's slot of a held quadrant. Where something since has taken the subgroup away, stopped it or killed its block,
no warp holds the quadrant any more. A run that has come to name a pending register has not begun (R325). -/
def slotA (s : State) (core quad wid gid : Nat) : Slot :=
  let w := s.warp wid
  match (w.group? gid).bind (fun g => g.cur.map (fun f => (g, f))) with
  | some (g, f) =>
    if g.wait.isSome || w.halted &&& g.mask ≠ 0 || !blockRuns s w then .pass (release s core quad)
    else
      match groupWhy s w g with
      | some (k, pc) =>
        .pass (afterSlot { beginCycle s core quad wid with iss := some ⟨core, quad, .A, wid, gid, g.mask, { f with pc := pc }, .held k⟩ })
      | none => sideSlot s core quad wid g f .A
  | none => .pass (release s core quad)

/-- Side B's slot of a held quadrant: one that cannot issue is charged to its own cause and PC (R337). What side A's trap of
this cycle does to their block does not touch it (R95). -/
def slotB (s : State) (core quad wid gid : Nat) : Slot :=
  let w := s.warp wid
  let b := s.block w.block
  match (w.group? gid).bind (fun g => g.cur.map (fun f => (g, f))) with
  | some (g, f) =>
    match groupWhy s w g with
    | some (k, pc) => .pass (endHeld (chargeSlot s core quad pc k b.launch) core quad)
    | none => sideSlot s core quad wid g f .B
  | none => .pass (emptySide s core quad)

/-- A warp of the quadrant whose cycle comes next with lanes that stopped at run ends: they form one event before it (R444). -/
def parkNext (s : State) (f : Focus) : Option Nat :=
  if f.side = .A then ((quadWarps s f.core f.quad).find? (·.parkDue)).map (·.id) else none

/-- WHAT HAPPENS NEXT in the slots: an arbitration, an instruction, or time passing. -/
def nextSlot (s : State) : Slot :=
  let f := s.focus
  let q := s.quad f.core f.quad
  if s.boot ≠ .up then .pass (nextTick s)
  else if !coreRuns s f.core then .pass (passCores s)
  else if let some w := parkNext s f then .event (.memPark w)
  else if (s.core f.core).stop ≠ .no && f.side = .A then
    let (pc, k, lid) := preemptCharge s f.core f.quad
    .pass (nextQuad (chargeBoth { countPorts s f.core f.quad with iss := none } f.core f.quad pc k lid))
  else
    match f.side with
    | .A =>
      match q.hold, q.a with
      | some w, some a => slotA s f.core f.quad w a
      | some _, none => .pass (release s f.core f.quad)
      | none, _ => .event (.quadrantArbitration f.core f.quad)
    | .B =>
      match q.hold, q.b with
      | some w, some b => slotB s f.core f.quad w b
      | some _, none => .pass (emptySide s f.core f.quad)
      | none, _ => .pass (endHeld s f.core f.quad)

/-- Events come between the cycles of a core, not between the slots of one (log 1). -/
def State.between (s : State) : Bool := s.focus.quad == 0 && s.focus.side == .A

end Sys2Proof.Machine
end

