-- ==== Sys2Proof/Machine/Swap.lean ====
section
/-! DEFINITION. Long-latency results (R167, R168, R435) and swapping (R328 to R333). -/

namespace Sys2Proof.Machine

/-! ### Long-latency results -/

/-- The lanes of a result with an exception that was enabled at issue (R166, R167). -/
def llrTraps (r : Llr) : Traps :=
  r.vals.filterMap (fun x => let e := x.2.2 &&& r.exc; if e = 0 then none else some (x.1, excKind e.toNat))

/-- The latch of a lane is still pending in the issuing run (R167, R47): its lanes are in the run, parked in
it, or interrupted in it. A later result of the run that may trap keeps it among the latches that its lanes go back to. -/
def latchLane (r : Llr) (w : Warp) (l x : Nat) (draw : Nat) : Warp :=
  let t := w.thread l
  let put := fun (a : Latches) => a.set r.lt (latch32 draw l x)
  let inRun := w.groups.any (fun g => hasLane g.mask l && g.runId == r.runId)
  let parkedIn := match t.st with | .parked _ rid => rid == r.runId | _ => false
  let keep := fun (y : Llr) => if y.runId == r.runId then { y with lats := y.lats.map (fun p => if p.1 == l then (l, put p.2) else p) } else y
  let w0 := { w with llr := w.llr.map keep }
  if !hasLane r.latch l then w
  else if (inRun && !t.depth) || (inRun && t.intr.all (fun i => i.runId != r.runId)) || parkedIn then w0.modThread l (fun t => { t with lat := put t.lat })
  else w0.modThread l (fun t => { t with intr := t.intr.map (fun i => if i.runId == r.runId then { i with lat := put i.lat } else i) })

/-- The results of the lanes that do not trap reach the destination and the latch (R167); a uniform register takes the lowest
of them (log 75). -/
def llrWrite (r : Llr) (draw : Nat) (w : Warp) : Warp :=
  let bad := trapMask (llrTraps r)
  let ok := (r.vals.filter (fun x => !hasLane bad x.1)).map (fun x => (x.1, x.2.1.toNat))
  let w1 := ok.foldl (fun w x => latchLane r w x.1 x.2 draw) w
  if r.d then w1
  else if r.uni then
    match ok with
    | [] => w1
    | x :: _ => { w1 with rf := { w1.rf with s := cset w1.rf.s 0 r.dst (uniExt none 1 x.2) } }
  else if w1.rf.has r.dst then { w1 with rf := w1.rf.vlanes r.dst 1 ok }
  else w1

/-- Lanes with a reported fault stop at the run start where they stand (R442), in the subgroups that waited there for result
`id` alone. -/
def Warp.stopAtStarts (w : Warp) (id : Nat) : Warp :=
  let here := w.groups.filter (fun g => g.after.contains id && g.after.all (· == id) && g.pos.off == 0)
  here.foldl (fun w g =>
    let m := maskOf (fun l => hasLane g.mask l && (w.thread l).stop)
    if m = 0 then w
    else { (w.leaveAll m).modLanes m (fun _ t => { t with st := .memStopped g.pos.start, stop := false }) with parkDue := true }) w

/-- LONG_LATENCY_RESULT (R167, R168, R435): FPSTAT, the results, and one trap event of the lanes with an
enabled exception, which park at the instruction with the latches that they had there. Without a trap, the last reads that
waited for it are freed (R22). -/
def execLongLatencyResult (wid id : Nat) (s : State) : Out :=
  match (s.warp wid).llr.find? (fun r => r.id == id) with
  | none => .next s
  | some r =>
    let ts := llrTraps r
    let bad := trapMask ts
    let s1 := (s.modWarp wid (fun w =>
      let w1 := llrWrite r s.ctr { w with llr := w.llr.filter (fun x => x.id != id) }
      let w2 := w1.setFlags (r.vals.map (fun x => (x.1, x.2.2.toNat)))
      if ts = [] then { w2 with rf := r.frees.foldl RegFile.drop w2.rf } else w2)).bump
    let back := fun (l : Nat) (t : Thread) => { t with st := .parked r.pos r.runId, lat := ((r.lats.find? (fun x => x.1 == l)).map (·.2)).getD t.lat }
    let s2 := takeTrap s1 wid r.pos r.f 0 ts
    let s3 := if ts = [] then s2 else s2.modWarp wid (fun w => w.modLanes bad back)
    .next (s3.modWarp wid (fun w =>
      let w1 := w.stopAtStarts id
      { w1 with groups := w1.groups.map (fun g => { g with after := g.after.filter (· != id) }) }))

/-! ### Swapping -/

/-- The quadrant's pool still lacks what a write of the warp waits for under R18 (R329). -/
def lacksRegs (s : State) (w : Warp) : Bool :=
  w.groups.any (fun g => g.wait == some (.unissued .regAlloc) && g.cur.any (fun f =>
    match decodeWord f.word with
    | .ok i =>
      let p := (shape i).getD { h := default }
      decide (s.poolFree w.core w.quad < (newRegs (wakeCx s w.id g f p (g.mask &&& guardMask w.rf p.h))).length)
    | .illegal _ => false))

/-- The requests of a quadrant that no swap-out serves yet (R329): seated warps that wait for registers, and swapped warps
that are ready and lack a seat or registers. -/
def swapAsks (s : State) (core quad : Nat) : List Nat :=
  let regs := ((seated s core quad).map (·.2)).filter (lacksRegs s)
  let free := s.poolFree core quad
  let full := (s.quad core quad).seats.all (·.isSome)
  let outs := (quadWarps s core quad).filter (fun w => w.ready.isSome && (full || decide (free < w.rf.footprint)))
  ((regs ++ outs).filter (fun w => !swapServes s w)).map (·.id)

/-- The block's VPOINT move has begun (R301, R329). -/
def vpMoving (b : Block) : Bool := match b.vp with | .moving .. | .moved .. => true | _ => false

/-- The victim of a swap-out for a request (R329). -/
def victim (s : State) (core quad asks : Nat) : Option (Nat × Nat × Warp) :=
  (firstBy (fun a b => b.2.stall < a.2.stall || (a.2.stall == b.2.stall && a.1 < b.1))
    ((seated s core quad).filter (fun x => decide (4096 < x.2.stall) && x.2.id != asks && !vpMoving (s.block x.2.block)))).map
      (fun x => (asks, x))

/-- The swap image of a warp (R330): 8 KiB of slot state and 128 bytes for each register, in units of 1 KiB. It lies in the
core's swap region of 256 KiB when the region has room for all of it, else in the core's overflow area. -/
def imageFor (s : State) (w : Warp) : Image :=
  let n := (8192 + 128 * w.rf.footprint + 1023) / 1024
  let used := ((s.warps.filter (fun v => v.core == w.core && v.id != w.id)).map (fun v =>
    match v.image with | some i => if i.spill then 0 else i.units | none => 0)).sum
  ⟨n, decide (256 < used + n)⟩

/-- SWAP_OUT (R329, R331): the victim's image starts to move; it holds its seat meanwhile. -/
def execSwapOut (core quad : Nat) (s : State) : Out :=
  match (swapAsks s core quad).findSome? (victim s core quad) with
  | none => .next s
  | some (asks, k, w) =>
    .next ((s.modWarp w.id (fun w => { w with place := .movingOut k asks, image := some (imageFor s w) })).count core 32 1)

/-- The lowest free seat. -/
def freeSeat (s : State) (core quad : Nat) : Option Nat := (List.range 16).find? (fun k => ((s.quad core quad).seats.getD k none).isNone)

/-- SWAP_IN (R331, R332): the warp that became ready first, when a seat and its registers are free. -/
def execSwapIn (core quad : Nat) (s : State) : Out :=
  match firstBy (fun (a b : Warp) => a.ready.getD 0 < b.ready.getD 0) ((quadWarps s core quad).filter (·.ready.isSome)), freeSeat s core quad with
  | some w, some k =>
    if s.poolFree core quad < w.rf.footprint || !blockRuns s w then .next s
    else
      let s1 := s.modWarp w.id (fun w => { w with place := .movingIn k, ready := none, stall := 0 })
      .next ((s1.modQuad core quad (fun q => { q with seats := q.seats.set k (some w.id) })).count core 33 1)
  | _, _ => .next s

/-- SWAP_MOVE_COMPLETE (R331): an image has left its seat, or has reached it. -/
def execSwapMoveComplete (wid : Nat) (s : State) : Out :=
  let w := s.warp wid
  match w.place with
  | .movingOut k _ =>
    let s1 := s.modWarp wid (fun w => { w with place := .swapped s.ctr, ready := none })
    .next (s1.modQuad w.core w.quad (fun q => { q with seats := q.seats.set k none })).bump
  | .movingIn k => .next (s.modWarp wid (fun w => { w with place := .seated k, image := none, age := 0, lastCause := .issued }))
  | _ => .next s

end Sys2Proof.Machine
end

