-- ==== Sys2Proof/Machine/MemEvents.lean ====
section
/-! DEFINITION. What the memory side does with accesses in flight: translation (R452), performing (R381 to R395),
delivering (R196), publishing (R394), beads (R200), monitors (R212) and prefetches (R206). -/

namespace Sys2Proof.Machine

/-- An access of a transaction of a warp. -/
def State.acc? (s : State) (wid tid i : Nat) : Option (Txn × Acc) :=
  ((s.warp wid).txn? tid).bind (fun t => (t.accs[i]?).map (fun a => (t, a)))

/-- Replaces an access; a finished transaction goes. -/
def State.putAcc (s : State) (wid : Nat) (t : Txn) (i : Nat) (a : Acc) : State :=
  s.modWarp wid (fun w => w.putTxn (t.setAcc i a))

/-! ### Translation -/

/-- An earlier access of the lane in the run to the access's 64 KiB granule may still meet its fault, which the later one is to
share (R197). -/
def granuleWaits (w : Warp) (t : Txn) (a : Acc) (open_ : Txn → Acc → Bool) : Bool :=
  w.txns.any (fun u => u.runId == t.runId && u.accs.any (fun b =>
    (decide (u.id < t.id) || (u.id == t.id && decide (b.part < a.part))) && b.lane == a.lane && b.sp == .global
      && b.key / 65536 == a.key / 65536 && open_ u b))

/-- An access to global memory is still to be translated. -/
def untranslated (s : State) (w : Warp) (t : Txn) (a : Acc) : Bool :=
  a.sp == .global && a.st == .issued && (a.xl == .none || a.xl == .wait || a.xl == .asked) && !deferredBy s w t a.lane

/-- MTU_WALK (R452, R453, R193): the access is translated, or learns its fault, or its host page is asked for (R478); accesses of a
lane's run to one granule in program order (R197). -/
def execMtuWalk (wid tid i : Nat) (s : State) : Out :=
  match s.acc? wid tid i with
  | none => .next s
  | some (t, a) =>
    let w := s.warp wid
    let ctx := s.ctx (s.block w.block).ctx
    if !untranslated s w t a || granuleWaits w t a (untranslated s w) then .next s
    else
      match granuleFault s w t a with
      | some (k, v) => .next (s.putAcc wid t i { a with xl := .fault k v })
      | none =>
        let s1 := if a.xl == .none then s.walkFor w.core ctx a.key else tlbFill s (dieOf w.core) ctx a.key
        match translate s (dieOf w.core) ctx a.key (accNeed t) with
        | .loc l =>
          if Config.deviceBytes ≤ l && l < peerBase then .fault .noSuchMemory
          else .next (s1.putAcc wid t i { a with xl := if poisoned s l a.n then .fault .poison 0 else .loc l })
        | .asked => .next (askAts (s1.putAcc wid t i { a with xl := .asked }) (dieOf w.core) ctx a.key)
        | .fault k v => .next (tellBad (s1.putAcc wid t i { a with xl := .fault k v }) ctx a.key)
        | x => .next (s1.putAcc wid t i { a with xl := x })

/-! ### Loads -/

/-- Earlier atomics of the core to the location that have not been performed (R382). -/
def olderAtomics (w : Warp) (t : Txn) (a : Acc) : Bool :=
  w.txns.any (fun u => decide (u.id < t.id) && u.kind.writes && !u.kind.isStore && u.accs.any (fun b => b.st == .issued && b.overlaps a))

/-- A CAUSAL load that its die's L2 does not hold travels behind the updates that its die sent before it (R399). -/
def causalWaits (s : State) (w : Warp) (t : Txn) (a : Acc) : Bool :=
  let d := s.die (dieOf w.core)
  let before := fun (u : CUpd) => match u.src with | .lane _ id _ => decide (id < t.id) | .job _ _ => true
  t.dom == .causal && a.sp == .global && !(a.spans.all (fun x => d.l2.lines.any (fun l => l.line == x.1 / 128))) && d.upd.any before

/-- What stands in its core before a load is performed there or leaves it (R382, R384, R390). -/
def loadFree (s : State) (w : Warp) (t : Txn) (a : Acc) : Bool :=
  a.st == .issued && a.ready && orderOk w t a && !deferredBy s w t a.lane && !olderReads w t a && !olderAtomics w t a
    && !queueBlocks s w t a

/-- A load may be performed now. -/
def loadReady (s : State) (w : Warp) (t : Txn) (a : Acc) : Bool :=
  loadFree s w t a && (l1Hit s w t a || (levelOk s w.core t.dom a false && !(usesL1 t a && unackedLine s w.core a) && !causalWaits s w t a))

/-- What stands in its core before a write leaves it (R382, R384, R394, R395). -/
def writeFree (s : State) (w : Warp) (t : Txn) (a : Acc) : Bool :=
  t.kind.writes && a.st == .issued && a.ready && orderOk w t a && !deferredBy s w t a.lane
    && !olderWrites s w t a && !olderReads w t a && releaseDrains s w t

/-- A write may be performed now. A CAUSAL atomic comes after its die's updates, which may be its lane's earlier stores or what
the lane has read (R204, R391, R392). -/
def writeReady (s : State) (w : Warp) (t : Txn) (a : Acc) : Bool :=
  writeFree s w t a && levelOk s w.core t.dom a true
    && (t.kind.isStore || t.dom != .causal || a.sp != .global || (s.die (dieOf w.core)).upd.isEmpty)

/-- An access that has left its core for the coherent level meets a line that is held, and the directory demands its publish
(R394). -/
def meetHeld (s : State) (w : Warp) (a : Acc) : State :=
  if a.sp == .global && heldElsewhere s (some w.core) a.place a.n then demandLines s (some w.core) a.place a.n else s

/-! ### The arbiter of a core's port -/

/-- The class of an access that wants its core's port now (R401): an acknowledgement 2, an atomic's old value 3, a request
by its domain. What stays in the core, or hits its L1, wants no port. -/
def portClass (s : State) (w : Warp) (t : Txn) (a : Acc) : Option Nat :=
  let class_ := match t.dom with | .sc | .tso => 4 | .causal | .rc => 5 | .bulk => 6
  if a.local w.core then none
  else if a.st == .performed then
    if ackInOrder s w t a then some (match t.kind with | .store | .atomic _ _ true => 2 | _ => 3) else none
  else
    match t.kind with
    | .store | .atomic .. => if writeReady s w t a then some class_ else none
    | .fence .. => none
    | _ => if loadReady s w t a && !l1Hit s w t a then some class_ else none

/-- The accesses of a core that stand at its port beside one, by warp, transaction and name, with their classes: those that
have lost there, and of the others that want it those that a free value puts there (R401, log 73). -/
def portRivals (s : State) (core : Nat) (me : Nat × Nat × Nat) : List ((Nat × Nat × Nat) × Acc × Nat) :=
  (coreWarps s core).flatMap (fun w => w.txns.flatMap (fun t => t.accs.filterMap (fun a =>
    let id := (w.id, t.id, a.name)
    let there := a.lost != 0 || (Config.unknown64 (s.ctr * 256 + 250)).getLsbD ((t.id + a.name) % 64)
    if id == me || a.st == .done || !there then none else (portClass s w t a).map (fun c => (id, a, c)))))

/-- An access that has lost 256 arbitrations in a row. -/
def Acc.aged (a : Acc) : Bool := decide (256 ≤ a.lost)

/-- One of two accesses at a port is served before the other (R401). -/
def portBefore (a : Acc) (ca : Nat) (b : Acc) (cb : Nat) : Bool := (a.aged && !b.aged) || (a.aged == b.aged && decide (ca < cb))

/-- The arbitration for an access's way through its core's port (R401): none while another goes first; else the others there
have lost once more. -/
def portTurn (s : State) (wid tid i : Nat) : Option State :=
  match s.acc? wid tid i with
  | none => some s
  | some (t, a) =>
    let w := s.warp wid
    match portClass s w t a with
    | none => some s
    | some c =>
      let me := (wid, tid, a.name)
      let rivals := portRivals s w.core me
      if rivals.any (fun x => portBefore x.2.1 x.2.2 a c) then none
      else if rivals.isEmpty && a.lost = 0 then some s
      else
        let lose := fun (v : Warp) (u : Txn) (b : Acc) =>
          let id := (v.id, u.id, b.name)
          if id == me then { b with lost := 0 } else if rivals.any (fun x => x.1 == id) then { b with lost := b.lost + 1 } else b
        let txn := fun (v : Warp) (u : Txn) => { u with accs := u.accs.map (lose v u) }
        some { s with warps := s.warps.map (fun v => if v.core == w.core then { v with txns := v.txns.map (txn v) } else v) }

/-- What an access does at its turn at the port. -/
def atPort (f : State → Out) (wid tid i : Nat) (s : State) : Out :=
  match portTurn s wid tid i with
  | some s1 => f s1
  | none => .next s.bump

/-- The lanes that wait at an LDREC. -/
def recWaiters (w : Warp) (t : Txn) : Option Group :=
  w.groups.find? (fun g => match g.wait with | some (.issued _ _ a) => g.cur == some t.f && a.a.toNat == t.id | _ => false)

/-- A completed lane of a transaction delivers (R196, R211, R215). -/
def deliverDone (s : State) (wid : Nat) (t : Txn) (l : Nat) : State :=
  let w := s.warp wid
  if w.live = 0 then s
  else
    match t.kind with
    | .load => deliverLane s wid t l (laneValue t l)
    | .atomic _ _ red => if red then s else deliverLane s wid t l (laneValue t l)
    | .ldrec b =>
      let x := laneValue t l
      if recordOk x then s.modWarp wid (fun w => { w with rf := { w.rf with b := cset w.rf.b 0 b (BitVec.ofNat 256 x) } })
      else
        match recWaiters w t with
        | some g => takeTrap s wid g.pos t.f 0 ((lanesOf (t.mask &&& g.mask)).map (fun l => (l, .illegal)))
        | none => s
    | .monitor => armMonitor s wid t (t.accs.headD default)
    | .store | .fill _ | .fence .. => s

/-- An access's data has arrived: when the lane's last one has, the lane delivers, and an acquire takes
effect (R191). -/
def arrive (s : State) (wid : Nat) (t : Txn) (i : Nat) (a : Acc) : State :=
  let t1 := t.setAcc i { a with st := .done }
  let s1 := if (t1.of a.lane).all (fun b => b.st == .done) then acquireDone (deliverDone s wid t1 a.lane) (s.warp wid).core t1 a.lane else s
  s1.modWarp wid (fun w => w.putTxn { t1 with drop := ((w.txn? t.id).map (·.drop)).getD t1.drop })

/-- A load is performed and its data arrives; an atomic's or a local access's value, read before, arrives. -/
def loadArrival (wid tid i : Nat) (s : State) : Out :=
  match s.acc? wid tid i with
  | none => .next s
  | some (t, a) =>
    let w := s.warp wid
    let ctx := (s.block w.block).ctx
    match t.kind with
    | .store | .fence .. => .next s
    | .atomic _ _ true => .next s
    | .atomic op wd false =>
      if a.st ≠ .performed || !ackInOrder s w t a then .next s
      else
        let x := atomVal op wd a.got a.data a.cmp
        let s1 := s.modCore w.core (fun k => if a.sp == .global then k.l1write ctx a.key a.n x else k)
        .next (arrive s1 wid t i a)
    | _ =>
      if a.st = .performed then .next (arrive s wid t i a)
      else if !loadReady s w t a then .next (if loadFree s w t a && !l1Hit s w t a then meetHeld s w a else s)
      else
        match granuleFault s w t a with
        | some (k, v) => .next (s.putAcc wid t i { a with xl := .fault k v })
        | none =>
          if a.sp == .global && !l1Hit s w t a && poisoned s a.place a.n then .next (s.putAcc wid t i { a with xl := .fault .poison 0 })
          else
            let a1 := { a with got := loadVal s w t a (usesL1 t a) }
            let s1 := if usesL1 t a then l1After s w t a else touchAcc s w.core t a
            .next (match t.kind with
              | .fill _ => s1.bump.modWarp wid (fun w => { w with txns := w.txns.map (fun u => if u.id == tid then u.setAcc i { a1 with st := .done } else u) })
              | _ => arrive s1.bump wid t i a1)

/-- LOAD_DATA_ARRIVAL (R196, R364, R401). -/
def execLoadDataArrival (wid tid i : Nat) (s : State) : Out := atPort (loadArrival wid tid i) wid tid i s

/-! ### Stores and atomics -/

/-- A store or an atomic is performed at its home; a CAUSAL store at its die's causal home. -/
def storeDrain (wid tid i : Nat) (s : State) : Out :=
  match s.acc? wid tid i with
  | none => .next s
  | some (t, a) =>
    let w := s.warp wid
    if !writeReady s w t a then .next (if writeFree s w t a then meetHeld s w a else s)
    else
      match granuleFault s w t a with
      | some (k, v) => .next (s.putAcc wid t i { a with xl := .fault k v })
      | none =>
        if a.sp == .global && poisoned s a.place a.n then .next (s.putAcc wid t i { a with xl := .fault .poison 0 })
        else
          let s0 := (touchAcc s w.core t a).bump
          match t.kind with
          | .atomic op wd _ =>
            let old := homeRead s0 wid a
            .next ((homeWrite s0 wid a (atomVal op wd old a.data a.cmp)).putAcc wid t i { a with got := old, st := .performed })
          | _ =>
            if t.dom == .causal && a.sp == .global then
              .next ((causalStore s0 wid t a).putAcc wid t i { a with st := .causal })
            else .next ((homeWrite s0 wid a a.data).putAcc wid t i { a with st := .performed })

/-- STORE_DRAIN (R367, R381, R391, R393, R204, R401). -/
def execStoreDrain (wid tid i : Nat) (s : State) : Out := atPort (storeDrain wid tid i) wid tid i s

/-- The home's acknowledgement reaches the core, and a copy in its L1. -/
def storeAcknowledge (wid tid i : Nat) (s : State) : Out :=
  match s.acc? wid tid i with
  | none => .next s
  | some (t, a) =>
    let w := s.warp wid
    let ctx := (s.block w.block).ctx
    let mine := match t.kind with | .store | .atomic _ _ true => true | _ => false
    if !mine || a.st ≠ .performed || !ackInOrder s w t a then .next s
    else
      let x := match t.kind with | .atomic op wd _ => atomVal op wd a.got a.data a.cmp | _ => a.data
      let s1 := s.modCore w.core (fun k => if a.sp == .global then k.l1write ctx a.key a.n x else k)
      .next (s1.putAcc wid t i { a with st := .done })

/-- STORE_ACKNOWLEDGE (R365, R208, R401). -/
def execStoreAcknowledge (wid tid i : Nat) (s : State) : Out := atPort (storeAcknowledge wid tid i) wid tid i s

/-- A CAUSAL update waits for the publish of a line that is held (R394), but for no release whose own warp's updates stand behind
it in the die's order (R395, R399). -/
def updateHeld (s : State) (u : CUpd) : Bool :=
  let from_ := match u.src with | .lane w _ _ => some (s.warp w).core | .job _ _ => none
  heldElsewhere s from_ u.loc u.n && (lineHolders s from_ u.loc u.n).any (fun x =>
    !x.1.txns.any (fun y => decide (y.id < x.2.id) && y.accs.any (·.st == .causal)))

/-- A pending update has been performed: its lane's store is to be acknowledged, or its request counts the bytes (R254). -/
def updateDone (s : State) (u : CUpd) : State :=
  match u.src with
  | .lane wid tid n =>
    let hit := fun (a : Acc) => if a.name == n && a.st == .causal then { a with st := .performed } else a
    s.modWarp wid (fun w => { w with txns := w.txns.map (fun t => if t.id == tid then { t with accs := t.accs.map hit } else t) })
  | .job bid id => requestCount s bid id u.n

/-- The block that made a CAUSAL write (R391). -/
def CSrc.block (s : State) : CSrc → Nat
  | .lane w _ _ => (s.warp w).block
  | .job b _ => b

/-- What the place of a CAUSAL update is encrypted with for the context that made it (R499). -/
def CUpd.sealBy (u : CUpd) (s : State) : Nat := sealOf s (s.block (u.src.block s)).ctx u.ia u.loc

/-- CAUSAL_UPDATE (R391, R392): the coherent level performs the die's oldest pending update. -/
def execCausalUpdate (die : Nat) (s : State) : Out :=
  match (s.die die).upd with
  | [] => .next s
  | u :: r =>
    let from_ := match u.src with | .lane w _ _ => some (s.warp w).core | .job _ _ => none
    if !(linesOf u.loc u.n).all (fun l => peerOk s l true && dirOk s l true) then .next s
    else if updateHeld s u then .next (demandLines s from_ u.loc u.n)
    else
      let s1 := s.modDie die (fun d => { d with upd := r })
      .next (updateDone (usePeer (sealWriteN s1 (u.sealBy s) u.loc u.n u.data) u.loc) u)

/-- An access of another core waits for a line that a release holds (R394). -/
def outsideWants (s : State) (v : Warp) (t : Txn) : Bool :=
  s.warps.any (fun w => w.core != v.core && w.txns.any (fun u => u.accs.any (fun a =>
    a.st == .issued && a.ready && a.sp == .global && !(u.kind.isLoad && l1Hit s w u a)
      && t.accs.any (fun b => b.st != .done && (b.locOf s v).any (fun l => linesMeet l b.n a.place a.n)))))

/-- PUBLISH_DEMAND (R394): the directory demands a held release for an access that waits in another core. -/
def execPublishDemand (wid tid : Nat) (s : State) : Out :=
  let w := s.warp wid
  match w.txn? tid with
  | none => .next s
  | some t => .next (if outsideWants s w t then demandPublish s wid tid else s)

/-! ### Beads -/

/-- The accesses of a bead load from the operands kept for its wait (R200): (lane, window offset). -/
def beadAccs (core base n : Nat) (vals : List (Nat × Nat)) : List Acc :=
  (vals.foldl (fun (p : List Acc) v =>
    let part := (p.filter (fun a => a.lane == v.1)).length * 8
    p ++ [⟨v.1, part, min n 8, .scratch core, base + v.2, 0, 0, 0, false, .loc 0, .performed, 0⟩]) [])

/-- BEAD_WAIT_END (R199, R200): every granule of the load is full; it reads them, and TAKE clears them. The
lanes acquire at BLOCK scope. -/
def execBeadWaitEnd (wid grp : Nat) (s : State) : Out :=
  let w := s.warp wid
  let b := s.block w.block
  match w.group? grp with
  | none => .next s
  | some g =>
    match g.wait, g.cur with
    | some (.lanes act vals), some f =>
      match decodeWord f.word with
      | .ok (.lds h r z q bd off imm) =>
        let as := beadAccs w.core b.base (sizeBytes z) vals
        let gs := accGranules as
        if w.halted &&& g.mask ≠ 0 || gs.any (fun k => !beadGet (s.core w.core) k) then .next s
        else
          let as' := as.map (fun a => { a with got := homeRead s wid a })
          let t : Txn :=
            { id := s.ctr, kind := .load, f := f, runId := g.runId, mask := act, dst := r.toNat, nregs := sizeRegs z,
              size := sizeBytes z, dom := q.dom, scope := q.scope, ord := q.ord, pol := .dflt, accs := as', publish := false,
              drop := false }
          let c := wakeCx s wid g f ((shape (.lds h r z q bd off imm)).getD { h := h }) act
          let s1 := (s.modWarp wid (fun w => { w.loaded g.mask t with txns := w.txns ++ [t], rf := (t.regs.foldl RegFile.take w.rf) })).bump
          .next ((acquireBoth (beadEffect s1 w.core (if bd == .take then 2 else 1) gs) w.core).resumed c)
      | _ => .next s
    | _, _ => .next s

/-! ### Monitors -/

/-- A subgroup that waits at MWAIT goes on with 1 (R212); one that the debugger stopped does so later (R459). -/
def monitorWake (wid : Nat) (s : State) (g : Group) : State :=
  match g.wait, g.cur with
  | some (.mwait act _), some f =>
    match decodeWord f.word with
    | .ok (.mwait _ d _) => if (s.warp wid).halted &&& g.mask = 0 then mwaitEnd s wid g.gid f act (if d.d then none else some d.r.toNat) d.lt.toNat true else s
    | _ => s
  | _, _ => s

/-- The subgroups of a warp that wait at MWAIT. -/
def Warp.mwaiters (w : Warp) : List Group := w.groups.filter (fun g => match g.wait with | some (.mwait _ _) => true | _ => false)

/-- Where a monitor's line lies now: its translation may have been removed since, and its page may have moved (R454, R456). -/
def monPlace (s : State) (w : Warp) : Xl :=
  translate s (dieOf w.core) (s.ctx (s.block w.block).ctx) (128 * w.mon.line) ⟨true, false, none⟩

/-- The line's contents at the home differ from the snapshot: every waiting MWAIT of the warp ends with 1 (R212). A host page whose
translation was removed is asked for. -/
def monitorCheck (s : State) (wid : Nat) : State :=
  let w := s.warp wid
  let wake := fun (_ : Unit) => w.mwaiters.foldl (monitorWake wid) s
  if !w.mon.armed then s
  else if w.mon.hit then wake ()
  else
    match monPlace s w with
    | .loc l =>
      if lineNow s (s.block w.block).ctx (128 * w.mon.line) l != w.mon.snap then wake ()
      else s.modWarp wid (fun w => { w with mon := { w.mon with loc := l } })
    | .asked => askAts s (dieOf w.core) (s.ctx (s.block w.block).ctx) (128 * w.mon.line)
    | _ => s

/-- MONITOR_COMPARE (R212): an invalidation or update of the line has reached the core. -/
def execMonitorCompare (wid : Nat) (s : State) : Out := .next (monitorCheck s wid)

/-- MONITOR_POLL (R212): the comparison made at least every 4 µs. -/
def execMonitorPoll (wid : Nat) (s : State) : Out := .next (monitorCheck s wid)

/-- MWAIT_DEADLINE (R212): the limit has passed; MWAIT writes 0. -/
def execMwaitDeadline (wid grp : Nat) (s : State) : Out :=
  let w := s.warp wid
  match w.group? grp with
  | none => .next s
  | some g =>
    match g.wait, g.cur with
    | some (.mwait act t), some f =>
      if t = 0 || s.time < t || w.halted &&& g.mask ≠ 0 then .next s
      else
        match decodeWord f.word with
        | .ok (.mwait _ d _) => .next (mwaitEnd s wid grp f act (if d.d then none else some d.r.toNat) d.lt.toNat false)
        | _ => .next s
    | _, _ => .next s

/-! ### Prefetches -/

/-- A line of a prefetch reaches its levels (R205, R376), or is skipped (R206). -/
def prefLine (core : Nat) (p : Pref) (s : State) (va : Nat) : State :=
  if va < p.skip then s else
  match vaXl s p.die (s.ctx p.ctx) va ⟨false, false, none⟩ with
  | some (ia, .loc l) =>
    if migrating s p.die (s.ctx p.ctx) ia then s
    else
      let s1 := if p.mlc then s else (touchL2 s core ia p.pol).1
      (touchMlc s1 core ia l p.pol).bump
  | _ => s

/-- The first of some lines of a prefetch whose host page the host has not answered for (R206, R478): the IA. -/
def prefAsks (s : State) (p : Pref) (lines : List Nat) : Option (Nat × Nat) :=
  lines.findSome? (fun va =>
    if va < p.skip then none
    else match vaXl s p.die (s.ctx p.ctx) va ⟨false, false, none⟩ with | some (ia, .asked) => some (va, ia) | _ => none)

/-- The lines of a prefetch's next n bytes, each by its first of them. -/
def Pref.lines (p : Pref) (n : Nat) : List Nat :=
  (List.range ((p.va + n - 1) / 128 - p.va / 128 + 1)).map (fun i => max p.va ((p.va / 128 + i) * 128))

/-- PREFETCH_PROGRESS (R206): bytes pass, and are counted down on the barrier object where the block's
window stands now. Bytes of a host page wait for its translation. -/
def execPrefetchProgress (core idx bytes : Nat) (s : State) : Out :=
  match (s.core core).prefs[idx]? with
  | none => .next s
  | some p =>
    let n := min bytes p.left
    let lines := p.lines n
    if n = 0 then .next s
    else if let some (_, ia) := prefAsks s p lines then .next (askAts s p.die (s.ctx p.ctx) ia)
    else
      let s1 := lines.foldl (prefLine core p) s
      let b := s1.block p.block
      let s2 := match p.bar with
        | some o => if b.ended then s1 else s1.modCore core (fun k => barStep k (b.base + o) n false)
        | none => s1
      let p' := { p with va := p.va + n, left := p.left - n }
      .next (s2.modCore core (fun k => { k with prefs := if p'.left = 0 then k.prefs.eraseIdx idx else k.prefs.set idx p' }))

end Sys2Proof.Machine
end

