-- ==== Sys2Proof/Machine/FaultEvents.lean ====
section
/-! DEFINITION. Memory-side fault reports (R197, R442, R443), MEM-PARK events (R444) and the vectoring of trap
events to the user handler (R258, R439). -/

namespace Sys2Proof.Machine

/-! ### Reports -/

/-- Lanes of a transaction with a faulted access, and lanes deferred behind an earlier fault (R197). -/
def Txn.faulty (t : Txn) : LMask :=
  maskOf (fun l => hasLane t.mask l && (t.of l).any (fun a => a.st == .issued && (match a.xl with | .fault _ _ => true | _ => false)))
def deferredLanes (s : State) (w : Warp) (t : Txn) : LMask :=
  maskOf (fun l => hasLane t.mask l && !hasLane t.faulty l && (t.of l).any (fun a => a.st == .issued) && deferredBy s w t l)

/-- The lanes of a transaction that its report would take, once every other lane's translation is known and
all that stands before it in their program order is decided (R264). -/
def reportLanes (s : State) (w : Warp) (t : Txn) : LMask :=
  let d := deferredLanes s w t
  let m := t.faulty ||| d
  let known := (lanesOf (t.mask &&& ~~~d)).all (fun l => (t.of l).all (fun a => a.st != .issued || a.sp != .global || (match a.xl with | .loc _ | .fault _ _ => true | _ => false)))
  let first := (lanesOf m).all (fun l => (undecided s w t.id l).isEmpty)
  if known && first then m else 0

/-- The fault of a lane. -/
def Txn.faultAt (t : Txn) (l : Nat) : Kind × Nat :=
  ((t.of l).findSome? (fun a => match a.xl with | .fault k v => some (k, v) | _ => none)).getD (.deferred, 0)

/-- A lane learns of its fault (R442, R443): at a JOIN.WAIT or VPOINT, or between runs, it stops at once;
inside a run, at the run's end; at the start of a run while results of its last one may still trap, when they have come (R435). -/
def stopLane (w : Warp) (l : Nat) : Warp :=
  let t := w.thread l
  let halt := fun (pc : W64) => { (w.leaveAll (laneBit l)).modThread l (fun t => { t with st := .memStopped pc, stop := false }) with parkDue := true }
  match t.st with
  | .atJoin j pc => { halt pc with joins := w.joins.modify j (fun b => { b with arrived := b.arrived &&& ~~~laneBit l }) }
  | .atVpoint _ pc => halt pc
  | .live =>
    match w.groups.find? (fun g => hasLane g.mask l) with
    | some g => if g.pos.off = 0 && g.wait.isNone && g.after.isEmpty then halt g.pos.start else w.modThread l (fun t => { t with stop := true })
    | none => w
  | .fetchStopped _ _ => w.modThread l (fun t => { t with stop := true })
  | _ => w

/-- MEMORY_SIDE_FAULT_REPORT (R33, R197, R442): the faulting lanes of an instruction share one record, its
deferred lanes another; the lanes stop. At trap depth 1 the fault is unrecoverable (R259). -/
def execMemorySideFaultReport (wid tid : Nat) (s : State) : Out :=
  let w := s.warp wid
  match w.txn? tid with
  | none => .next s
  | some t =>
    let m := reportLanes s w t
    if m = 0 then .next s
    else
      let f := if t.kind.shared && t.faulty ≠ 0 then t.mask else t.faulty &&& m
      let d := m &&& ~~~f
      let kv := t.faultAt (lowLane f)
      let rest := t.part (t.mask &&& ~~~(f ||| d))
      let keep := !(rest.mask == 0) && rest.accs.any (fun a => a.st != .done)
      let s1 := s.modWarp wid (fun w => { w with txns := w.txns.filterMap (fun u => if u.id == tid then (if keep then some rest else none) else some u) })
      let s2 := if f = 0 then s1 else (placeRec s1 wid ⟨t.part f, kv.1, kv.2, s1.ctr, t.userLanes f⟩).bump
      let s3 := if d = 0 then s2 else recordDeferred s2 wid t d
      let deep := w.deep &&& (f ||| d)
      if deep ≠ 0 then
        let k := if f = 0 then Kind.deferred else kv.1
        .next (killBlock s3 w.block ⟨kindCode k, f ||| d, t.f.pc, w.index * 32 + lowLane deep⟩)
      else .next (s3.modWarp wid (fun w => (lanesOf (f ||| d)).foldl stopLane w))

/-! ### MEM-PARK -/

/-- Lanes in events that wait to be vectored. -/
def Warp.inEvents (w : Warp) : LMask := w.events.foldl (fun m e => m ||| e.mask) 0

/-- Lanes stopped at a run end. -/
def Warp.memStopped (w : Warp) : LMask := maskOf (fun l => match (w.thread l).st with | .memStopped _ => true | _ => false)

/-- Lanes that a record or a pending fault of the warp holds. -/
def heldLanes (s : State) (w : Warp) : LMask :=
  ((w.fr.filterMap id) ++ ((s.core w.core).pfq.filter (fun x => x.1 == w.id)).map (·.2)).foldl (fun m r => m ||| r.txn.mask) 0

/-- Lanes of MEM-PARK events that hold no record any more continue at their stop PCs (R444 step 2). -/
def settle (s : State) (wid : Nat) : State :=
  let w := s.warp wid
  let free := w.memStopped &&& w.inEvents &&& ~~~heldLanes s w
  if free = 0 then s
  else
    (s.modWarp wid (fun w =>
      let go := (lanesOf free).filterMap (fun l => match (w.thread l).st with | .memStopped pc => some (l, pc) | _ => none)
      let cut := fun (e : TrapEv) => if e.mem then { e with mask := e.mask &&& ~~~free } else e
      let w1 := { w with events := (w.events.map cut).filter (fun e => e.mask != 0) }
      let w2 := w1.modLanes free (fun _ t => { t with trec := none })
      w2.landAll s.ctr go [])).bump

/-- The stop PC of a lane. -/
def stopPc (t : Thread) : W64 := match t.st with | .memStopped pc => pc | .parked p _ => p.pc | _ => 0

/-- MEM_PARK (R444): the lanes that stopped at their runs' ends form one event. It comes before the quadrant's next cycle, so
that they are those of one cycle (`parkNext`). -/
def execMemPark (wid : Nat) (s : State) : Out :=
  let w := s.warp wid
  if !w.parkDue then .next s
  else
    let m := w.memStopped &&& ~~~w.inEvents
    let mark := fun (_ : Nat) (t : Thread) => { t with trec := some ⟨.memPark, stopPc t, 0, 0, m⟩ }
    let put := fun (w : Warp) =>
      let w1 := if m = 0 then w else { w.modLanes m mark with events := w.events ++ [⟨m, true⟩] }
      { w1 with parkDue := false }
    .next (settle (s.modWarp wid put) wid)

/-! ### Vectoring -/

/-- No lane of the mask waits for Usxon to resolve a record before it is vectored (R444, R446). -/
def autoClear (w : Warp) (m : LMask) : Bool := (lanesOf m).all (fun l => !autoWaits w l)

/-- A lane enters the handler (R258): its interrupted state is kept. -/
def enterHandler (_ : Nat) (t : Thread) : Thread :=
  let i : Interrupted := match t.st with
    | .parked p rid => ⟨p, rid, t.lat, ((t.trec.map (·.kind)).getD .illegal)⟩
    | _ => ⟨⟨stopPc t, [], 0⟩, 0, t.lat, .memPark⟩
  { t with depth := true, intr := some i, st := .live, stop := false }

/-- TRAP_VECTOR (R439, R258, R472): the oldest trap event enters the handler as one subgroup at HVEC; with no
handler it is unrecoverable. Bit 0 of the handler's PC is 0 (R14, log 72). What its lanes issued before has been reported (log 19). -/
def execTrapVector (wid : Nat) (s : State) : Out :=
  let w := s.warp wid
  let b := s.block w.block
  let x := s.launch b.launch
  match w.events with
  | [] => .next s
  | e :: rest =>
    if w.handler ≠ 0 || w.halted &&& e.mask ≠ 0 || mayFault w e.mask || !autoClear w e.mask || !blockRuns s w then .next s
    else
      let l := lowLane e.mask
      let t := w.thread l
      let k := if e.mem then ((oldestRec w l).map (·.kind)).getD .memPark else ((t.trec.map (·.kind)).getD .illegal)
      if !x.hen then .next (killBlock s w.block ⟨kindCode k, e.mask, stopPc t, w.index * 32 + l⟩)
      else
        let pc := BitVec.ofNat 64 (x.field 63 0 + x.field 319 288) &&& ~~~1#64
        let s1 := (s.modWarp wid (fun w =>
          let w1 := { w.modLanes e.mask enterHandler with events := rest, handler := e.mask }
          w1.landAll s.ctr ((lanesOf e.mask).map (fun l => (l, pc))) [])).bump
        let code := (t.trec.map (fun r => kindCode r.kind)).getD 0
        .next (traceEmit s1 b.ctx w.core w.quad { kind := 4, code := code, mask := e.mask, pc := stopPc t, name := laneName s w l })

end Sys2Proof.Machine
end

