-- ==== Sys2Proof/Machine/EngineEvents.lean ====
section
/-! DEFINITION. The matrix engine at work (R221, R227, R228, R232 to R240, R413 to R423): grants, operations in
engine order, the operand cache, twins, deck fills. -/

namespace Sys2Proof.Machine

/-- ENGINE_GRANT (R218, R219, R423): a free engine whose operations have completed passes to the head of the
FIFO. -/
def execEngineGrant (core : Nat) (s : State) : Out :=
  let k := s.core core
  match k.owner, k.fifo, k.eng with
  | none, o :: rest, [] => .next (s.modCore core (fun k => { k with owner := some o, fifo := rest }))
  | _, _, _ => .next s

/-! ### The order of operations -/

/-- The slots that an operation reads, when they are fixed (R229). -/
def EngOp.slots (e : EngOp) : Option (List Nat) :=
  match e.kind with
  | .mma => some ((List.range e.hdl.count).map (e.hdl.slot + ·))
  | .mxrun => none
  | _ => some []

/-- The slots of a handle. -/
def Handle.slots (h : Handle) : List Nat := (List.range h.count).map (h.slot + ·)

/-- A fill that entered before waits to write one of these slots (R230, R416). -/
def fillsBefore (k : Core) (seq : Nat) (slots : List Nat) : Bool :=
  k.fills.any (fun f => decide (f.seq < seq) && f.hdl.slots.any slots.contains)

/-- An operation whose turn it is (R221): the head of engine order, of a kind. -/
def headOp (s : State) (core : Nat) (k : EngKind) : Option EngOp :=
  match (s.core core).eng with
  | e :: _ => if e.kind == k && !fillsBefore (s.core core) e.seq (e.slots.getD []) then some e else none
  | [] => none

/-- An operation completes (R224, R342): its register is free, with its error mark, and the ACCSTATs after it take their flags. -/
def finishOp (s : State) (core : Nat) (e : EngOp) (err : Bool) : State :=
  let s1 := (s.modCore core (fun k => { k with eng := k.eng.tail })).count core 25 1
  let s2 := if e.kind == .accz then s1
    else s1.modBlock e.block (fun b => { b with cv := b.cv.modify e.cv (fun v => { v with busy := false, err := err }) })
  takeStats s2 core

/-- Clocks of an operation (R228), counted by MXA_BUSY (R342). -/
def macClocks (rows fw : Nat) : Nat :=
  let n := rows + 1
  let f := nbits fw 3 0
  if f ≤ 1 then 4 * n else if f = 4 then (n + 1) / 2 else n

/-! ### Operands -/

/-- A chunk of a row of A (R417): its operand handle, its bytes as they stand, and for global memory its intermediate
address and place. -/
structure Chunk where
  tag : Nat
  n : Nat
  now : Nat
  line : Option (Nat × Nat)
  deriving DecidableEq, Repr, Inhabited

/-- A row of A: its operand-cache chunks, whether their bytes have been read as they stand, and its scale bytes. -/
structure ARow where
  chunks : List Chunk
  fresh : Bool
  scales : Nat
  deriving DecidableEq, Repr, Inhabited

/-- Bytes of a row (R226). -/
def rowBytes (f : Nat) : Nat := 32 * elemBits f

/-- The chunks of a row at a physical scratchpad offset (R417). -/
def scratchChunks (k : Core) (o n : Nat) : List Chunk :=
  (List.range ((n + 255) / 256)).map (fun i => ⟨2 * (o + 256 * i), min n 256, scrRead k (o + 256 * i) (min n 256), none⟩)

/-- The entry of the operand cache that a chunk hits (R418): of its tag and generation, with its bytes. -/
def Core.opcHit (k : Core) (c : Chunk) : Option OpEnt := k.opc.find? (fun e => e.tag == c.tag && e.gen == k.gen && decide (c.n ≤ e.n))

/-- As many entries as the operand cache holds (R417): 256, of which a 128-byte chunk takes half. -/
def fitOpc : Nat → List OpEnt → List OpEnt
  | _, [] => []
  | room, e :: r => let u := if e.n ≤ 128 then 1 else 2; if room < u then [] else e :: fitOpc (room - u) r

/-- The operand cache after a chunk is read: an entry whose bytes were used is the most recently used, and one that is filled
replaces the least recently used (R418). -/
def Core.opcRead (fill : Bool) (k : Core) (c : Chunk) : Core :=
  match (if fill then none else k.opcHit c) with
  | some e => { k with opc := e :: k.opc.filter (fun x => x != e) }
  | none => { k with opc := fitOpc 512 (⟨c.tag, k.gen, c.n, c.now⟩ :: k.opc.filter (fun x => x.tag != c.tag)) }

/-- Lines of a global chunk that the engine port reads: a row of BULK reads at DEVICE scope (R239, R368). -/
def chunkTouch (core : Nat) (s : State) (c : Chunk) : State :=
  match c.line with
  | none => s
  | some (ia, loc) => (List.range ((c.n + 127) / 128)).foldl (fun s i => (touch s core (ia + 128 * i) (loc + 128 * i) .device .dflt).bump) s

/-- The bytes of a row (R226): chunk after chunk. -/
def joinChunks (f : Chunk → Nat) (cs : List Chunk) : Nat :=
  (cs.foldl (fun (p : Nat × Nat) c => (p.1 + f c % 256 ^ c.n * 256 ^ p.2, p.2 + c.n)) (0, 0)).1

/-- Every chunk of a row hits the operand cache. -/
def Core.opcHits (k : Core) (r : ARow) : Bool := r.chunks.all (fun c => (k.opcHit c).isSome)

/-- Reads a row through the operand cache, and counts it (R418, R342). A row that hits it throughout gives its old bytes or, as a
free value decides, its new ones, which then fill it (R237); another row gives its new bytes throughout. -/
def cacheRow (core : Nat) (s : State) (r : ARow) : State × Nat :=
  let k := s.core core
  let hit := k.opcHits r
  let old := hit && (!r.fresh || (Config.unknown64 (s.ctr * 256 + 248)).getLsbD 0)
  let v := joinChunks (fun c => if old then ((k.opcHit c).map (·.data)).getD c.now else c.now) r.chunks
  let s1 := if old then s else r.chunks.foldl (chunkTouch core) s
  (((s1.modCore core (fun k => r.chunks.foldl (Core.opcRead (!old)) k)).count core (if hit then 22 else 23) 1).bump, v)

/-- A column of B in a rod's slots (R414): its elements and scales. -/
def deckColumn (k : Core) (f : Nat) (scb : Bool) (slot n : Nat) : Nat × Option Nat :=
  let bytes := fun (h lo len : Nat) => (List.range len).foldl (fun r j => r + (cget k.deck 0 ((n * 64 + slot + h) * 256 + lo + j)).toNat * 256 ^ j) 0
  if f ≤ 1 then (bytes 0 0 256 + bytes 1 0 256 * 256 ^ 256, none)
  else if f = 4 then (bytes 0 0 128, if scb then some (bytes 0 128 8) else none)
  else (bytes 0 0 256, if scb then some (bytes 1 0 8) else none)

/-! ### Twins and replays -/

/-- Changes the head of engine order. -/
def State.modHead (s : State) (core : Nat) (f : EngOp → EngOp) : State :=
  s.modCore core (fun k => { k with eng := match k.eng with | e :: r => f e :: r | [] => [] })

/-- The operation or step at the head loses its twin before its commit, and what it does next is a replay (R420): the array has worked
on it for some of its clocks, a free value (R342). -/
def discardTwin (s : State) (core : Nat) (e : EngOp) : State :=
  let n := macClocks e.rows e.fmt.toNat
  ((s.modHead core (fun e => { e with redo := true })).count core 24 ((Config.unknown64 (s.ctr * 256 + 249)).toNat % (n + 1))).bump

/-- The head's operation or step starts: a replay is counted (R420, R342). -/
def startOp (s : State) (core : Nat) (e : EngOp) : State :=
  if e.redo then (s.modHead core (fun e => { e with redo := false })).count core 26 1 else s

/-! ### MMA and the steps of MXRUN -/

/-- THE MATRIX OPERATION (R227, R419): rows of A against the 512 columns of the deck, into the tile's twin, which
commits with its flags. -/
def macTile (s : State) (core tile fw slot : Nat) (ovw : Bool) (rows : List ARow) : State :=
  let fa := nbits fw 3 0
  let fb := nbits fw 7 4
  let sca := nbits fw 10 10 == 1
  let scb := nbits fw 11 11 == 1
  let cols := (List.range 512).map (fun n => let c := deckColumn (s.core core) fb scb slot n; elems fb c.1 c.2)
  let t := (s.core core).acc.getD tile default
  let (s1, twin, _) := rows.foldl (fun (p : State × Tile × Nat) r =>
    let (s1, x) := cacheRow core p.1 r
    let a := elems fa x (if sca then some r.scales else none)
    let put := fun (q : Tile × Nat) (b : List Num) =>
      let key := p.2.2 * 512 + q.2
      let (v, fl) := macElem fw ovw (cget t.cells 0 key).toNat a b
      ((⟨cset q.1.cells 0 key (BitVec.ofNat 32 v), q.1.stat ||| fl⟩ : Tile), q.2 + 1)
    (s1, (cols.foldl put (p.2.1, 0)).1, p.2.2 + 1)) (s, t, 0)
  (s1.modCore core (fun k => { k with acc := k.acc.set tile twin })).count core 24 (macClocks (rows.length - 1) fw)

/-- The rows of an MMA's A in the block's window (R226). -/
def mmaRows (s : State) (core : Nat) (e : EngOp) : List ARow :=
  let k := s.core core
  let base := (s.block e.block).base
  let a := e.ads.toNat
  let n := rowBytes (nbits e.fmt.toNat 3 0)
  (List.range (e.rows + 1)).map (fun i =>
    ⟨scratchChunks k (base + adOff a + i * adStr a) n, true, scrRead k (base + adScale a + 8 * i) 8⟩)

/-- MMA_EXECUTE (R227, R228). -/
def execMmaExecute (core : Nat) (s : State) : Out :=
  match headOp s core .mma with
  | none => .next s
  | some e => .next (finishOp (macTile (startOp s core e) core e.acc e.fmt.toNat e.hdl.slot e.ovw (mmaRows s core e)) core e false)

/-! ### MXRUN -/

/-- Fields of a matrix loop record (R238). -/
def mxNloop (r : Nat) : Nat := nbits r 98 96
def mxLoop (r j : Nat) : Nat := nbits r (191 + 64 * j) (128 + 64 * j)
def mxBound (r j : Nat) : Nat := nbits (mxLoop r j) 15 0
/-- A matrix loop record is well formed (R238). -/
def mxOk (r : Nat) : Bool :=
  r / 2 ^ 448 == 0 && nbits r 127 99 == 0 && mxNloop r ≤ 5 &&
    (List.range 5).all (fun j => if j < mxNloop r then mxBound r j != 0 && nbits (mxLoop r j) 63 58 == 0 else mxLoop r j == 0)
/-- Steps of a record (R239). -/
def mxSteps (r : Nat) : Nat := (List.range (mxNloop r)).foldl (fun n j => n * mxBound r j) 1
/-- The index of loop j at a step, loop 0 fastest (R239). -/
def mxIndex (r step j : Nat) : Nat := step / (List.range j).foldl (fun n i => n * mxBound r i) 1 % mxBound r j
/-- A sum over the loops of a step. -/
def mxSum (r step : Nat) (f : Nat → Int) : Int :=
  (List.range (mxNloop r)).foldl (fun x j => x + (mxIndex r step j : Int) * f (mxLoop r j)) 0

/-- The vector of an MXRUN (R421). -/
def mxVector (e : EngOp) : Nat :=
  match e.record with
  | some r => iterVector e.vec 0 0 (mxNloop r.toNat) (mxIndex r.toNat e.vec)
  | none => 0

/-- What reading A comes to (R240). -/
inductive ARead
  | rows (l : List ARow)
  | err
  | fault (va : Nat) (k : Kind)
  /-- a peer line that the local MLC must obtain first (R522) -/
  | peer (line : Nat)
  /-- a line that another core holds under a release (R394): one of its places -/
  | held (loc : Nat)
  /-- a host page that no ATS reply has come for (R453), by a virtual and an intermediate address -/
  | asked (va ia : Nat)
  | wait
  deriving DecidableEq, Repr, Inhabited

/-- n bytes of global memory as an engine of a core reads them, BULK at DEVICE scope: none in place of an
obstacle, with the address that faulted (R240, R255, R457). -/
inductive GRead
  | got (x : Nat)
  | err
  | fault (va : Nat) (k : Kind)
  | peer (line : Nat)
  | held (loc : Nat)
  | asked (va ia : Nat)
  | wait
  deriving DecidableEq, Repr, Inhabited

/-- Reads a global range for an engine. Poison ends the operation in error (R457); a place above the device memory is
NOT-PRESENT (log 35). -/
def globalRead (s : State) (core : Nat) (c : Ctx) (d : Dom) (a n : Nat) : GRead :=
  match sourcePieces c a n with
  | none => .err
  | some ps =>
    ps.foldl (fun (r : GRead) p =>
      match r with
      | .got x =>
        match translate s (dieOf core) c p.2.2.1 ⟨true, false, some d⟩ with
        | .loc l =>
          if poisoned s l p.2.1 then .err
          else if Config.deviceBytes ≤ l && l < peerBase then .fault (a + p.1) .notPresent
          else match (linesOf l p.2.1).find? (fun x => !peerOk s x false) with
          | some x => .peer ((x - peerBase) / 128)
          | none =>
            if heldElsewhere s none l p.2.1 then .held l
            else if !lineReady s none (dieOf core) d l p.2.1 false then .wait
            else .got (x + seenN s (sealOf s c.id p.2.2.1 l) l p.2.1 * 256 ^ p.1)
        | .fault .poison _ => .err
        | .fault k _ => .fault (a + p.1) k
        | .asked => if inHost c p.2.2.1 then .asked (a + p.1) p.2.2.1 else .wait
        | _ => .wait
      | x => x) (.got 0)

/-- What stands in the way of a read, for the row that it belongs to. -/
def GRead.stop : GRead → ARead
  | .fault va k => .fault va k
  | .peer l => .peer l
  | .held l => .held l
  | .asked va ia => .asked va ia
  | .wait => .wait
  | .got _ | .err => .err

/-- A row of a step's A at a generic address (R239): in the block's window or in global memory. Chunks that hit the operand cache
need no access (R418); the scales are read at each use (R417). -/
def mxRow (s : State) (core : Nat) (b : Block) (fw a : Nat) : ARead :=
  let n := rowBytes (nbits fw 3 0)
  let sca := nbits fw 10 10 == 1
  let all := n + if sca then 8 else 0
  let k := s.core core
  if nbits a 63 56 = 0xFE then
    if nbits a 55 52 = 1 && nbits a 51 21 = 0 && a % 2 ^ 21 + all ≤ b.size then
      .rows [⟨scratchChunks k (b.base + a % 2 ^ 21) n, true, scrRead k (b.base + a % 2 ^ 21 + n) 8⟩]
    else .err
  else
    let c := s.ctx b.ctx
    if (sourcePieces c a all).isNone then .err
    else
      let ia := fun (o : Nat) => match findWindow c.win (a + o) with | some i => windowIa (c.win.getD i 0) (a + o) | none => 0
      let loc := fun (o : Nat) => match translate s (dieOf core) c (ia o) ⟨true, false, some .bulk⟩ with | .loc l => some (ia o, l) | _ => none
      let row := fun (x : Nat) (fresh : Bool) (sc : Nat) =>
        ARow.mk ((List.range ((n + 255) / 256)).map (fun i => ⟨2 * ia (256 * i) + 1, min n 256, x / 256 ^ (256 * i) % 256 ^ min n 256, loc (256 * i)⟩)) fresh sc
      match (if sca then globalRead s core c .bulk (a + n) 8 else .got 0), globalRead s core c .bulk a n with
      | .got sc, .got x => .rows [row x true sc]
      | .got sc, r =>
        if k.opcHits (row 0 false sc) then .rows [row 0 false sc]
        else r.stop
      | r, _ => r.stop

/-- The rows of a step's A. -/
def mxRows (s : State) (core : Nat) (e : EngOp) (r : Nat) : ARead :=
  let base := (nbits r 63 0 : Int) + mxSum r e.vec (fun l => sextN (nbits l 47 16) 32)
  let at_ := fun (i : Nat) => wrapI (base + (i : Int) * sextN (nbits r 95 64) 32) 64
  (List.range (e.rows + 1)).foldl (fun (x : ARead) i =>
    match x with
    | .rows l => match mxRow s core (s.block e.block) e.fmt.toNat (at_ i) with | .rows m => .rows (l ++ m) | y => y
    | y => y) (.rows [])

/-- What an MXRUN's next step is to do (R239): the tile, the first slot, whether it overwrites. -/
def mxTile (e : EngOp) (r : Nat) : Nat := (e.acc + (mxSum r e.vec (fun l => nbits l 56 54)).toNat) % 8
def mxSlot (e : EngOp) (r step : Nat) : Int := (e.hdl.slot : Int) + mxSum r step (fun l => sextN (nbits l 53 48) 6)
def mxOvw (e : EngOp) (r : Nat) : Bool :=
  e.ovw && (List.range (mxNloop r)).all (fun j => nbits (mxLoop r j) 57 57 == 0 || mxIndex r e.vec j == 0)

/-- An access of an MXRUN has faulted (R240): Usxon receives the report with the vector (R421). -/
def opFaults (s : State) (core : Nat) (e : EngOp) (va : Nat) (k : Kind) : State :=
  let x := (s.block e.block).ctx
  let ia := ((vaXl s (dieOf core) (s.ctx x) va ⟨false, false, none⟩).map (·.1)).getD 0
  let s1 := tellBad s (s.ctx x) ia
  { s1 with log := .fault k x ia (mxVector e) :: s1.log }

/-- The step of an MXRUN loses its twin to a fault of an access, and waits for Usxon (R240, R420). -/
def faultStep (s : State) (core : Nat) (e : EngOp) (va : Nat) (k : Kind) : State :=
  opFaults (discardTwin ((startOp s core e).modHead core (fun e => { e with fault := some (va, k) })) core e) core e va k

/-- MXRUN_STEP (R238 to R240): the record is read when the turn comes, then one step at a time commits. -/
def execMxrunStep (core : Nat) (s : State) : Out :=
  match headOp s core .mxrun with
  | none => .next s
  | some e =>
    match e.record with
    | none =>
      let r := scrRead (s.core core) ((s.block e.block).base + e.ads.toNat) 64
      .next (if mxOk r then s.modHead core (fun e => { e with record := some (BitVec.ofNat 512 r) }) else finishOp s core e true)
    | some w =>
      let r := w.toNat
      let f := e.hdl.fmt
      let slot := mxSlot e r e.vec
      if e.fault.isSome then .next s
      else if !slotOk f e.hdl.scb slot then .next (finishOp s core e true)
      else if fillsBefore (s.core core) e.seq ((List.range e.hdl.count).map (slot.toNat + ·)) then .next s
      else
        match mxRows s core e r with
        | .err => .next (finishOp s core e true)
        | .wait | .peer _ => .next s
        | .held l => .next (demandLines s none l 1)
        | .asked _ ia => .next (askAts s (dieOf core) (s.ctx (s.block e.block).ctx) ia)
        | .fault va k => .next (faultStep s core e va k)
        | .rows rows =>
          let s1 := macTile (startOp s core e) core (mxTile e r) e.fmt.toNat slot.toNat (mxOvw e r) rows
          if e.vec + 1 < mxSteps r then .next (s1.modHead core (fun e => { e with vec := e.vec + 1 }))
          else .next (finishOp s1 core { e with vec := e.vec + 1 } false)

/-! ### Tiles and the scratchpad -/

/-- ACCZ_EXECUTE (R232). -/
def execAcczExecute (core : Nat) (s : State) : Out :=
  match headOp s core .accz with
  | none => .next s
  | some e => .next (finishOp ((s.modCore core (fun k => { k with acc := k.acc.set e.acc .zero })).count core 24 4) core e false)

/-- The elements that rows from `row` on cover: (element key, byte index of the element). -/
def rowKeys (row rows : Nat) : List (Nat × Nat) :=
  (List.range (rows + 1)).flatMap (fun i => (List.range 512).map (fun n => ((row + i) * 512 + n, i * 512 + n)))

/-- ACCRD_EXECUTE (R233). -/
def execAccrdExecute (core : Nat) (s : State) : Out :=
  match headOp s core .accrd with
  | none => .next s
  | some e =>
    let t := (s.core core).acc.getD e.acc default
    let o := (s.block e.block).base + e.ads.toNat
    let put := fun (k : Core) (x : Nat × Nat) => scrWrite k (o + 4 * x.2) 4 (cget t.cells 0 x.1).toNat
    .next (finishOp ((s.modCore core (fun k => (rowKeys e.fmt.toNat e.rows).foldl put k)).count core 24 (2 * (e.rows + 1))) core e false)

/-- ACCWR_EXECUTE (R233). -/
def execAccwrExecute (core : Nat) (s : State) : Out :=
  match headOp s core .accwr with
  | none => .next s
  | some e =>
    let k := s.core core
    let o := (s.block e.block).base + e.ads.toNat
    let put := fun (c : Cells W32) (x : Nat × Nat) => cset c 0 x.1 (BitVec.ofNat 32 (scrRead k (o + 4 * x.2) 4))
    let load := fun (t : Tile) => { t with cells := (rowKeys e.fmt.toNat e.rows).foldl put t.cells }
    .next (finishOp ((s.modCore core (fun k => { k with acc := k.acc.modify e.acc load })).count core 24 (2 * (e.rows + 1))) core e false)

/-- ACCCVT_EXECUTE (R235). -/
def execAcccvtExecute (core : Nat) (s : State) : Out :=
  match headOp s core .acccvt with
  | none => .next s
  | some e =>
    let t := (s.core core).acc.getD e.acc default
    let cw := e.fmt.toNat
    let w := tyBits (cwTy cw) / 8
    let o := (s.block e.block).base + e.ads.toNat
    let put := fun (k : Core) (x : Nat × Nat) => scrWrite k (o + w * x.2) w (accConv cw e.rm (cget t.cells 0 x.1).toNat)
    .next (finishOp ((s.modCore core (fun k => (rowKeys (nbits cw 15 9) e.rows).foldl put k)).count core 24 ((e.rows + 1) * max 1 (w / 2))) core e false)

/-- The operation or step at the head of engine order reads its operands (R420): its turn has come, and nothing stands before it. -/
def atWork (s : State) (core : Nat) : Option EngOp :=
  (headOp s core .mma).or ((headOp s core .mxrun).filter (fun e =>
    match e.record with
    | none => false
    | some w =>
      let slot := mxSlot e w.toNat e.vec
      e.fault.isNone && slotOk e.hdl.fmt e.hdl.scb slot && !fillsBefore (s.core core) e.seq ((List.range e.hdl.count).map (slot.toNat + ·))
        && (match mxRows s core e w.toNat with | .rows _ => true | _ => false)))

/-- ECC_REPLAY (R420, R227): a corrected event on an operand read discards the twin; the operation or step
replays at once. -/
def execEccReplay (core : Nat) (s : State) : Out :=
  match atWork s core with
  | some e => .next (discardTwin (startOp s core e) core e)
  | none => .next s

/-! ### Deck fills -/

/-- The slots that an operation reads as far as they are known (R416): an MXRUN's are known once it has read its record, those of
every step. -/
def EngOp.reads (e : EngOp) (n : Nat) : Bool :=
  match e.slots, e.record with
  | some l, _ => l.contains n
  | none, none => true
  | none, some w =>
    let r := w.toNat
    let strides := (List.range (mxNloop r)).filterMap (fun j =>
      let t := sextN (nbits (mxLoop r j) 53 48) 6
      if t = 0 then none else some (mxBound r j, t))
    let firsts := strides.foldl (fun (l : List Int) x => l.flatMap (fun a => (List.range x.1).map (fun (i : Nat) => a + (i : Int) * x.2))) [(e.hdl.slot : Int)]
    firsts.any (fun a => decide (a ≤ (n : Int) ∧ (n : Int) < a + e.hdl.count))

/-- A fill waits for operations earlier in engine order that read its slots, and for earlier fills of them
(R416). -/
def fillWaits (k : Core) (f : Fill) : Bool :=
  k.eng.any (fun e => decide (e.seq < f.seq) && f.hdl.slots.any e.reads) || fillsBefore k f.seq f.hdl.slots

/-- A fill's own read of one of its pieces (R230, R364): a BULK load at its scope. -/
def fillRead (wid : Nat) (t : Txn) (s : State) (a : Acc) : State :=
  let w := s.warp wid
  if a.st == .done then s
  else
    let a1 := { a with got := loadVal s w t a (usesL1 t a), st := .done }
    (l1After s w t a).bump.modWarp wid (fun w => { w with txns := w.txns.map (fun u =>
      if u.id == t.id then { u with accs := u.accs.map (fun b => if b.name == a.name then a1 else b) } else u) })

/-- DECK_FILL_COMPLETE (R230, R414, R416): what its source has not given yet is read, and the slots are written. -/
def execDeckFillComplete (core idx : Nat) (s : State) : Out :=
  let k := s.core core
  match k.fills[idx]? with
  | none => .next s
  | some f =>
    if fillWaits k f then .next s
    else
      match f.txn with
      | none =>
        let o := (s.block f.block).base + f.hdl.src.toNat % 2 ^ 21
        .next (fillDone s core f (fun i => (scrGet k (o + i)).toNat))
      | some id =>
        let w := s.warp f.warp
        match w.txn? id with
        | none => .next s
        | some t =>
          match t.accs.find? (fun a => a.st != .done && !loadReady s w t a) with
          | some a => .next (if loadFree s w t a && !l1Hit s w t a then meetHeld s w a else s)
          | none =>
            let bad := fun (a : Acc) => a.st != .done && !l1Hit s w t a && poisoned s a.place a.n
            if t.accs.any bad then
              .next (s.modWarp f.warp (fun w => w.putTxn { t with accs := t.accs.map (fun a => if bad a then { a with xl := .fault .poison 0 } else a) }))
            else
              let s1 := t.accs.foldl (fillRead f.warp t) s
              let as := (((s1.warp f.warp).txn? id).map (·.accs)).getD []
              .next ((fillDone s1 core f (fillByte as)).modWarp f.warp (fun w => { w with txns := w.txns.filter (fun u => u.id != id) }))

end Sys2Proof.Machine
end

