-- ==== Sys2Proof/Machine/TransferEvents.lean ====
section
/-! DEFINITION. The request engine and the copy and routing engines (R249 to R255, R424 to R429). -/

namespace Sys2Proof.Machine

/-! ### An engine's accesses -/

/-- Where an engine's access to one byte goes (R255): a byte of a space, or what stands in its way. -/
inductive ERef
  | ref (sp : Space) (key ia : Nat)
  | err
  | fault (va : Nat) (k : Kind)
  /-- a peer line, by its number, that the local MLC must obtain first (R522) -/
  | peer (line : Nat) (modified : Bool)
  /-- a line that a core holds under a release, whose publish is to be demanded (R394): one of its places -/
  | held (loc : Nat)
  /-- a host page that no ATS reply has come for (R453), by a virtual and an intermediate address -/
  | asked (va ia : Nat)
  | wait
  deriving DecidableEq, Repr, Inhabited

/-- What an engine does with a byte: an atomic reads and writes it (R187). -/
structure Use where
  r : Bool
  w : Bool
  deriving DecidableEq, Repr, Inhabited

def Use.read : Use := ⟨true, false⟩
def Use.write : Use := ⟨false, true⟩
def Use.both : Use := ⟨true, true⟩

/-- The home of a plain access in a domain at a scope is the posting core's L1 and its queues (R190, R408). -/
def nearHome (d : Dom) (sc : Scope) : Bool := (d == .rc || d == .bulk) && narrow sc

/-- One byte of global memory as an access. -/
def byteAcc (ia loc : Nat) : Acc :=
  { lane := 0, part := 0, n := 1, sp := .global, key := ia, data := 0, cmp := 0, got := 0, user := false, xl := .loc loc, st := .issued, lost := 0 }

/-- An access of a block's engine operation whose home is its core finds the byte there (R190): one that the core holds for the
operation, or a line of its L1. -/
def nearByte (s : State) (b : Block) (ia : Nat) : Option Nat :=
  (heldByte s b.core (.op b.id) ia).or (((s.core b.core).l1line b.ctx ia).map (·.byte ia))

/-- A byte that a request of a block names by a generic address (R183, R255), for an access in a domain at a scope. The posting
block's window bounds addresses of its own rank. Where the scope's home is the posting core (R190, R408), a read finds a byte
there, and a write comes after the stores that the core holds for the operation (R379, R382). A place above the device memory is
NOT-PRESENT (log 35). The aperture spaces take every domain and scope of an engine: R189 refuses some for lanes, and R255 names no
outcome (DESIGN CHOICE, log 88). -/
def engRef (s : State) (b : Block) (d : Dom) (sc : Scope) (use : Use) (a : Nat) : ERef :=
  let c := s.ctx b.ctx
  if nbits a 63 56 = 0xFE then
    match nbits a 55 52 with
    | 1 => if nbits a 51 21 = 0 && a % 2 ^ 21 < b.size then .ref (.scratch b.core) (b.base + a % 2 ^ 21) 0 else .err
    | 2 =>
      match rankBlock s b (nbits a 26 24) with
      | some x =>
        let size := if x.id == b.id then b.size else exportBytes s x
        if x.saved then .wait else if nbits a 51 27 = 0 && nbits a 23 19 = 0 && a % 2 ^ 19 < size then .ref (.scratch x.core) (x.base + a % 2 ^ 19) 0 else .err
      | none => .err
    | 3 => if nbits a 51 26 = 0 && a % 2 ^ 26 < carveBytes c then .ref .diescr (carvePlace (dieOf b.core) c + a % 2 ^ 26) 0 else .err
    | _ => .err
  else
    match vaXl s (dieOf b.core) c a ⟨use.r, use.w, some d⟩ with
    | none => .err
    | some (ia, x) =>
      match x with
      | .loc l =>
        let near := nearHome d sc && !(use.r && use.w)
        let from_ := if near then some b.core else none
        if near && !use.w && (nearByte s b ia).isSome then .ref .global l ia
        else if poisoned s l 1 then .err
        else if Config.deviceBytes ≤ l && l < peerBase then .fault a .notPresent
        else if !peerOk s l use.w then .peer ((l - peerBase) / 128) use.w
        else if heldElsewhere s from_ l 1 then .held l
        else if near && use.w && heldMeets s b.core (.op b.id) (byteAcc ia l) (fun _ _ _ => true) then .wait
        else if lineReady s from_ (dieOf b.core) d l 1 use.w then .ref .global l ia
        else .wait
      | .fault .poison _ => .err
      | .fault .domainFloor _ => .err
      | .fault k _ => .fault a k
      | .asked => if inHost c ia then .asked a ia else .wait
      | _ => .wait

/-- A byte of a space: its place, and its intermediate address when it is global. -/
abbrev EByte := Space × Nat × Nat

/-- The bytes of a range of addresses: their places, or the first obstacle. -/
def engRefs (s : State) (b : Block) (d : Dom) (sc : Scope) (use : Use) (a n : Nat) : List EByte × Option ERef :=
  (List.range n).foldl (fun (p : List EByte × Option ERef) i =>
    match p.2 with
    | some _ => p
    | none =>
      match engRef s b d sc use ((a + i) % 2 ^ 64) with
      | .ref sp k ia => (p.1 ++ [(sp, k, ia)], none)
      | x => (p.1, some x)) ([], none)

/-- A byte as an engine operation of a block reads it in a domain at a scope: from its core where the home is there (R190), and a
CAUSAL read with the die's pending updates (R391). -/
def engGet (s : State) (b : Block) (d : Dom) (sc : Scope) (x : EByte) : Nat :=
  match x.1 with
  | .scratch c => (scrGet (s.core c) x.2.1).toNat
  | .global =>
    let m := (seenByte s (sealOf s b.ctx x.2.2 x.2.1) x.2.1).toNat
    if d == .causal then causalByte s (dieOf b.core) x.2.1 m else if nearHome d sc then (nearByte s b x.2.2).getD m else m
  | _ => (memGet s.mem x.2.1).toNat

/-- The granules of neighbouring bytes that a block's engine writes come under its context's key and their tweaks (R499). -/
def engSeal (s : State) (b : Block) (xs : List EByte) : State :=
  match xs with
  | (.global, l, ia) :: _ => resealN s (sealOf s b.ctx ia l) l xs.length
  | _ => s

/-- A byte of a space written by an engine at its home. -/
def engPut (s : State) (x : EByte) (v : Nat) : State :=
  match x.1 with
  | .scratch c => s.modCore c (fun k => scrPut k x.2.1 (BitVec.ofNat 8 v))
  | _ => usePeer { s with mem := memSet s.mem x.2.1 (BitVec.ofNat 8 v) } x.2.1

/-- A byte written for a block in a domain at a scope: where the home is the posting core, its L1's copy takes it (R190). -/
def engPutAt (s : State) (b : Block) (d : Dom) (sc : Scope) (x : EByte) (v : Nat) : State :=
  let s1 := engPut s x v
  if x.1 == .global && nearHome d sc then s1.modCore b.core (fun k => k.l1write b.ctx x.2.2 1 v) else s1

/-- Neighbouring bytes are CAUSAL writes to global memory: first a pending update of their die (R391). -/
def causalWrite (d : Dom) (xs : List EByte) : Bool := d == .causal && (xs.head?.any (fun x => x.1 == .global))

/-- Neighbouring bytes written by a request of a block (R190, R391). -/
def engWrite (s : State) (b : Block) (id : W32) (d : Dom) (sc : Scope) (xs : List EByte) (vs : List Nat) : State :=
  match xs with
  | (_, loc, ia) :: _ =>
    if causalWrite d xs then
      s.modDie (dieOf b.core) (fun k => { k with upd := k.upd ++ [⟨.job b.id id, ia, loc, xs.length, vs.foldr (fun v n => v + 256 * n) 0⟩] })
    else (xs.zip vs).foldl (fun s x => engPutAt s b d sc x.1 x.2) (engSeal s b xs)
  | [] => s

/-- The domain and scope of a request's accesses. -/
def reqDomain (r : Nat) : Dom := (domOf (reqDom r)).getD .bulk
def reqSc (r : Nat) : Scope := (scopeOf (reqScope r)).getD .device

/-- The caches at an engine's access to bytes, by its record's scope and policy (R190, R249, R368): L1 too, for a read whose home
is there. -/
def engTouch (s : State) (b : Block) (r : Nat) (load : Bool) (xs : List EByte) : State :=
  let scope := if reqDom r = domCode .causal then .die else reqSc r
  let pol := (polOf (reqPol r)).getD .dflt
  let lines := (xs.filterMap (fun x => if x.1 == .global then some (x.2.2 / 128, x.2.1 / 128) else none)).eraseDups
  lines.foldl (fun s x =>
    (if load && nearHome (reqDomain r) scope then l1Load b.core b.ctx (reqDomain r == .rc) false scope pol s (128 * x.1, 128 * x.2)
     else touch s b.core (128 * x.1) (128 * x.2) scope pol).bump) s

/-- A number that a request reads from n bytes, with the caches after it, or an obstacle. -/
def engNum (s : State) (b : Block) (r a n : Nat) : Except ERef (Nat × State) :=
  match engRefs s b (reqDomain r) (reqSc r) .read a n with
  | (l, none) => .ok (l.foldr (fun x m => engGet s b (reqDomain r) (reqSc r) x + 256 * m) 0, engTouch s b r true l)
  | (_, some e) => .error e

/-! ### Handing requests out -/

/-- An address of a request lies in host memory or on a peer device (R425). -/
def farAway (s : State) (b : Block) (a : Nat) : Bool :=
  let c := s.ctx b.ctx
  match vaXl s (dieOf b.core) c a ⟨false, false, none⟩ with
  | some (ia, x) => inHost c ia || (match x with | .loc l => decide (peerBase ≤ l) | _ => false)
  | none => false

/-- The engines that may serve a request (R425). -/
def enginesFor (s : State) (b : Block) (r : Nat) : List Nat :=
  if reqKind r = 3 || farAway s b (reqSrc r) || farAway s b (reqDst r) then List.range 16
  else (List.range 4).map (fun i => 16 + 4 * dieOf b.core + i)

/-- Bytes of a request still to move. -/
def bytesLeft (q : Req) : Nat :=
  let r := q.record.toNat
  (reqUnits r - q.counted) * (if reqKind r = 3 then slotSize r else 1)

/-- The migration that a job copies a page for (R456). -/
def State.mig? (s : State) (j : Job) : Option Mig := j.page.bind (fun p => s.migs.find? (fun m => m.ctx == p.1 && m.lo == p.2))

/-- Changes a migration of a page. -/
def State.modMig (s : State) (ctx lo : Nat) (f : Mig → Mig) : State :=
  { s with migs := s.migs.map (fun m => if m.ctx == ctx && m.lo == lo then f m else m) }

/-- Bytes queued on an engine (R425). -/
def bytesQueued (s : State) (e : Nat) : Nat :=
  ((s.engines.getD e []).map (fun j => match s.mig? j with
    | some m => 2 ^ m.bits - m.pos
    | none => (((s.block j.block).req? j.req).map bytesLeft).getD 0)).sum

/-- The engine with the fewest bytes queued, the lowest-numbered of several (R425). -/
def leastQueued (s : State) (es : List Nat) : Option Nat :=
  (firstBy (fun (x y : Nat × Nat) => x.1 < y.1 || (x.1 == y.1 && x.2 < y.2)) (es.map (fun e => (bytesQueued s e, e)))).map (·.2)

/-- Changes the jobs of an engine. -/
def State.modJobs (s : State) (e : Nat) (f : List Job → List Job) : State := { s with engines := s.engines.modify e f }

/-- REQUEST_HANDOFF (R424, R425, R249, R255): the head of a core's queue goes to a copy engine; a malformed
record completes in error there and touches nothing. A core that stops hands nothing out (R426). -/
def execRequestHandoff (core : Nat) (s : State) : Out :=
  match if (s.core core).stop = .no then (s.core core).reqq else [] with
  | [] => .next s
  | (bid, id) :: _ =>
    let b := s.block bid
    let s1 := s.modCore core (fun k => { k with reqq := k.reqq.tail })
    match b.req? id with
    | none => .next s1
    | some q =>
      let r := q.record.toNat
      if !recOk b.size r then .next (s1.modReq bid id (fun q => { q with st := .done, outcome := 2, counted := reqUnits r }))
      else if reqUnits r = 0 then .next (s1.modReq bid id (fun q => { q with st := .done }))
      else
        match leastQueued s (enginesFor s b r) with
        | none => .next s1
        | some e => .next (markRunning (s1.modJobs e (fun js => js ++ [{ core := core, block := bid, req := id }])))

/-! ### Turns -/

/-- The posting interface exceeds its bandwidth budget (R426). -/
def heldBack (s : State) (j : Job) : Bool := j.page.isNone && (s.iface (s.ctx (s.block j.block).ctx).iface).bwOver

/-- A job gives its turn to the next of the four. -/
def rotate (j : Job) (js : List Job) : List Job :=
  let run := (js.take 4).filter (fun x => x != j)
  run ++ [j] ++ js.drop 4

/-- A request has nothing more to move: what it waits for is its last CAUSAL updates (R254). -/
def allMoved (q : Req) : Bool := reqKind q.record.toNat != 3 && decide (reqUnits q.record.toNat ≤ q.moved)

/-- A request is to go no further than the granules that it is inside of (R256, R426): it is cancelled, its core stops for a
pre-emption, or its interface is over its budget. -/
def staying (s : State) (j : Job) (q : Req) : Bool := q.cancel || (s.core j.core).stop != .no || heldBack s j

/-- Whose turn it is on an engine: a request's, or a page's that Usxon migrates. -/
inductive Turn
  | req (j : Job) (q : Req)
  | page (j : Job) (m : Mig)
  deriving DecidableEq, Repr, Inhabited

/-- The turn goes to the next of the four running jobs that may move (R426); one whose access waits for Usxon may not (R255). -/
def nextTurn (s : State) (e : Nat) : Option Turn :=
  ((s.engines.getD e []).take 4).findSome? (fun j =>
    match j.page with
    | some _ => ((s.mig? j).filter (fun m => !m.bad && decide (m.pos < 2 ^ m.bits))).map (Turn.page j)
    | none => ((s.block j.block).req? j.req).bind (fun q =>
        if q.fault.isSome || allMoved q || (atGranule q && staying s j q) then none else some (.req j q)))

/-- The turn of an engine is a copy's or loop's, a route's, or a page's. -/
def nextCopy (s : State) (e : Nat) : Option (Job × Req) :=
  match nextTurn s e with | some (.req j q) => if reqKind q.record.toNat ≠ 3 then some (j, q) else none | _ => none
def nextRoute (s : State) (e : Nat) : Option (Job × Req) :=
  match nextTurn s e with | some (.req j q) => if reqKind q.record.toNat = 3 then some (j, q) else none | _ => none
def nextPage (s : State) (e : Nat) : Option (Job × Mig) :=
  match nextTurn s e with | some (.page j m) => some (j, m) | _ => none

/-- An access of a request has faulted (R255): Usxon receives the report with the request's vector (R421), and the request waits. -/
def jobFaults (s : State) (j : Job) (va : Nat) (k : Kind) : State :=
  let b := s.block j.block
  let c := s.ctx b.ctx
  let ia := ((vaXl s (dieOf b.core) c va ⟨false, false, none⟩).map (·.1)).getD 0
  let vec := ((b.req? j.req).map (fun q => if reqKind q.record.toNat = 3 then 0 else reqVector q)).getD 0
  let s1 := tellBad (s.modReq j.block j.req (fun q => { q with fault := some (va, k) })) c ia
  { s1 with log := .fault k b.ctx ia vec :: s1.log }

/-- What an engine does at its turn with what it came to: the state after it, an error that ends the request, a publish that is
demanded (R394), a fault that Usxon resolves (R255), a host page that is asked for (R478), or a wait, which gives the turn to the next
request. A request that has come to a granule's end gives its turn
too, and one that was cancelled inside the granule ends there (R256, R426). -/
def afterTurn (s : State) (e : Nat) (j : Job) (x : Except ERef State) : State :=
  match x with
  | .ok s1 =>
    match (s1.block j.block).req? j.req with
    | some q =>
      if !atGranule q then s1
      else if q.cancel && q.st != .done then endReq s1 j.block j.req 1
      else s1.modJobs e (fun js => if js.contains j then rotate j js else js)
    | none => s1
  | .error .err => endReq s j.block j.req 2
  | .error (.held l) => (demandLines s none l 1).modJobs e (rotate j)
  | .error (.fault va k) => (jobFaults s j va k).modJobs e (rotate j)
  | .error (.asked _ ia) => (askAts s (dieOf (s.block j.block).core) (s.ctx (s.block j.block).ctx) ia).modJobs e (rotate j)
  | .error _ => s.modJobs e (rotate j)

/-! ### Copy and loop requests -/

/-- A later byte of the request falls into a granule of the destination (R254). -/
def touchesLater (r it off gran : Nat) : Bool :=
  (List.range (if reqKind r = 1 then 1 else reqIters r)).any (fun i =>
    let d := (iterAddrs r i).2
    let lo := d + (if i = it then off else 0)
    decide (it ≤ i) && decide (lo < (gran + 1) * 16 ∧ gran * 16 < d + iterLen r ∧ lo < d + iterLen r))

/-- A request after n more bytes are written, with which a granule and an iteration may end (R421). -/
def Req.move (q : Req) (n : Nat) (whole last : Bool) : Req :=
  if reqKind q.record.toNat = 1 then { q with count := q.count + n, moved := q.moved + n }
  else if last then { q with count := q.count + 1, goff := 0, moved := q.moved + n }
  else { q with goff := q.goff + whole.toNat, moved := q.moved + n }

/-- What a copy or loop request writes next (R378, R250, R251, R254, R426): a granule that it writes whole, or one byte of
another, which it begins when nothing stands before its part of the granule; the state after it, or the obstacle. Of the orders
that R396 leaves open it takes the ascending one (log 39). -/
def copyStep (s : State) (j : Job) (q : Req) : Except ERef State :=
  let r := q.record.toNat
  let b := s.block j.block
  let (it, off) := iterAt r q
  let (src, dst) := iterAddrs r it
  let n := if (dst + off) % 16 = 0 && off + 16 ≤ iterLen r then 16 else 1
  let d := reqDomain r
  let sc := reqSc r
  let m := if atGranule q then min (16 - (dst + off) % 16) (iterLen r - off) else n
  match engRefs s b d sc .read (src + off) m, engRefs s b d sc .write (dst + off) m with
  | (xs0, none), (ys0, none) =>
    let xs := xs0.take n
    let ys := ys0.take n
    let s1 := engTouch (engTouch (engWrite s b j.req d sc ys (xs.map (engGet s b d sc))) b r true xs) b r false ys
    let last := off + n = iterLen r
    let whole := last || (dst + off + n) % 16 = 0
    let s2 := (s1.modReq j.block j.req (fun q => q.move n whole last)).count j.core 29 whole.toNat
    let s3 := match reqBeads r, ys with
      | true, (.scratch c, k, _) :: _ =>
        if touchesLater r it (off + n) ((dst + off) / 16) then s2 else s2.modCore c (fun x => beadPut x (k / 16) true)
      | _, _ => s2
    .ok (if causalWrite d ys then s3 else requestCount s3 j.block j.req n)
  | (_, some x), _ => .error x
  | _, (_, some x) => .error x

/-- The granule of a page that is copied next (R456): its 16 bytes go to the new frame as they stand, with what they are encrypted
under, which the page's IA keeps (R499); one that is poisoned
ends the copy, and one that a peer owns is waited for (R523). -/
def pageStep (s : State) (m : Mig) : State :=
  let at_ := m.src + m.pos
  if poisoned s at_ 16 then s.modMig m.ctx m.lo (fun m => { m with bad := true })
  else if !dirOk s at_ false then s
  else
    let s1 := { s with
      mem := memWriteN s.mem (m.dst + m.pos) 16 (memReadN s.mem at_ 16)
      seals := cset s.seals 0 ((m.dst + m.pos) / 64) (sealAt s at_)
      poison := cset s.poison false ((m.dst + m.pos) / 64) false }
    s1.modMig m.ctx m.lo (fun m => { m with pos := m.pos + 16 })

/-- COPY_GRANULE (R426, R254, R255): the engine takes one granule of the next of its running requests, a copy or loop, or of a page
that Usxon migrates (R425, R456). -/
def execCopyGranule (e : Nat) (s : State) : Out :=
  match nextCopy s e, nextPage s e with
  | some (j, q), _ => .next (afterTurn s e j (copyStep s j q)).bump
  | none, some (j, m) => .next ((pageStep s m).modJobs e (rotate j)).bump
  | none, none => .next s

/-! ### Routes -/

/-- Fields of a send-list entry (R252). -/
def entTok (x : Nat) : Nat := nbits x 15 0
def entExpert (x choice : Nat) : Nat := if choice = 0 then nbits x 23 16 else nbits x 31 24
def entGate (x choice : Nat) : Nat := if choice = 0 then nbits x 47 32 else nbits x 63 48

/-- The send-list entry of a route. -/
def readEntry (s : State) (b : Block) (r e : Nat) : Except ERef (Nat × State) := engNum s b r (reqList r + 8 * e) 8

/-- The destination-table entry of an expert. -/
def readDest (s : State) (b : Block) (r x : Nat) : Except ERef (Nat × State) := engNum s b r (reqDtab r + 32 * x) 32

/-- Changes the claims of a job's request. -/
def State.modClaims (s : State) (j : Job) (f : List Claim → List Claim) : State :=
  s.modReq j.block j.req (fun q => { q with claims := f q.claims })

/-- Send-list entries that an engine is at work on (R429). -/
def entriesAt (s : State) (e : Nat) : Nat :=
  (((s.engines.getD e []).take 4).map (fun j => (((s.block j.block).req? j.req).map (fun q => q.claims.length)).getD 0)).sum

/-- What taking a route's next send-list entry comes to (R253). An expert number not below NEXP ends the route in error at once, and
entries at work are left as they are, unwritten (DESIGN CHOICE, log 87: R253 does not say whether they finish first). -/
def entryStep (s : State) (j : Job) (q : Req) : Except ERef State :=
  let r := q.record.toNat
  match readEntry s (s.block j.block) r q.entry with
  | .error x => .error x
  | .ok (x, s1) =>
    if reqNexp r ≤ entExpert x 0 then .error .err
    else .ok (s1.modReq j.block j.req (fun q => { q with entry := q.entry + 1, claims := q.claims ++ [⟨q.entry, 0, entExpert x 0, x, 0, none, 0⟩] }))

/-- ROUTE_ENTRY (R252, R253, R429): the engine takes the next send-list entry, with at most 16 at work, and
its claim is on its way. -/
def execRouteEntry (e : Nat) (s : State) : Out :=
  match nextRoute s e with
  | none => .next s
  | some (j, q) =>
    if staying s j q || 16 ≤ entriesAt s e || reqNent q.record.toNat ≤ q.entry then .next s
    else
      match entryStep s j q with
      | .ok s1 => .next s1.bump
      | x => .next (afterTurn s e j x).bump

/-- The header of a slot (R253, R428). -/
def routeHeader (s : State) (r e x choice : Nat) : Nat :=
  entTok x + entExpert x choice * 2 ^ 32 + choice * 2 ^ 40 + entGate x choice * 2 ^ 48 + s.devId.toNat * 2 ^ 64
    + (reqSeq0 r + e) % 2 ^ 32 * 2 ^ 96

/-- A claim may go: no earlier entry of the request claims its counter, or may yet (R429). -/
def claimTurn (s : State) (b : Block) (r : Nat) (before : List Claim) (ctr : Nat) : Bool :=
  let at_ := fun (x : Nat) => match readDest s b r x with | .ok d => some (nbits d.1 127 64) | .error _ => none
  before.all (fun c =>
    c.old.isSome || (at_ c.expert != some ctr &&
      (c.choice == 1 || entExpert c.ent 1 == 0xFF || at_ (entExpert c.ent 1) != some ctr)))

/-- An entry of a route ends (R254): its claim goes, and 1 is counted down. -/
def entryDone (s : State) (j : Job) (idx dropped : Nat) : State :=
  requestCount (s.modReq j.block j.req (fun q => { q with count := q.count + dropped, claims := q.claims.eraseIdx idx })) j.block j.req 1

/-- A claim is performed at its counter, and its old value returns (R253): the entry's slot is to be written, its second
choice claimed, or the entry is dropped. A table entry with capacity 0, or with nonzero bits from 160 up, is taken as it stands
(DESIGN CHOICE, log 86: R252 names no outcome). -/
def claimStep (s : State) (j : Job) (r idx : Nat) (c : Claim) (dest : Nat) : Except ERef State :=
  let b := s.block j.block
  match engRefs s b .rc (reqSc r) .both (nbits dest 127 64) 4 with
  | (_, some x) => .error x
  | (ctr, none) =>
    let old := ctr.foldr (fun x n => engGet s b .rc .device x + 256 * n) 0
    let claim := engTouch ((ctr.zip (List.range 4)).foldl (fun s x => engPut s x.1 ((old + 1) / 256 ^ x.2)) (engSeal s b ctr)) b r false ctr
    if old < nbits dest 143 128 then .ok (claim.modClaims j (fun l => l.set idx { c with dest := dest, old := some old }))
    else if c.choice = 1 || entExpert c.ent 1 = 0xFF then .ok (entryDone claim j idx 1)
    else if reqNexp r ≤ entExpert c.ent 1 then .ok (endReq claim j.block j.req 2)
    else .ok (claim.modClaims j (fun l => l.set idx ⟨c.entry, 1, entExpert c.ent 1, c.ent, 0, none, 0⟩))

/-- CAUSAL updates of a request are pending in its block's die. -/
def jobPending (s : State) (b : Block) (id : W32) : Bool := (s.die (dieOf b.core)).upd.any (fun u => u.src == .job b.id id)

/-- The next bytes of a claimed slot are written (R253, R378, R428): the header, then the payload (log 39), a granule that is whole
or one byte at a time. Once all are performed, the entry ends (R254). -/
def slotStep (s : State) (j : Job) (r idx : Nat) (c : Claim) : Except ERef State :=
  let b := s.block j.block
  let d := reqDomain r
  let sc := reqSc r
  let size := slotSize r
  if size ≤ c.pos then (if jobPending s b j.req then .error .wait else .ok (entryDone s j idx 0))
  else
    let to_ := c.slot r + c.pos
    let n := if to_ % 16 = 0 && c.pos + 16 ≤ size then 16 else 1
    let head := (List.range n).map (fun i => routeHeader s r c.entry c.ent c.choice / 256 ^ (c.pos + i) % 256)
    let h := min n (16 - c.pos)
    let from_ := reqTok r + entTok c.ent * (16 * reqToklen r) + (c.pos + h - 16)
    match engRefs s b d sc .read from_ (n - h), engRefs s b d sc .write to_ n with
    | (xs, none), (ys, none) =>
      let s1 := engTouch (engTouch (engWrite s b j.req d sc ys (head.take h ++ xs.map (engGet s b d sc))) b r true xs) b r false ys
      let s2 := s1.count j.core 29 ((to_ + n) % 16 = 0 || c.pos + n = size : Bool).toNat
      .ok (if c.pos + n = size && !causalWrite d ys then entryDone s2 j idx 0 else s2.modClaims j (fun l => l.set idx { c with pos := c.pos + n }))
    | (_, some x), _ => .error x
    | _, (_, some x) => .error x

/-- What an entry at work does next: its table entry is read for the claim, or its slot is written. -/
def claimGo (s : State) (j : Job) (q : Req) (idx : Nat) (c : Claim) : Except ERef State :=
  let r := q.record.toNat
  let b := s.block j.block
  match c.old with
  | some _ => slotStep s j r idx c
  | none =>
    match readDest s b r c.expert with
    | .error x => .error x
    | .ok (dest, s1) => if claimTurn s b r (q.claims.take idx) (nbits dest 127 64) then claimStep s1 j r idx c dest else .error .wait

/-- ROUTE_CLAIM_RETURN (R253, R428, R429): an entry's claim returns, or the next bytes of its slot are written. A claim takes no
granule's turn (R426). -/
def execRouteClaimReturn (e idx : Nat) (s : State) : Out :=
  match nextRoute s e with
  | none => .next s
  | some (j, q) =>
    match q.claims[idx]? with
    | none => .next s
    | some c =>
      if staying s j q && Claim.atGranule q.record.toNat c then .next s
      else
        match claimGo s j q idx c, c.old with
        | .ok s1, none => .next s1.bump
        | x, _ => .next (afterTurn s e j x).bump

end Sys2Proof.Machine
end

