-- ==== Sys2Proof/Machine/Hub.lean ====
section
/-! DEFINITION. What the hub does for others: its reads and writes of context and host memory (R285, R493),
the translations it removes (R454), and how Usxon resolves a fault of an AUTO window (R445). -/

namespace Sys2Proof.Machine

/-! ### Accesses of the command processors -/

/-- Where an access of the hub goes, or what stands in its way. -/
inductive HubX
  | loc (l : Nat)
  | fault (k : Kind) (level ia : Nat)
  /-- the host has granted no access to the page of a host address, for an interface's requests under a PASID -/
  | denied (iface : Nat) (pasid : Option Nat) (a : Nat)
  /-- a host page that no ATS reply has come for -/
  | asked (iface : Nat) (pasid : Option Nat) (page : Nat)
  /-- a line that a core holds under a release, whose publish is to be demanded (R394): one of its places -/
  | held (loc : Nat)
  | miss
  | wait
  deriving DecidableEq, Repr, Inhabited

/-- The access waits, and is tried again. -/
def HubX.waits : HubX → Bool
  | .asked .. | .held _ | .wait => true
  | _ => false

/-- What the hub does where an access of its meets an obstacle: it asks the host for a page, once (R493); a denial has been met; the
publish of a held line is demanded (R394). -/
def State.hubMeet (s : State) (x : HubX) : State :=
  match x with
  | .asked i p page => if s.hubAsks.contains (i, p, page) then s else { s with hubAsks := s.hubAsks ++ [(i, p, page)] }
  | .denied i p a => { s with hubAts := s.hubAts.filter (fun e => e.iface != i || e.pasid != p || e.page != a / 4096 || e.r || e.w) }
  | .held l => demandLines s none l 1
  | _ => s

/-- A host address through the hub's own ATS translations, for an interface's requests under a PASID or under none (R488, R493,
R495). -/
def hubHost (s : State) (i : Nat) (pasid : Option Nat) (write : Bool) (a : Nat) : HubX :=
  match s.hubAts.find? (fun e => e.iface == i && e.pasid == pasid && e.page == a / 4096) with
  | none => .asked i pasid (a / 4096)
  | some e =>
    let l := hostBase + e.frame * 4096 + a % 4096
    if !e.r && !e.w then .denied i pasid a
    else if !write && !e.r then .fault .readDenied 0 a
    else if write && !e.w then .fault .writeDenied 0 a
    else if heldElsewhere s none l 1 then .held l
    else .loc l

/-- A virtual address of a context as the hub reads or writes it (R285): the window rule, then the leaf.
Domain floors are not checked. A place above the device memory is NOT-PRESENT (log 35). -/
def hubXl (s : State) (c : Ctx) (va : Nat) (write : Bool) : HubX :=
  if !canonical va then .miss
  else
    match findWindow c.win va with
    | none => .miss
    | some i =>
      let ia := windowIa (c.win.getD i 0) va
      if inHost c ia then
        match c.pasid with
        | some p => hubHost s c.iface (some p) write ia
        | none => .miss
      else
        match translate s 4 c ia ⟨!write, write, none⟩ with
        | .loc l =>
          if poisoned s l 1 then .fault .poison 0 ia
          else if Config.deviceBytes ≤ l && l < peerBase then .fault .notPresent 0 ia
          else if !peerOk s l write || !dirOk s l write then .wait
          else if heldElsewhere s none l 1 then .held l
          else .loc l
        | .fault k v => .fault k v ia
        | _ => .wait

/-- The places of n bytes under a translation, or the first obstacle. -/
def placesOf (f : Nat → HubX) (a n : Nat) : Except HubX (List Nat) :=
  (List.range n).foldr (fun i r =>
    match f (a + i), r with
    | .loc l, .ok ls => .ok (l :: ls)
    | .loc _, .error e => .error e
    | e, _ => .error e) (.ok [])

/-- A little-endian number from places of memory. -/
def readPlaces (s : State) (ls : List Nat) : Nat := ls.foldr (fun l r => (memGet s.mem l).toNat + 256 * r) 0

/-- Bytes written to places of memory. -/
def writePlaces (s : State) (ls : List Nat) (bs : List Byte) : State :=
  { s with mem := (ls.zip bs).foldl (fun m x => memSet m x.1 x.2) s.mem }

/-- What a place is encrypted with for a context that reaches it at a virtual address (R499). -/
def hubSeal (s : State) (c : Ctx) (va l : Nat) : Nat :=
  match findWindow c.win va with
  | some i => sealOf s c.id (windowIa (c.win.getD i 0) va) l
  | none => 0

/-- A little-endian number from places that lie at a context's virtual addresses from va on. -/
def seenPlaces (s : State) (c : Ctx) : Nat → List Nat → Nat
  | _, [] => 0
  | va, l :: r => (seenByte s (hubSeal s c va l) l).toNat + 256 * seenPlaces s c (va + 1) r

/-- The granules of those places come under the context's key and their tweaks. -/
def sealPlaces (s : State) (c : Ctx) : Nat → List Nat → State
  | _, [] => s
  | va, l :: r => sealPlaces (reseal s (hubSeal s c va l) l) c (va + 1) r

/-- The hub reads n bytes of a context. -/
def hubRead (s : State) (c : Ctx) (va n : Nat) : Except HubX Nat :=
  match placesOf (fun a => hubXl s c a false) va n with
  | .ok ls => .ok (seenPlaces s c va ls)
  | .error e => .error e

/-- The hub writes bytes of a context. -/
def hubWrite (s : State) (c : Ctx) (va : Nat) (bs : List Byte) : Except HubX State :=
  match placesOf (fun a => hubXl s c a true) va bs.length with
  | .ok ls => .ok (writePlaces (sealPlaces s c va ls) ls bs)
  | .error e => .error e

/-- The hub reads n bytes at a host address, for an interface's requests under a PASID. -/
def hostRead (s : State) (i : Nat) (pasid : Option Nat) (a n : Nat) : Except HubX Nat :=
  match placesOf (hubHost s i pasid false) a n with
  | .ok ls => .ok (readPlaces s ls)
  | .error e => .error e

/-- The hub writes bytes at a host address, for an interface's requests under a PASID. -/
def hostWrite (s : State) (i : Nat) (pasid : Option Nat) (a : Nat) (bs : List Byte) : Except HubX State :=
  match placesOf (hubHost s i pasid true) a bs.length with
  | .ok ls => .ok (writePlaces s ls bs)
  | .error e => .error e

/-! ### Queues -/

def Iface.q (i : Iface) (n : Nat) : QBlk := i.queues.getD n default
def State.modQ (s : State) (i q : Nat) (f : QBlk → QBlk) : State :=
  s.modIface i (fun x => { x with queues := x.queues.modify q f })

/-- A launch is complete. -/
def Launch.isDone (l : Launch) : Bool := match l.st with | .complete _ => true | _ => false

/-- Launches taken from a queue and not completed. -/
def openLaunches (s : State) (i q : Nat) : List Launch :=
  s.launches.filter (fun l => l.iface == i && l.queue == q && !l.isDone)

/-- The completion ring has room (R493). -/
def cqRoom (s : State) (i q : Nat) : Bool :=
  let b := (s.iface i).q q
  decide ((b.cqTail - b.cqHead).toNat + (openLaunches s i q).length < 2 ^ b.cqLog.toNat)

/-- ERR is set with a code (R490). -/
def State.queueErr (s : State) (i q : Nat) (code : Nat) : State :=
  s.modQ i q (fun b => { b with err := true, errCode := BitVec.ofNat 6 code })

/-- An MSI-X message, when its vector is enabled (R486, R504). -/
def State.raiseIrq (s : State) (i v : Nat) : State :=
  if (s.iface i).vecs.getLsbD v then s.modIface i (fun x => { x with irq := x.irq ++ [v] }) else s

/-- Where a queue's next completion entry goes (R494). -/
def QBlk.cqPlace (b : QBlk) : Nat := b.cqBase.toNat + b.cqTail.toNat % 2 ^ b.cqLog.toNat * 32

/-- What the write of a queue's next completion entry waits for. -/
def entryWaits (s : State) (i q : Nat) : Option HubX :=
  let b := (s.iface i).q q
  match placesOf (hubHost s i (some b.pasid.toNat) true) b.cqPlace 32 with
  | .error e => if e.waits then some e else none
  | .ok _ => none

/-- The bytes of a completion entry (R494). -/
def cqEntry (b : QBlk) (lid tag status killed : Nat) : List Byte :=
  let phase := 1 - b.cqTail.toNat / 2 ^ b.cqLog.toNat % 2
  leBytes 8 lid ++ leBytes 8 tag ++ leBytes 1 status ++ leBytes 1 phase ++ leBytes 2 0 ++ leBytes 4 killed ++ leBytes 8 0

/-- Writes a completion entry, advances CQTAIL and raises the queue's vector (R486, R494). A ring that denies
the write sets ERR; until the write can go the state is given back as it waits. -/
def completeEntry (s : State) (i q lid tag status killed : Nat) : Except State State :=
  let b := (s.iface i).q q
  match hostWrite s i (some b.pasid.toNat) b.cqPlace (cqEntry b lid tag status killed) with
  | .ok s1 => .ok ((s1.modQ i q (fun b => { b with cqTail := b.cqTail + 1 })).raiseIrq i q)
  | .error e => if e.waits then .error (s.hubMeet e) else .ok ((s.hubMeet e).queueErr i q 3)

/-! ### Invalidations -/

/-- An access translated to a removed page: a store that still stands in the core is translated again
when it drains (R455); a walk or an ATS request that was under way is discarded. An atomic keeps its translation, and is waited
for (R454). -/
def Acc.untranslate (k : TxKind) (a : Acc) : Acc :=
  if a.st == .issued && (k.isStore || a.xl == .asked || a.xl == .wait) then { a with xl := .none } else a

/-- An access lies in an IA range. -/
def Acc.inRange (a : Acc) (lo hi : Nat) : Bool := a.sp == .global && decide (lo < a.key + a.n ∧ a.key < hi)

/-- A translation is removed at every die and the hub (R454, R455): TLB entries, cached ATS translations,
the ATS requests under way, and the translations of stores that have not drained. -/
def removeXl (s : State) (ctx lo hi : Nat) : State :=
  let c := s.ctx ctx
  let page := fun (p : Nat) => decide (lo < (p + 1) * 4096 ∧ p * 4096 < hi)
  let mine := fun (i : Nat) (p : Option Nat) => c.pasid.isSome && p == c.pasid && i == c.iface
  let tlb := fun (e : Nat × Nat × W64 × Nat) => e.1 == ctx && decide (lo < (e.2.1 + 1) * 2 ^ e.2.2.2 ∧ e.2.1 * 2 ^ e.2.2.2 < hi)
  let die := fun (d : Die) =>
    { d with
      tlb := d.tlb.filter (fun e => !tlb e)
      ats := d.ats.filter (fun e => !(e.ctx == ctx && page e.page))
      asks := d.asks.filter (fun e => !(e.1 == ctx && page e.2)) }
  let txn := fun (t : Txn) => { t with accs := t.accs.map (fun a => if a.inRange lo hi then a.untranslate t.kind else a) }
  { s with
    dies := s.dies.map die
    hubAts := s.hubAts.filter (fun e => !(mine e.iface e.pasid && page e.page))
    hubAsks := s.hubAsks.filter (fun e => !(mine e.1 e.2.1 && page e.2.2))
    warps := s.warps.map (fun w => if (s.block w.block).ctx == ctx then { w with txns := w.txns.map txn } else w) }

/-- Accesses of a die that still use a translation of the range: reads in flight, as (warp, transaction, the access's
name). -/
def usersOf (s : State) (die ctx lo hi : Nat) : List (Nat × Nat × Nat) :=
  s.warps.flatMap (fun w =>
    if (s.block w.block).ctx == ctx && dieOf w.core == die then
      w.txns.flatMap (fun t => t.accs.filterMap (fun a =>
        if a.inRange lo hi && a.st != .done && a.st != .performed && (match a.xl with | .loc _ => true | _ => false) then some (w.id, t.id, a.name) else none))
    else [])

/-- An invalidation reaches every die (R454, R478). -/
def invalidate (s : State) (ctx lo hi : Nat) : State :=
  let s1 := removeXl s ctx lo hi
  { s1 with invs := s1.invs ++ [⟨ctx, lo, hi, (List.range 4).map (fun d => usersOf s1 d ctx lo hi), List.range 4⟩] }

/-- No access in flight uses a translation of the range, and every die has acknowledged its invalidations (R454). -/
def quietRange (s : State) (ctx lo hi : Nat) : Bool :=
  (List.range 4).all (fun d => (usersOf s d ctx lo hi).isEmpty) && !s.invs.any (fun i => i.ctx == ctx && decide (lo < i.hi ∧ i.lo < hi))

/-! ### The end of a context -/

/-- A context as it is after its destruction. -/
def Ctx.dead (c : Ctx) : Ctx :=
  { c with alive := false, dying := false, win := List.replicate 8 0, keySlot := none, dbg := none, trace := none, series := none }

/-- A line, by its number, lies in a context's IA ranges. -/
def ctxLine (c : Ctx) (line : Nat) : Bool :=
  let a := line * 128
  (c.devBase ≤ a && a < c.devBase + c.devLen) || (c.hostBase ≤ a && a < c.hostBase + c.hostLen)

/-- Steps 2 to 4 of R501, once the context's launches have completed: its lines leave every cache, Modified
peer lines are written back (R524), its carve-outs are zeroed and its key slot is cleared. -/
def destroyCtx (s : State) (x : Nat) : State :=
  let c := s.ctx x
  let keep := fun (t : CacheT) => { t with lines := t.lines.filter (fun l => !ctxLine c l.line) }
  let die := fun (d : Die) =>
    { d with
      l2 := keep d.l2, mlc := keep d.mlc, tlb := d.tlb.filter (fun e => e.1 != x)
      ats := d.ats.filter (fun e => e.ctx != x), asks := d.asks.filter (fun e => e.1 != x) }
  let core := fun (k : Core) => { k with l1 := k.l1.filter (fun l => l.ctx != x), prefs := k.prefs.filter (fun p => p.ctx != x) }
  let carved := fun (a : Nat) => (List.range 4).any (fun d => carvePlace d c ≤ a && a < carvePlace d c + 2 ^ 26)
  let shared := c.pasid.isNone || s.ctxs.any (fun y => y.alive && y.id != x && y.iface == c.iface && y.pasid == c.pasid)
  let unbind := fun (b : QBlk) => if b.bound == some x then { b with bound := none } else b
  let free := fun (i : Iface) => { i with queues := i.queues.map unbind }
  let back := fun (p : PeerLine) => { p with modified := false, fresh := false }
  let s1 : State := { s with
    dies := s.dies.map die
    cores := s.cores.map core
    mem := s.mem.filter (fun p => !carved p.1)
    peers := s.peers.map back
    keySlots := s.keySlots.filter (fun k => c.keySlot != some k)
    saves := s.saves.filter (fun v => v.ctx != x)
    hubAts := s.hubAts.filter (fun e => shared || e.iface != c.iface || e.pasid != c.pasid)
    hubAsks := s.hubAsks.filter (fun e => shared || e.1 != c.iface || e.2.1 != c.pasid)
    invs := s.invs.filter (fun i => i.ctx != x)
    migs := s.migs.filter (fun m => m.ctx != x)
    engines := s.engines.map (fun js => js.filter (fun j => !j.page.any (fun p => p.1 == x)))
    pri := s.pri.filter (fun p => p.1 != x)
    ifaces := s.ifaces.map free }
  (markRunning s1).modCtx x Ctx.dead

/-- Launches of a context that have not completed. -/
def ctxLaunches (s : State) (x : Nat) : List Launch := s.launches.filter (fun l => l.ctx == x && !l.isDone)

/-- A function-level reset ends once the interface's launches and contexts are gone (R489). -/
def endFlr (s : State) (i : Iface) (n : Nat) : Iface :=
  if i.flr && !s.ctxs.any (fun c => c.iface == n && c.alive) && !s.launches.any (fun l => l.iface == n && !l.isDone) then
    { i with
      queues := List.replicate 16 .reset, busy := false, status := 0, cmd := 0, reply := 0, args := [0, 0, 0], ran := false
      tdisp := .unlocked, stream := none, locked := none, flr := false }
  else i

/-- What waited for launches to end: contexts whose destruction has begun (R501, R502), and function-level
resets (R489). -/
def reap (s : State) : State :=
  let gone := (s.ctxs.filter (fun c => c.alive && c.dying && (ctxLaunches s c.id).isEmpty)).map (·.id)
  let s1 := gone.foldl destroyCtx s
  { s1 with ifaces := (s1.ifaces.zip (List.range s1.ifaces.length)).map (fun x => endFlr s1 x.1 x.2) }

/-! ### Usxon's resolution of faults -/

/-- What Usxon does with a fault of an AUTO window (R445). -/
inductive Auto
  | decline
  | map (ptes : List (Nat × W64))
  /-- a page request goes to the host -/
  | page
  /-- the host driver decides: HOST_FAULT_ANSWER -/
  | host
  /-- performed once the record before it is -/
  | follow
  deriving DecidableEq, Repr, Inhabited

/-- R445 on a kind, with Usxon's answer for the kinds that it resolves by itself. -/
def autoOf (k : Kind) (ans : FixAnswer) : Auto :=
  match k with
  | .notPresent | .walk => match ans with | .fix p => .map p | .decline => .decline
  | .hostPage => .page
  | .readDenied | .writeDenied | .domainFloor => .host
  | .deferred => .follow
  | _ => .decline

/-- A page request goes out, with at most 512 outstanding, and one for a page (R480, R495): beyond them it is made later. -/
def askPage (s : State) (ctx page : Nat) : State :=
  if s.pri.contains (ctx, page) || 512 ≤ s.pri.length then s else { s with pri := s.pri ++ [(ctx, page)] }

end Sys2Proof.Machine
end

