-- ==== Sys2Proof/Machine/LaunchEvents.lean ====
section
/-! DEFINITION. Taking submission entries, checking launch records, dependences, and completion (R285 to R296,
R486, R493). -/

namespace Sys2Proof.Machine

/-! ### Malformed records -/

/-- A generic address of an aperture (R183). -/
def apAddr (a : Nat) : Bool := nbits a 63 56 == 0xFE

/-- The level entries of a record (R292): (SIZE, KIND) of levels 2 to NLEV - 1. -/
def recLevels (r : Nat) : List (Nat × Nat) :=
  (List.range (nbits r 70 67 - 2)).map (fun i =>
    let e := nbits r (32 * (i + 2) + 287) (32 * (i + 2) + 256)
    (nbits e 15 0, nbits e 18 16))

/-- SIZE of a level kind. -/
def recLevel (r kind : Nat) : Option Nat := ((recLevels r).find? (fun x => x.2 == kind)).map (·.1)

/-- A list is strictly rising. -/
def rising : List Nat → Bool
  | a :: b :: r => a < b && rising (b :: r)
  | _ => true

/-- The level entries obey R292. -/
def levelsOk (r : Nat) : Bool :=
  let ls := recLevels r
  let n := nbits r 70 67
  let size := fun (x : Nat × Nat) =>
    match x.2 with
    | 1 => decide (2 ≤ x.1 ∧ x.1 ≤ 8) && (recLevel r 2).any (fun b => b % x.1 == 0)
    | 2 => decide (1 ≤ x.1 ∧ x.1 ≤ 32)
    | 3 => decide (1 ≤ x.1 ∧ x.1 ≤ 8)
    | 4 | 5 => x.1 == 0
    | 6 => x.1 != 0
    | _ => false
  let entry := fun (i : Nat) => nbits r (32 * i + 287) (32 * i + 256)
  rising (ls.map (·.2)) && ls.all size && (recLevel r 2).isSome && (recLevel r 5).isSome
    && (List.range 6).all (fun i => if i + 2 < n then entry (i + 2) / 2 ^ 19 == 0 else entry (i + 2) == 0)

/-- A variant entry is in its ranges (R286). -/
def variantOk (r k : Nat) : Bool :=
  let v := nbits r (128 * k + 1151) (128 * k + 1024)
  nbits v 31 0 % 2 == 0 && decide (1 ≤ nbits v 40 32 ∧ nbits v 40 32 ≤ 256) && decide (nbits v 51 41 ≤ 1792)
    && recLevel r 2 == some (nbits v 57 52) && nbits v 95 64 % 64 == 0 && decide (nbits v 103 96 ≤ 64)

/-- Reserved fields of the record are 0 (R285, R286, R288). -/
def reservedOk (r : Nat) : Bool :=
  nbits r 95 92 == 0 && nbits r 191 169 == 0 && nbits r 4095 3136 == 0
    && (List.range 4).all (fun k => nbits r (128 * k + 1087) (128 * k + 1082) == 0 && nbits r (128 * k + 1151) (128 * k + 1128) == 0)
    && (List.range 4).all (fun d => nbits r (128 * d + 639) (128 * d + 593) == 0)

/-- A well-formed record (R289). -/
def recordFine (r : Nat) : Bool :=
  let nvar := nbits r 66 64
  reservedOk r && decide (1 ≤ nvar ∧ nvar ≤ 4) && decide (4 ≤ nbits r 70 67 ∧ nbits r 70 67 ≤ 8) && decide (nbits r 91 88 ≤ 8)
    && !fpctlReserved (nbits r 127 96) && levelsOk r && (List.range nvar).all (variantOk r)
    && (List.range 4).all (fun d => decide (nbits r (128 * d + 551) (128 * d + 512) ≤ nbits r (128 * d + 591) (128 * d + 552)))
    && (nbits r 79 79 == 0 || (recLevel r 1).isSome) && (nbits r 78 78 == 0 || (recLevel r 3).isSome)
    && nbits r 63 0 % 256 == 0 && !apAddr (nbits r 63 0) && nbits r 255 192 % 8 == 0 && !apAddr (nbits r 255 192)
    && (nbits r 168 168 == 1 || nbits r 167 128 != 0) && (nbits r 263 263 == 1 || nbits r 271 264 == 0)

/-! ### Submission -/

/-- A launch of a record, or a marker, as it is taken. -/
def newLaunch (s : State) (i q : Nat) (lid : W64) (marker : Bool) (r tag : Nat) (st : LaunchSt) : Launch :=
  let b := (s.iface i).q q
  { id := s.launches.length, lid := lid, iface := i, queue := q, ctx := b.bound.getD 0, marker := marker,
    record := BitVec.ofNat 4096 r, tag := BitVec.ofNat 64 tag, st := st, cls := max (nbits r 77 76) b.clsLim,
    weight := nbits r 87 80, count := 0, tickets := [], ended := 0, killed := 0, tries := [], resv := [], tables := none, stuck := none }

/-- SQHEAD moves past an entry, whose launch joins the device's. -/
def takeEntry (s : State) (i q : Nat) (l : Launch) : State :=
  { s with launches := s.launches ++ [l] }.modQ i q (fun b => { b with sqHead := b.sqHead + 1 })

/-- The state in which a record's launch starts (R289, R294, R499). -/
def recordStatus (s : State) (i : Nat) (c : Ctx) (r : Nat) : LaunchSt :=
  let g := (s.iface i).grants
  if !recordFine r then .ending 1
  else if (nbits r 78 78 == 1 && !g.getLsbD 0) || (nbits r 79 79 == 1 && !g.getLsbD 1) then .ending 2
  else if c.conf && (recLevel r 6).isSome then .ending 2
  else .waiting

/-- A taken record's launch, with the handler tile regions that its HTILE asks for, when its context has none yet (R461): Usxon finds
the device memory for them, or the launch is not granted. -/
def takeRecord (s : State) (i q r tag : Nat) (st : LaunchSt) : State :=
  let lid := BitVec.ofNat 64 (s.iface i).nextLid
  let asks := nbits r 271 264 ≠ 0 && st == .waiting && !(s.ctx (((s.iface i).q q).bound.getD 0)).hregion
  let l := newLaunch s i q lid false r tag (if asks && !Config.deviceRoom s.ctr then .ending 2 else st)
  let s1 := (takeEntry s i q l).modIface i (fun x => { x with nextLid := x.nextLid + 1 })
  if !asks then s1 else if Config.deviceRoom s.ctr then (s1.modCtx l.ctx (fun c => { c with hregion := true })).bump else s1.bump

/-- The submission entry at SQHEAD. -/
def headEntry (s : State) (i q : Nat) : Except HubX Nat :=
  let b := (s.iface i).q q
  hostRead s i (some b.pasid.toNat) (b.sqBase.toNat + b.sqHead.toNat % 2 ^ b.sqLog.toNat * 64) 64

/-! ### Dependences and the cut -/

/-- Changes where a launch stands. -/
def State.setLaunch (s : State) (l : Nat) (st : LaunchSt) : State := s.modLaunch l (fun x => { x with st := st, stuck := none })

/-- The fault that an obstacle of the hub is, if it is one: the kind and the IA. -/
def HubX.fault? : HubX → Option (Kind × Nat)
  | .fault k _ ia => some (k, ia)
  | .denied _ _ ia => some (.hostPage, ia)
  | _ => none

/-- An access of the command processor for a launch meets an obstacle: with a fault the launch waits for Usxon's resolution
(R285). -/
def State.meets (s : State) (l : Nat) (e : HubX) : State :=
  let s1 := s.hubMeet e
  match e.fault? with
  | some (k, ia) => (tellBad s1 (s.ctx (s.launch l).ctx) ia).modLaunch l (fun x => { x with stuck := some (k, ia) })
  | none => s1

/-- The dependences of a launch are satisfied (R295). -/
def depsDone (s : State) (l : Launch) : Bool :=
  (List.range (l.field 91 88)).all (fun k =>
    let id := l.field (64 * k + 1599) (64 * k + 1536)
    s.launches.all (fun x => !(x.iface == l.iface && x.lid.toNat == id && id != 0 && !x.isDone)))

/-- The ticket counters of a grid of g blocks in clusters of c (R296); none for BAD-COUNT. -/
def cutGrid (l : Launch) (g c : Nat) : Option (List Ticket) :=
  if g % c ≠ 0 then none
  else if l.field 1023 512 = 0 then
    let n := ((g + 3) / 4 + 16 * c - 1) / (16 * c) * (16 * c)
    some ((List.range 4).map (fun d => ⟨[], min (d * n) g, min ((d + 1) * n) g, false⟩))
  else
    let raw := (List.range 4).map (fun d =>
      (l.field (128 * d + 551) (128 * d + 512), l.field (128 * d + 591) (128 * d + 552), l.field (128 * d + 592) (128 * d + 592) == 1))
    let clip := raw.map (fun x => (min x.1 g, min x.2.1 g))
    let apart := (List.range 4).all (fun i => (List.range 4).all (fun j =>
      let a := clip.getD i (0, 0)
      let b := clip.getD j (0, 0)
      i == j || a.2 ≤ a.1 || b.2 ≤ b.1 || a.2 ≤ b.1 || b.2 ≤ a.1))
    let whole := (clip.map (fun x => x.2 - x.1)).sum == g
    let mult := l.level 3 == none || raw.all (fun x => x.1 % c == 0 && x.2.1 % c == 0)
    if apart && whole && mult then some (raw.map (fun x => ⟨[], min x.1 g, min x.2.1 g, x.2.2⟩)) else none

/-- The launch starts with its block count (R295, R296); the cores discard the instruction lines that they hold of its
image (R52). -/
def startLaunch (s : State) (l : Launch) (g : Nat) : State :=
  if g = 0 then s.setLaunch l.id (.ending 0)
  else if 2 ^ 40 ≤ g then s.setLaunch l.id (.ending 3)
  else
    match cutGrid l g l.csize with
    | none => s.setLaunch l.id (.ending 3)
    | some ts => dropCode (s.modLaunch l.id (fun x => { x with st := .running, count := g, tickets := ts, stuck := none })) l.ctx l.image

/-- DEPENDENCES_SATISFIED (R295): the indirect count is read once, then the grid is cut. -/
def execDependencesSatisfied (lid : Nat) (s : State) : Out :=
  let l := s.launch lid
  if s.launches.length ≤ lid || l.st ≠ .waiting || l.marker || l.stuck.isSome || !depsDone s l then .next s
  else if l.field 168 168 = 0 then .next (startLaunch s l (l.field 167 128))
  else
    match hubRead s (s.ctx l.ctx) (l.field 255 192) 8 with
    | .ok g => .next (startLaunch s l g)
    | .error .miss => .next (s.setLaunch lid (.ending 6))
    | .error e => .next (s.meets lid e)

/-! ### Completion -/

/-- Blocks of a launch that have not ended. -/
def openBlocks (s : State) (lid : Nat) : List Block := s.blocks.filter (fun b => b.launch == lid && !b.ended)

/-- Every write of the launch's warps has been performed and acknowledged, and every one of its requests (R290). -/
def writesDone (s : State) (lid : Nat) : Bool :=
  s.warps.all (fun w => (s.block w.block).launch != lid || w.txns.all (fun t => !t.kind.writes || t.accs.all (fun a => a.st == .done)))
    && s.dies.all (fun d => d.upd.all (fun u => (s.block (u.src.block s)).launch != lid))

/-- The status with which a launch can complete now, if it can. -/
def finalStatus (s : State) (l : Launch) : Option Nat :=
  if !(openBlocks s l.id).isEmpty || !writesDone s l.id then none
  else
    match l.st with
    | .ending k => some k
    | .running => if l.ended = l.count && l.resv.isEmpty then some (if l.killed = 0 then 0 else 4) else none
    | .waiting =>
      if l.marker && (openLaunches s l.iface l.queue).all (fun x => l.id ≤ x.id) then some 0 else none
    | .complete _ => none

/-- The completion word is written to DONE, when there is one (R290). A place that cannot be written makes
the launch UNREADABLE; an obstacle that Usxon resolves is given back. -/
def writeDone (s : State) (l : Launch) (st : Nat) : Except HubX (State × Nat) :=
  let a := l.field 3135 3072
  if a = 0 || l.ctx = 0 then .ok (s, st)
  else
    match hubWrite s (s.ctx l.ctx) a (leBytes 8 (st + l.killed % 2 ^ 32 * 2 ^ 16)) with
    | .ok s1 => .ok (s1, st)
    | .error .miss => .ok (s, 6)
    | .error e => .error e

/-- LAUNCH_COMPLETE (R290, R486, R494). -/
def execLaunchComplete (lid : Nat) (s : State) : Out :=
  let l := s.launch lid
  if s.launches.length ≤ lid || l.stuck.isSome then .next s
  else
    match finalStatus s l, entryWaits s l.iface l.queue with
    | none, _ => .next s
    | _, some e => .next (s.hubMeet e)
    | some k, none =>
      match writeDone s l k with
      | .error e => .next (s.meets lid e)
      | .ok (s1, k) =>
        match completeEntry s1 l.iface l.queue (if l.marker then 0 else l.lid.toNat) l.tag.toNat k l.killed with
        | .error s2 => .next s2
        | .ok s2 => .next (reap (s2.setLaunch lid (.complete k)))

end Sys2Proof.Machine
end

