-- ==== Sys2Proof/Machine/DispatchEvents.lean ====
section
/-! DEFINITION. Blocks: how they are claimed, placed and started (R293, R297 to R302, R307, R308), moved at a
VPOINT (R154, R300, R301), ended and killed (R303, R304, R473). -/

namespace Sys2Proof.Machine

/-! ### What fits a core -/

/-- Fields of variant entry k (R286). -/
def Launch.nvar (l : Launch) : Nat := l.field 66 64
def Launch.entryOff (l : Launch) (k : Nat) : Nat := l.field (128 * k + 1055) (128 * k + 1024)
def Launch.regs (l : Launch) (k : Nat) : Nat := l.field (128 * k + 1064) (128 * k + 1056)
def Launch.nwarps (l : Launch) : Nat := (l.level 2).getD 0
/-- Bytes of a variant's window (R299). -/
def Launch.winBytes (l : Launch) (k : Nat) : Nat := max (l.scrKb k) 1 * 1024

/-- Warps of a block that quadrant q receives (R293). -/
def quadShare (n q : Nat) : Nat := ((List.range n).filter (fun w => w % 4 == q)).length

/-- Windows of a core in use, but for those of one block: (base, size). -/
def windowsOf (s : State) (core : Nat) (but : Option Nat) : List (Nat × Nat) :=
  s.blocks.flatMap (fun b =>
    if b.core != core || b.saved || b.size == 0 || but == some b.id then []
    else
      (b.base, b.size) :: (match b.vp with
        | .moving _ k base => [(base, (s.launch b.launch).winBytes k)]
        | _ => []))

/-- The lowest free window of n bytes outside the swap region (R299, R359). -/
def freeWindow (ws : List (Nat × Nat)) (n : Nat) : Option Nat :=
  let cands := 262144 :: ws.map (fun w => w.1 + w.2)
  let ok := cands.filter (fun c => decide (c + n ≤ 2097152) && ws.all (fun w => c + n ≤ w.1 || w.1 + w.2 ≤ c))
  firstBy (fun a b => decide (a < b)) ok

/-- Physical registers and admitted warps of a block in a quadrant. -/
def ownRegs (s : State) (own : Option Block) (q : Nat) : Nat :=
  match own with
  | none => 0
  | some b => ((b.warps.map s.warp).filter (fun w => w.quad == q && (match w.place with | .seated _ | .movingOut .. | .movingIn _ => true | _ => false))).map
      (fun w => w.rf.footprint) |>.sum
def ownWarps (s : State) (own : Option Block) (q : Nat) : Nat :=
  match own with
  | none => 0
  | some b => ((b.warps.map s.warp).filter (fun w => w.quad == q && w.place != .ended)).length

/-- A variant fits a core (R299): its window's base. `own` is the block that counts as free (R300). -/
def fitsCore (s : State) (l : Launch) (k core : Nat) (own : Option Block) : Option Nat :=
  let room := (List.range 4).all (fun q =>
    let w := quadShare l.nwarps q
    w == 0 || (decide (l.regs k * w ≤ s.poolFree core q + ownRegs s own q)
      && decide ((quadWarps s core q).length + w ≤ 32 + ownWarps s own q)))
  if room then freeWindow (windowsOf s core (own.map (·.id))) (l.winBytes k) else none

/-- The first variant that fits a core, with its window. -/
def firstFit (s : State) (l : Launch) (core : Nat) : Option (Nat × Nat) :=
  (List.range l.nvar).findSome? (fun k => (fitsCore s l k core none).map (fun b => (k, b)))

/-- Cores assigned to an interface's contexts (R498). -/
def coresHeld (s : State) (i : Nat) : Nat :=
  (s.cores.filter (fun c => c.ctx.any (fun x => (s.ctx x).iface == i))).length

/-- The interface stays within its budgets with `more` cores added (R307, R498). -/
def inBudget (s : State) (i more : Nat) : Bool :=
  let x := s.iface i
  decide (coresHeld s i + more ≤ x.cores) && decide (0 < x.cores) && !x.bwOver && !x.pwOver

/-- A launch still has indices that nobody claimed. -/
def Launch.waits (l : Launch) : Bool := l.st == .running && l.tickets.any (fun t => !t.front.isEmpty || t.lo < t.hi)

/-- Another queue of the interface and class has its slice (R306). -/
def sliceDenied (s : State) (l : Launch) : Bool :=
  ((s.iface l.iface).q l.queue).slice == 0 &&
    s.launches.any (fun x => x.iface == l.iface && x.queue != l.queue && x.cls == l.cls && x.waits
      && ((s.iface x.iface).q x.queue).slice != 0)

/-- A core may take blocks of a launch now (R338): Usxon's one save area for the core and the context is free (R468, DESIGN CHOICE,
log 93). -/
def coreTakes (s : State) (l : Launch) (core : Nat) : Bool :=
  let k := s.core core
  (k.ctx.isNone || k.ctx == some l.ctx) && k.stop == .no && s.saves.all (fun v => v.core != core || v.ctx != l.ctx)

/-! ### Claims -/

/-- Replaces a die's ticket counter. -/
def setTicket (ts : List Ticket) (d : Nat) (t : Ticket) : List Ticket := ts.set d t

/-- Indices that a thief takes from a counter (R298). -/
def stealCount (t : Ticket) (c : Nat) : Nat := min 64 ((t.hi - t.lo) / 2) / c * c

/-- The steal of an empty die (R298). -/
def steal (ts : List Ticket) (d c : Nat) : List Ticket :=
  let me := ts.getD d default
  if me.noSteal then ts
  else
    let vs := (List.range 4).filter (fun v => let t := ts.getD v default; v != d && !t.noSteal && stealCount t c != 0)
    let left := fun (v : Nat) => let t := ts.getD v default; t.hi - t.lo
    match firstBy (fun a b => left b < left a || (left a == left b && a < b)) vs with
    | none => ts
    | some v =>
      let t := ts.getD v default
      let n := stealCount t c
      setTicket (setTicket ts v { t with hi := t.hi - n }) d { me with lo := t.hi - n, hi := t.hi }

/-- The next claim of a die (R297, R298, R304): its indices and the counters after it. A returned cluster is
claimed once all its blocks have been killed. -/
def claim (s : State) (l : Launch) (d : Nat) : Option (List Nat × List Ticket) :=
  let c := l.csize
  let t := l.tickets.getD d default
  let whole := fun (x : Nat) => (openBlocks s l.id).all (fun b => b.index / c != x / c)
  match t.front.find? whole with
  | some x =>
    let mine := t.front.filter (fun y => y / c == x / c)
    some (mine, setTicket l.tickets d { t with front := t.front.filter (fun y => y / c != x / c) })
  | none =>
    let ts := if t.lo < t.hi then l.tickets else steal l.tickets d c
    let t := ts.getD d default
    if t.lo < t.hi then some ((List.range c).map (t.lo + ·), setTicket ts d { t with lo := t.lo + c }) else none

/-! ### Starting a block -/

/-- A core as Usxon resets it after a parity error in its control state (R532). -/
def resetCore (k : Core) : Core :=
  { Core.reset with due := k.due, lostTrace := k.lostTrace, lostSeries := k.lostSeries }

/-- A core is assigned to a context (R338): tiles and deck of another context go, and one context's
tiles stay as they are (R35, R415, log 3). -/
def assignCore (k0 : Core) (ctx : Nat) : Core :=
  let k := if k0.parity then resetCore k0 else k0
  let k1 := if k.last = ctx then k else { k with acc := List.replicate 8 .zero, deck := [], opc := [], last := ctx }
  { k1 with ctx := some ctx, gated := false, parity := false, quads := k1.quads.map (fun q => { q with arb := none }) }

/-- A window's bytes become UNKNOWN and its beads clear (R359). -/
def freshWindow (k : Core) (draw base size : Nat) : Core :=
  { k with
    scr := cclear k.scr base (base + size)
    beads := cclear k.beads (base / 16) ((base + size) / 16)
    scrDraw := (List.range (size / 1024)).foldl (fun d i => cset d 0 (base / 1024 + i) draw) k.scrDraw }

/-- The preloads of a launch record (R27, R285). -/
def preloads (l : Launch) : Cells W64 :=
  (List.range 16).foldl (fun c i =>
    if l.field (272 + i) (272 + i) = 1 then cset c 0 i (BitVec.ofNat 64 (l.field (64 * i + 2111) (64 * i + 2048))) else c) []

/-- A warp as it starts at pc (R14, R27, R46). -/
def newWarp (l : Launch) (id block index core draw : Nat) (place : Place) (ready : Option Nat) (pc : W64) : Warp :=
  { id := id, block := block, index := index, core := core, quad := index % 4, place := place,
    image := none, live := BitVec.allOnes 32,
    thr := (List.range 32).map (fun x => ⟨.live, unkLatches draw x, 0, false, none, none, false, false, 0⟩),
    groups := [⟨0, BitVec.allOnes 32, ⟨pc, [], 0⟩, none, draw * 64, []⟩], nextGid := 1,
    rf := ⟨[], 0, [], preloads l, [], BitVec.ofNat 32 (l.field 127 96)⟩, rf0 := none, lat0 := [], ids0 := none,
    joins := List.replicate 16 ⟨false, 0, 0⟩, fr := List.replicate 4 none, mon := ⟨false, 0, 0, .warp, .sc, 0, false⟩,
    txns := [], loads := [], llr := [], events := [], handler := 0, holding := false, parkDue := false, lane := [], laneDraw := draw,
    age := 0, stall := 0, wins := 0, yielded := false, ready := ready, snap := [], lastCause := .issued }

/-- One warp joins its quadrant (R293, R313, R333): the lowest free seat, or a place among the swapped, with an image (R330). -/
def admitWarp (l : Launch) (bid core : Nat) (pc : W64) (s : State) (w : Nat) : State :=
  let id := s.warps.length
  let q := w % 4
  let seat := freeSeat s core q
  let place := match seat with | some k => Place.seated k | none => .swapped s.ctr
  let ready := if seat.isNone then some s.ctr else none
  let w0 := newWarp l id bid w core s.ctr place ready pc
  let s1 := { s with warps := s.warps ++ [{ w0 with image := if seat.isSome then none else some (imageFor s w0) }] }
  let s2 := s1.modBlock bid (fun b => { b with warps := b.warps ++ [id] })
  (match seat with
    | some k => s2.modQuad core q (fun x => { x with seats := x.seats.set k (some id) })
    | none => s2).bump

/-- The engine team of a block waits for the engine, or gets it at once (R219). -/
def admitTeam (s : State) (l : Launch) (bid core : Nat) : State :=
  let o : Owner := ⟨bid, 2 ^ (l.team.getD 1) - 1, none⟩
  if engineFree (s.core core) then s.modCore core (fun k => { k with owner := some o }) else enqueue s core o

/-- A BLOCK STARTS (R299, R338, R359, R36, R37): on a core, with a variant and a window. -/
def startBlock (s : State) (l : Launch) (idx k core base : Nat) : State :=
  let bid := s.blocks.length
  let size := l.winBytes k
  let c := l.csize
  let b : Block :=
    { id := bid, launch := l.id, ctx := l.ctx, index := idx, attempt := cget l.tries 0 idx, variant := k, core := core,
      rank := idx % c, clus := idx / c * c, base := base, size := size, clock := 0, warps := [],
      cv := List.replicate 8 default, dh := List.replicate 16 default, rally := List.replicate 16 ⟨none, [], [], 0⟩,
      crArr := 0, crLanes := [], crPhase := 0, vp := .none, nextReq := 0, reqs := [], aside := [],
      ecol := l.field 79 79 == 1, saved := false, kill := none, ended := false, order := s.ctr }
  let s1 := (s.modCore core (fun x => freshWindow (assignCore x l.ctx).nextGen s.ctr base size)).bump
  let s2 := { s1 with blocks := s1.blocks ++ [b] }
  let pc := BitVec.ofNat 64 (l.field 63 0 + l.entryOff k)
  let s3 := (List.range l.nwarps).foldl (admitWarp l bid core pc) s2
  let s4 := s3.modQ l.iface l.queue (fun q => { q with slice := if q.slice = 0 then s.time + 1 else q.slice })
  if b.ecol then admitTeam s4 l bid core else s4

/-! ### Switch-point tables -/

/-- A switch-point entry obeys R287; a run start is even (R50). -/
def switchOk (e : Nat) : Bool := nbits e 31 6 == 0 && nbits e 32 32 == 0 && nbits e 511 384 == 0 && nbits e 351 320 % 16 == 0 && nbits e 383 352 % 16 == 0

/-- The image, by its first byte, and the switch-point tables of a launch as they are read at its first dispatch
(R287, R289, R290): none when a table is malformed. -/
def readTables (s : State) (l : Launch) : Except HubX (Option (List (Nat × BitVec 512))) :=
  let c := s.ctx l.ctx
  let at_ := (List.range l.nvar).flatMap (fun k =>
    let tab := l.field (128 * k + 1119) (128 * k + 1088)
    (List.range (l.field (128 * k + 1127) (128 * k + 1120))).map (fun j => (k, l.field 63 0 + tab + 64 * j)))
  let add := fun (x : Nat × Nat) (r : Except HubX (List (Nat × Nat))) =>
    match hubRead s c x.2 64, r with
    | .ok e, .ok t => .ok ((x.1, e) :: t)
    | .ok _, .error e => .error e
    | .error e, _ => .error e
  match hubRead s c (l.field 63 0) 1, at_.foldr add (.ok []) with
  | .error e, _ => .error e
  | _, .error e => .error e
  | .ok _, .ok t =>
    let keys := t.map (fun x => (x.1, nbits x.2 5 0))
    if t.all (fun x => switchOk x.2) && keys.eraseDups.length == keys.length then
      .ok (some (t.map (fun x => (x.1, BitVec.ofNat 512 x.2))))
    else .ok none

/-- A launch with its tables read: how dispatch goes on. -/
def withTables (s : State) (l : Launch) (go : State → Launch → Out) : Out :=
  match l.tables with
  | some _ => go s l
  | none =>
    match readTables s l with
    | .ok (some t) => go (s.modLaunch l.id (fun x => { x with tables := some t })) { l with tables := some t }
    | .ok none => .next (s.setLaunch l.id (.ending 1))
    | .error .miss => .next (s.setLaunch l.id (.ending 6))
    | .error e => .next (s.meets l.id e)

/-! ### Taking entries -/

/-- The queue may take an entry (R493): while the resolution of a fault on one of its launches lasts, none (R285). -/
def canTake (s : State) (i q : Nat) : Bool :=
  let b := (s.iface i).q q
  s.boot == .up && b.en && !b.err && b.sqHead != b.sqTail && cqRoom s i q && b.stuck.isNone
    && (openLaunches s i q).all (fun l => l.stuck.isNone)

/-- Usxon is told of a malformed entry that an access of the hub has met (R452). -/
def tellMissing (s : State) (x : Nat) (e : HubX) : State :=
  match e.fault? with | some (_, ia) => tellBad s (s.ctx x) ia | none => s

/-- SUBMISSION_ENTRY_TAKE (R492, R493, R285, R289, R291, R294). A record whose read faults is taken once Usxon
has resolved the fault (AUTO_RESOLUTION). -/
def execSubmissionEntryTake (i q : Nat) (s : State) : Out :=
  if !canTake s i q then .next s
  else
    match headEntry s i q with
    | .error x => .next (if x.waits then s.hubMeet x else (s.hubMeet x).queueErr i q 2)
    | .ok e =>
      let tag := nbits e 191 128
      let op := nbits e 71 64
      let a := nbits e 63 0
      if nbits e 511 192 ≠ 0 || nbits e 127 72 ≠ 0 || (op ≠ 1 && op ≠ 2) || (op = 2 && a ≠ 0) then
        .next (takeEntry s i q (newLaunch s i q 0 false 0 tag (.ending 1)))
      else if (s.iface i).tdisp = .error then .next (takeEntry s i q (newLaunch s i q 0 (op = 2) 0 tag (.ending 5)))
      else if op = 2 then .next (takeEntry s i q (newLaunch s i q 0 true 0 tag .waiting))
      else
        match ((s.iface i).q q).bound with
        | none => .next (takeRecord s i q 0 tag (.ending 6))
        | some x =>
          if (s.ctx x).dying then .next (takeRecord s i q 0 tag (.ending 5))
          else if a % 256 ≠ 0 then .next (takeRecord s i q 0 tag (.ending 1))
          else
            match hubRead s (s.ctx x) a 512 with
            | .ok r => .next (takeRecord s i q r tag (recordStatus s i (s.ctx x) r))
            | .error .miss => .next (takeRecord s i q 0 tag (.ending 6))
            | .error e => .next (tellMissing ((s.hubMeet e).modQ i q (fun b => { b with stuck := e.fault? })) x e)

/-! ### Dispatch -/

/-- The least power of two not below c (R302). -/
def alignOf (c : Nat) : Nat := if c ≤ 1 then 1 else if c ≤ 2 then 2 else if c ≤ 4 then 4 else 8

/-- The cores of aligned group g of a die. -/
def groupCores (die c g : Nat) : List Nat := (List.range c).map (16 * die + alignOf c * g + ·)

/-- The first variant that fits every core of a group, with each core's window. -/
def groupFit (s : State) (l : Launch) (cores : List Nat) : Option (Nat × List Nat) :=
  (List.range l.nvar).findSome? (fun k =>
    let bases := cores.map (fun c => fitsCore s l k c none)
    if bases.all (·.isSome) then some (k, bases.filterMap id) else none)

/-- The resources of an aligned group that a launch's cluster needs are free (R302): the variant and the windows. -/
def groupFree (s : State) (l : Launch) (cores : List Nat) : Option (Nat × List Nat) :=
  let new := (cores.filter (fun x => (s.core x).ctx.isNone)).length
  if cores.all (coreTakes s l) && inBudget s l.iface new then groupFit s l cores else none

/-- A held reservation of another launch, or an earlier one, has this core (R302): it names it, or the core's resources are
those of a suitable group that are free. -/
def coreHeld (s : State) (lid die core seq : Nat) : Bool :=
  s.launches.any (fun x => x.resv.any (fun r => r.held && decide (r.seq < seq) && !(x.id == lid && r.die == die)
    && (r.cores.contains core || (let g := groupCores r.die x.csize (core % 16 / alignOf x.csize); g.contains core && (groupFree s x g).isSome))))

/-- A core of a die can take a block of a launch. -/
def canStart (s : State) (l : Launch) (core : Nat) : Bool :=
  coreTakes s l core && !coreHeld s l.id (dieOf core) core s.ctr && (firstFit s l core).isSome

/-- The core that R308 pre-empts for a class: that of the lowest class, and in it of the latest block. -/
def classVictim (s : State) (die cls : Nat) : Option Nat :=
  let bs := s.blocks.filter (fun b => dieOf b.core == die && !b.ended && !b.saved && b.kill.isNone && cls < (s.launch b.launch).cls)
  let key := fun (b : Block) => (s.launch b.launch).cls
  (firstBy (fun a b => key b < key a || (key a == key b && b.order < a.order)) bs).map (·.core)

/-- A core is asked to stop (R463); its cycle count at the stop is kept (R468). -/
def askStop (s : State) (core : Nat) : State :=
  if (s.core core).stop == .no && (s.core core).ctx.isSome then s.modCore core (fun k => { k with stop := .stopping, stopClock := k.clock }) else s

/-- The cores of a die. -/
def dieCores (die : Nat) : List Nat := (List.range 16).map (16 * die + ·)

/-- A claimed block, or cluster, of a launch fits a core, or an aligned group, of a die (R308). -/
def fitsDie (s : State) (l : Launch) (die : Nat) : Bool :=
  if (l.level 3).isSome then (List.range (16 / alignOf l.csize)).any (fun g => let cs := groupCores die l.csize g; cs.all (coreTakes s l) && (groupFit s l cs).isSome)
  else (dieCores die).any (fun c => coreTakes s l c && (firstFit s l c).isSome)

/-- Class pre-emption for a block of a class that fits nowhere on its die (R308): one core at a time, until it fits. -/
def preemptFor (s : State) (die cls : Nat) (fits : Bool) : State :=
  if fits || (dieCores die).any (fun c => (s.core c).stop != .no) then s
  else match classVictim s die cls with | some c => askStop s c | none => s

/-- A launch of ordinary blocks or of clusters may dispatch now. -/
def dispatching (s : State) (lid : Nat) (cluster : Bool) : Bool :=
  let l := s.launch lid
  decide (lid < s.launches.length) && s.boot == .up && l.st == .running && !l.marker && l.stuck.isNone && (l.level 3).isSome == cluster && !sliceDenied s l

/-- BLOCK_DISPATCH (R297 to R299, R307, R308): a core claims an index, and the block starts with the first
variant that fits. Of several idle cores the lowest goes first. -/
def execBlockDispatch (core lid : Nat) (s : State) : Out :=
  let l := s.launch lid
  let die := dieOf core
  let idle := fun (c : Nat) => (s.core c).ctx.isNone
  if 64 ≤ core || !dispatching s lid false then .next s
  else
    match claim s l die with
    | none => .next s
    | some (idx, ts) =>
      if !inBudget s l.iface (if idle core then 1 else 0) then .next s
      else
        match if canStart s l core then firstFit s l core else none with
        | none => .next (preemptFor s die l.cls (fitsDie s l die))
        | some (k, base) =>
          if idle core && (List.range core).any (fun c => dieOf c == die && idle c && canStart s l c) then .next s
          else
            withTables s l fun s l =>
              .next (startBlock (s.modLaunch lid (fun x => { x with tickets := ts })) l (idx.headD 0) k core base)

/-! ### Clusters -/

/-- The groups that a reservation is tried on (R302, R311): the next one in core order; once it is held, any, from that one
on. -/
def resvGroups (l : Launch) (r : Resv) : List Nat :=
  let n := 16 / alignOf l.csize
  if r.held then (List.range n).map (fun i => (r.next + i) % n) else [r.next]

/-- The place of a reservation's cluster now: its cores, the variant and the windows. -/
def resvPlace (s : State) (l : Launch) (r : Resv) : Option (List Nat × Nat × List Nat) :=
  (resvGroups l r).findSome? (fun g =>
    let cores := groupCores r.die l.csize g
    if cores.any (fun x => coreHeld s l.id r.die x r.seq) then none else (groupFree s l cores).map (fun x => (cores, x)))

/-- One attempt of a reservation (R302): it commits, or backs off and turns to the next group. -/
def attempt (s : State) (l : Launch) (r : Resv) : State :=
  let c := l.csize
  let others := fun (rs : List Resv) => rs.filter (fun x => x.die != r.die)
  match resvPlace s l r with
  | some (cores, k, bases) =>
    let s1 := s.modLaunch l.id (fun x => { x with resv := others x.resv })
    r.idx.foldl (fun s i => startBlock s l i k (cores.getD (i % c) 0) (bases.getD (i % c) 0)) s1
  | none =>
    let fails := r.fails + 1
    let held := decide (8 ≤ fails)
    let next := if held then r.next else (r.next + 1) % (16 / alignOf c)
    let r' : Resv := { r with fails := fails, until_ := s.time + min (250 * 2 ^ fails) 16000, held := held, next := next, cores := groupCores r.die c next }
    preemptFor (s.modLaunch l.id (fun x => { x with resv := others x.resv ++ [r'] })) r.die l.cls (fitsDie s l r.die)

/-- CLUSTER_RESERVATION (R302): a die claims the next cluster of a launch and makes its first attempt. -/
def execClusterReservation (lid die : Nat) (s : State) : Out :=
  let l := s.launch lid
  if 4 ≤ die || !dispatching s lid true || l.resv.any (fun r => r.die == die) then .next s
  else
    match claim s l die with
    | none => .next s
    | some (idx, ts) =>
      withTables s l fun s l =>
        let r : Resv := ⟨die, idx, 0, 0, 0, false, groupCores die l.csize 0, s.ctr⟩
        .next (attempt (s.modLaunch lid (fun x => { x with tickets := ts })).bump l r)

/-- RESERVATION_BACKOFF_EXPIRY (R302): the next group is tried; a held reservation is tried whenever resources
change. -/
def execReservationBackoffExpiry (lid die : Nat) (s : State) : Out :=
  let l := s.launch lid
  match l.resv.find? (fun r => r.die == die) with
  | none => .next s
  | some r => if dispatching s lid true && (r.held || decide (r.until_ ≤ s.time)) then .next (attempt s l r) else .next s

/-! ### VPOINT -/

/-- SCROFF, SCRLEN, LIVE and MATCH of a switch-point entry (R287). -/
def swOff (e : BitVec 512) : Nat := nbits e.toNat 351 320
def swLen (e : BitVec 512) : Nat := nbits e.toNat 383 352
def swLive (e : BitVec 512) : BitVec 256 := BitVec.ofNat 256 (nbits e.toNat 319 64)
def swMatch (e : BitVec 512) : Nat := nbits e.toNat 63 32

/-- A claimed block waits for a core (R300): a reservation names it, or a saved block of the die does not fit
it. -/
def coreWanted (s : State) (core : Nat) : Bool :=
  s.launches.any (fun l => l.resv.any (fun r => r.cores.contains core))
    || s.saves.any (fun v => dieOf v.core == dieOf core && v.blocks.any (fun i =>
      let b := s.block i
      (fitsCore s (s.launch b.launch) b.variant core none).isNone))

/-- The core is short (R300). -/
def coreShort (s : State) (core : Nat) : Bool :=
  s.warps.any (fun w => w.core == core && (match w.place with
    | .swapped _ => true
    | .ended | .saved => false
    | _ => w.groups.any (fun g => g.wait == some (.unissued .regAlloc)))) || coreWanted s core

/-- THE DISPATCHER'S DECISION at switch point n (R300): the variant and its window, or to stay. -/
def decideMove (s : State) (b : Block) (n : Nat) : Option (Nat × Nat) :=
  let l := s.launch b.launch
  let fit := fun (k : Nat) =>
    match switchEntry l k n with
    | none => none
    | some e => if l.winBytes k < swOff e + swLen e then none else (fitsCore s l k b.core (some b)).map (fun base => (k, base))
  let less := fun (k : Nat) =>
    l.regs k ≤ l.regs b.variant && l.scrKb k ≤ l.scrKb b.variant && (l.regs k < l.regs b.variant || l.scrKb k < l.scrKb b.variant)
  let up := (List.range b.variant).findSome? fit
  let down := fun (_ : Unit) => ((List.range l.nvar).filter (fun k => b.variant < k && less k)).findSome? fit
  match up with
  | some x => some x
  | none => if coreShort s b.core then down () else none

/-- The lanes that wait at the VPOINT go on at PCs of their own (R154). -/
def leaveVpoint (s : State) (bid : Nat) (to_ : W64 → W64) : State :=
  let b := s.block bid
  b.warps.foldl (fun s i =>
    let w := s.warp i
    let ts := (lanesOf w.live).filterMap (fun l => match (w.thread l).st with | .atVpoint _ pc => some (l, to_ pc) | _ => none)
    (s.modWarp i (fun w => w.landAll s.ctr ts [])).bump) (s.modBlock bid (fun b => { b with vp := .none }))

/-- The decisions of a cluster's blocks agree (R300): each block that runs has joined at n and would move to
variant k. One that is saved, or that a pre-emption has reached, decides when it is restored (R301). -/
def clusterAgrees (s : State) (b : Block) (n k : Nat) : Bool :=
  (clusterOf s b).all (fun x => x.ended || x.id == b.id ||
    (x.vp == .joinsDone n && vpArrived s x n && vpJoined s x && !x.saved && (s.core x.core).stop == .no && (decideMove s x n).any (fun y => y.1 == k)))

/-- The decision takes effect: the block's move begins, with its cluster's, or its lanes go on. -/
def decideBlock (s : State) (b : Block) (n : Nat) : State :=
  match decideMove s b n with
  | some (k, _) =>
    if clusterAgrees s b n k then
      (clusterOf s b).foldl (fun s x =>
        if x.ended then s
        else match decideMove s x n with
          | some (k, base) => s.modBlock x.id (fun y => { y with vp := .moving n k base })
          | none => s) s
    else leaveVpoint s b.id (· + 12)
  | none => leaveVpoint s b.id (· + 12)

/-- VPOINT_JOINS_DONE (R154, R300): all warps have arrived and the engine's operations have joined, so the
dispatcher decides. A block of a cluster first waits with its joins done; so does one that is to be
saved (R301). -/
def execVpointJoinsDone (bid : Nat) (s : State) : Out :=
  let b := s.block bid
  let cluster := ((s.launch b.launch).level 3).isSome
  let stopped := (s.core b.core).stop != .no
  if b.ended || b.saved || b.kill.isSome then .next s
  else
    match b.vp with
    | .opened n =>
      if !vpArrived s b n || !vpJoined s b then .next s
      else if cluster || stopped then .next (s.modBlock bid (fun b => { b with vp := .joinsDone n }))
      else .next (decideBlock s b n)
    | .joinsDone n => if stopped || !vpArrived s b n || !vpJoined s b then .next s else .next (decideBlock s b n)
    | _ => .next s

/-- A warp's registers after a move (R301, R46): those outside the live map are unallocated. -/
def moveRegs (live : BitVec 256) (w : Warp) : Warp :=
  let keep := w.rf.alloc &&& live
  { w with rf := { w.rf with v := w.rf.v.filter (fun x => keep.getLsbD (x.1 / 32)), alloc := keep } }

/-- The live window at its new place (R301): the other bytes are UNKNOWN, the other beads clear. -/
def moveWindow (k : Core) (draw old new size off len : Nat) : Core :=
  let bytes := (List.range len).map (fun i => scrGet k (old + off + i))
  let beads := (List.range (len / 16)).map (fun i => beadGet k ((old + off) / 16 + i))
  let k1 := freshWindow k draw new size
  let k2 := ((List.range len).zip bytes).foldl (fun k x => scrPut k (new + off + x.1) x.2) k1
  ((List.range (len / 16)).zip beads).foldl (fun k x => beadPut k ((new + off) / 16 + x.1) x.2) k2

/-- VARIANT_MOVE (R301): the live registers and window of a block move to its new variant. -/
def execVariantMove (bid : Nat) (s : State) : Out :=
  let b := s.block bid
  let l := s.launch b.launch
  match b.vp with
  | .moving n k base =>
    match switchEntry l b.variant n with
    | some e =>
      if b.kill.isSome then .next s
      else
        let s1 := b.warps.foldl (fun s i => s.modWarp i (moveRegs (swLive e))) s
        let s2 := s1.modCore b.core (fun c => (moveWindow c s.ctr b.base base (l.winBytes k) (swOff e) (swLen e)).nextGen)
        .next (s2.modBlock bid (fun y => { y with variant := k, base := base, size := l.winBytes k, vp := .moved n b.variant })).bump
    | none => .next s
  | _ => .next s

/-- VARIANT_MOVE_COMPLETE (R301, R154, R349): every lane goes on at the matching offset of the new variant. -/
def execVariantMoveComplete (bid : Nat) (s : State) : Out :=
  let b := s.block bid
  let l := s.launch b.launch
  match b.vp with
  | .moved n old =>
    if b.kill.isSome then .next s
    else
      match switchEntry l b.variant n with
      | none => .next s
      | some e =>
        let pcs := b.warps.flatMap (fun i =>
          let w := s.warp i
          (lanesOf w.live).filterMap (fun x => match (w.thread x).st with | .atVpoint _ pc => some pc | _ => none))
        let to_ := BitVec.ofNat 64 (l.field 63 0 + swMatch e)
        let s1 := (leaveVpoint s bid (fun _ => to_)).count b.core 34 1
        .next (traceEmit s1 b.ctx b.core 0 { kind := 5, code := n, pc := pcs.headD 0, name := threadName s b 0, arg0 := old + b.variant * 256 })
  | _ => .next s

/-! ### The end of a block -/

/-- The windows of a cluster's blocks are freed once every block of it has ended (R360). -/
def freeExports (s : State) (bid : Nat) : State :=
  let mates := clusterOf s (s.block bid)
  if mates.all (·.ended) then mates.foldl (fun s x => s.modBlock x.id (fun y => { y with size := 0 })) s else s

/-- What a block holds of its core goes (R303, R218): ownership, its place in the FIFO, its fills and
pending faults, handles and convergence registers; its window once its whole cluster has ended (R360);
and the core's assignment with its last block (R338). -/
def freeBlock (s : State) (bid : Nat) : State :=
  let b := s.block bid
  let other := fun (o : Owner) => o.block != bid
  let s1 := s.modCore b.core (fun k =>
    { k with
      owner := k.owner.filter other
      fifo := k.fifo.filter other
      hslots := k.hslots.filter (fun h => other h.owner)
      fills := k.fills.filter (fun f => f.block != bid)
      reqq := k.reqq.filter (fun x => x.1 != bid)
      pfq := k.pfq.filter (fun x => (s.warp x.1).block != bid) })
  let s2 := s1.modBlock bid (fun b =>
    { b with ended := true, vp := .none, aside := [], cv := List.replicate 8 default, dh := List.replicate 16 default })
  let s3 := freeExports s2 bid
  if s3.blocks.any (fun x => x.core == b.core && !x.ended && !x.saved) then s3 else endAssignment s3 b.core

/-- Nothing of the block's warps is on its way any more. -/
def warpsDone (s : State) (b : Block) : Bool :=
  b.warps.all (fun i => let w := s.warp i; w.live == 0 && w.txns.all (fun t => t.accs.all (fun a => a.st == .done)))

/-- BLOCK_END (R303). -/
def execBlockEnd (bid : Nat) (s : State) : Out :=
  let b := s.block bid
  let busy := (s.core b.core).fills.any (fun f => f.block == bid)
  if s.blocks.length ≤ bid || b.ended || b.saved || b.kill.isSome || !warpsDone s b || !vpJoined s b || busy then .next s
  else .next (rallies ((freeBlock s bid).modLaunch b.launch (fun l => { l with ended := l.ended + 1 })) bid)

/-! ### Kills -/

/-- A write that can never be performed: it faulted, or is deferred behind a fault. -/
def stuckWrite (s : State) (w : Warp) (t : Txn) (a : Acc) : Bool :=
  a.st == .issued && ((match a.xl with | .fault _ _ => true | _ => false) || deferredBy s w t a.lane)

/-- The stores that a killed block issued have drained, and its matrix operations have completed (R473). -/
def killQuiet (s : State) (b : Block) : Bool :=
  (s.core b.core).eng.all (fun e => e.block != b.id) && b.warps.all (fun i =>
    let w := s.warp i
    w.txns.all (fun t => !t.kind.writes || t.accs.all (fun a => a.st == .done || stuckWrite s w t a)))

/-- A warp of a killed block goes, with its seat and registers. -/
def dropWarp (s : State) (i : Nat) : State :=
  let w := s.warp i
  let s1 := s.modQuad w.core w.quad (fun q =>
    { q with
      seats := q.seats.map (fun x => if x == some i then none else x)
      hold := q.hold.filter (· != i)
      a := if q.hold == some i then none else q.a
      b := if q.hold == some i then none else q.b })
  s1.modWarp i (fun w =>
    { w with
      place := .ended, image := none, live := 0, groups := [], txns := [], loads := [], llr := [], events := [], handler := 0, holding := false, parkDue := false
      fr := List.replicate 4 none, mon := { w.mon with armed := false }, rf := { w.rf with v := [], alloc := 0 }
      thr := w.thr.map (fun t => { t with st := .exited }) })

/-- The index of a killed block returns to the front of its die's counter, or ends for good (R304). -/
def relaunch (l : Launch) (b : Block) : Launch :=
  let n := cget l.tries 0 b.index
  let d := dieOf b.core
  if l.st == .running && l.field 71 71 = 1 && n < l.field 75 72 then
    { l with tries := cset l.tries 0 b.index (n + 1), tickets := l.tickets.modify d (fun t => { t with front := b.index :: t.front }) }
  else { l with killed := l.killed + 1, ended := l.ended + 1 }

/-- A block is killed where it is saved: it leaves its save area. -/
def killSaved (s : State) (bid : Nat) : State :=
  let b := s.block bid
  let cut := fun (v : Save) =>
    { v with
      blocks := v.blocks.filter (· != bid)
      warps := v.warps.filter (fun w => (s.warp w).block != bid)
      wins := v.wins.filter (fun w => w.block != bid) }
  let s1 := { s with saves := (s.saves.map cut).filter (fun v => !v.blocks.isEmpty) }
  let gone := fun (w : Warp) => { w with place := .ended, image := none, live := 0, groups := [], txns := [], events := [] }
  let s2 := b.warps.foldl (fun s i => s.modWarp i gone) s1
  freeExports (s2.modBlock bid (fun b => { b with ended := true, size := 0, vp := .none, reqs := b.reqs.map (fun q => if q.st == .done then q else { q with st := .done, outcome := 1 }) })) bid

/-- BLOCK_KILL (R472, R473, R304, R349): the block's requests are cancelled, those inside a granule once it is written (R426), its warps end, its resources are
freed, one kill record is written, and its index is relaunched or ends. -/
def execBlockKill (bid : Nat) (s : State) : Out :=
  let b := s.block bid
  match b.kill with
  | none => .next s
  | some k =>
    let open_ := b.reqs.filter (fun q => q.st != .done)
    if b.ended || (!b.saved && !killQuiet s b) then .next s
    else if !b.saved && open_.any (fun q => q.st == .running && !atGranule q) then .next (open_.foldl (fun s q => cancelReq s bid q.id) s)
    else
      let s1 := if b.saved then s else open_.foldl (fun s q => endReq s bid q.id 1) s
      let s2 := traceEmit s1 b.ctx b.core (k.thread / 32 % 4)
        { kind := 4, code := k.code, mask := k.mask, pc := k.pc, name := threadName s b k.thread, arg0 := 1 }
      let s3 := if b.saved then killSaved s2 bid else freeBlock (b.warps.foldl dropWarp s2) bid
      let s4 := s3.modLaunch b.launch (fun l => relaunch l b)
      .next (rallies { s4 with log := .kill k.code bid :: s4.log } bid)

end Sys2Proof.Machine
end

