-- ==== Sys2Proof/Machine/PreemptEvents.lean ====
section
/-! DEFINITION. Slices (R306), pre-emption: stop, save and restore (R463 to R471, R500), and the debugger's halts
(R459, R460). -/

namespace Sys2Proof.Machine

/-! ### Slices and stops -/

/-- The class in which a queue shares core-time with another (R306): the queue has launches of it that run, and the other
has blocks of it waiting. The weight of the latter's launch. -/
def rival (s : State) (i q j : Nat) : Option Nat :=
  let mine := s.launches.filter (fun l => l.iface == i && l.queue == q && l.st == .running)
  (s.launches.find? (fun l => l.iface == i && l.queue == j && l.waits && mine.any (fun m => m.cls == l.cls))).map (weightOf s)

/-- The weight of a queue's running launch (R305). -/
def queueWeight (s : State) (i q : Nat) : Nat :=
  ((s.launches.find? (fun l => l.iface == i && l.queue == q && l.st == .running)).map (weightOf s)).getD 1

/-- The queue that takes the slice (R306): of those with blocks of a class waiting, the one whose core-time is least for its
weight, and of those the next in turn. -/
def nextSlice (s : State) (i q : Nat) : Option Nat :=
  let js := ((List.range 15).map (fun k => (q + 1 + k) % 16)).filterMap (fun j => (rival s i q j).map (fun w => (j, w)))
  let time := fun (j : Nat) => ((s.iface i).q j).coreTime s.time
  (firstBy (fun a b => decide (time a.1 * b.2 < time b.1 * a.2)) js).map (·.1)

/-- The slice of a queue may end (R306): it has lasted 100 µs, and the queue has had its part of the core-time. -/
def sliceOver (s : State) (i q j : Nat) : Bool :=
  let b := (s.iface i).q q
  b.slice != 0 && decide (b.slice + 100000 ≤ s.time + 1)
    && decide (((s.iface i).q j).coreTime s.time * queueWeight s i q ≤ b.coreTime s.time * (rival s i q j).getD 1)

/-- Blocks of a queue's launches stand on a core. -/
def queueOn (s : State) (i q c : Nat) : Bool :=
  s.blocks.any (fun x => x.core == c && !x.ended && !x.saved && (let l := s.launch x.launch; l.iface == i && l.queue == q))

/-- The next core of a queue without a slice is asked to stop, when none of its cores is stopping (R306). -/
def stopQueue (s : State) (i q : Nat) : State :=
  let mine := (List.range 64).filter (queueOn s i q)
  match mine with
  | c :: _ => if mine.any (fun c => (s.core c).stop != .no) then s else askStop s c
  | [] => s

/-- SLICE_EXPIRY (R306): another queue of the class takes the slice, and the queue's resident blocks are pre-empted, one core
at a time, for as long as the other queue has blocks waiting. -/
def execSliceExpiry (i q : Nat) (s : State) : Out :=
  let b := (s.iface i).q q
  match nextSlice s i q with
  | none => .next s
  | some j =>
    if b.slice = 0 then
      .next (if (List.range 16).any (fun k => k != q && (rival s i q k).isSome && ((s.iface i).q k).slice != 0) then stopQueue s i q else s)
    else if !sliceOver s i q j then .next s
    else .next (stopQueue ((s.modQ i q (fun x => { x with slice := 0 })).modQ i j (fun x => { x with slice := s.time + 1 })) i q)

/-- PREEMPT_STOP_REQUEST (R463, R464): the core's warps stop at their next issue slot. -/
def execPreemptStopRequest (core : Nat) (s : State) : Out := .next (askStop s core)

/-! ### The save -/

/-- Blocks that a core holds. -/
def heldBlocks (s : State) (core : Nat) : List Block := s.blocks.filter (fun b => b.core == core && !b.ended && !b.saved)

/-- The warps of those blocks. -/
def heldWarps (s : State) (core : Nat) : List Warp := ((heldBlocks s core).flatMap (·.warps)).map s.warp

/-- A fill's reads. -/
def TxKind.isFill : TxKind → Bool
  | .fill _ => true
  | _ => false

/-- The engine has come to a place where it stops (R464): idle, between steps of an MXRUN, or before an
operation whose turn has not come. -/
def engineQuiet (s : State) (core : Nat) : Bool :=
  match (s.core core).eng with
  | [] => true
  | e :: _ => e.kind == .mxrun || fillsBefore (s.core core) e.seq (e.slots.getD [])

/-- Everything in flight on the core has come to rest (R464, R465): its blocks' CAUSAL updates too, and those of their requests. -/
def saveReady (s : State) (core : Nat) : Bool :=
  let ws := heldWarps s core
  let bs := heldBlocks s core
  (s.core core).stop == .stopping && s.focus.side == .A && bs.all (fun b => b.kill.isNone && !vpMoving b)
    && ws.all (fun w => (match w.place with | .movingOut .. | .movingIn _ => false | _ => true) && w.llr.isEmpty
      && w.txns.all (fun t => t.kind.isFill || t.accs.all (fun a => a.st == .done)))
    && s.dies.all (fun d => d.upd.all (fun u => bs.all (fun b => b.id != u.src.block s)))
    && engineQuiet s core && s.engines.all (fun js => (js.take 4).all (fun j => j.core != core ||
      ((s.block j.block).req? j.req).all (fun q => q.st != .running || atGranule q))) && (s.core core).prefs.all (fun p => p.bar.isNone)

/-- The deck slots that a save holds: those of valid handles loaded without .REF (R469). -/
def savedSlots (s : State) (core : Nat) : List Nat :=
  (heldBlocks s core).flatMap (fun b => (b.dh.filter (fun h => h.valid && !h.isRef)).flatMap Handle.slots)

/-- The contents of an armed monitor's line at its home, where its translation stands. -/
def monNow (s : State) (w : Warp) : Option (BitVec 1024) :=
  match if w.mon.armed then monPlace s w else .none with
  | .loc l => some (lineNow s (s.block w.block).ctx (128 * w.mon.line) l)
  | _ => none

/-- A warp as it is saved: a fill's reads start again at restore, an armed monitor's snapshot is current; its registers stand in the
save area, and in no swap image. -/
def savedWarp (s : State) (w : Warp) : Warp :=
  let redo := fun (t : Txn) => if t.kind.isFill then { t with accs := t.accs.map (fun a => { a with st := .issued, xl := .none, got := 0 }) } else t
  let mon := match monNow s w with
    | some now => { w.mon with hit := w.mon.hit || now != w.mon.snap, snap := now }
    | none => w.mon
  { w with place := if w.place = Place.ended then Place.ended else .saved, ready := none, image := none, txns := w.txns.map redo, mon := mon }

/-- The n keys of a table from lo on, counted from lo. -/
def cutCells {α : Type} (c : Cells α) (lo n : Nat) : Cells α :=
  (c.filter (fun x => lo ≤ x.1 && x.1 < lo + n)).map (fun x => (x.1 - lo, x.2))

/-- A block's window, beads and draws (R469). -/
def savedWin (k : Core) (b : Block) : SavedWin :=
  ⟨b.id, cutCells k.scr b.base b.size, cutCells k.beads (b.base / 16) (b.size / 16), cutCells k.scrDraw (b.base / 1024) (b.size / 1024)⟩

/-- The save area of a core (R468 to R471, R500): its cycle count is that of the stop, and its counter moves on. -/
def takeSave (s : State) (core ctx : Nat) : Save :=
  let k := s.core core
  let bs := heldBlocks s core
  let slots := savedSlots s core
  let running := bs.flatMap (fun b => (b.reqs.filter (fun q => q.st != .done)).map (fun q => (b.id, q.id)))
  { core := core, ctx := ctx, time := s.time, clock := k.stopClock, tiles := k.acc,
    deck := k.deck.filter (fun x => slots.contains (x.1 / 256 % 64)), blocks := bs.map (·.id),
    warps := (heldWarps s core).map (·.id), wins := bs.map (savedWin k), owner := k.owner, fifo := k.fifo, eng := k.eng,
    fills := k.fills, hslots := k.hslots, reqq := running, pfq := k.pfq,
    counter := cget s.saveCtr 0 (64 * ctx + core) + 1, draw := s.ctr }

/-- A core after its state was saved. -/
def emptyCore (s : State) (core : Nat) (k : Core) : Core :=
  let wipe := fun (k : Core) (b : Block) =>
    { k with scr := cclear k.scr b.base (b.base + b.size), beads := cclear k.beads (b.base / 16) ((b.base + b.size) / 16) }
  let k1 := (heldBlocks s core).foldl wipe k
  { k1 with
    owner := none, fifo := [], eng := [], fills := [], hslots := [], reqq := [], pfq := [], stop := .no
    quads := k.quads.map (fun q =>
      { q with seats := List.replicate 16 none, hold := none, a := none, b := none, arb := none, runOver := false, avail := 2048, usedA := none }) }

/-- An MXRUN that stops has been at work on its next step, which replays at restore, or not: a free value (R420, R464, R342). One whose
access waits for Usxon has lost that twin already. -/
def stopMxrun (s : State) (core : Nat) : State :=
  match (atWork s core).filter (fun e => e.kind == .mxrun && (Config.unknown64 (s.ctr * 256 + 251)).getLsbD 0) with
  | some e => discardTwin (startOp s core e) core e
  | none => s

/-- PREEMPT_SAVE_COMPLETE (R464, R465, R468 to R471, R421, R426): once everything in flight has come to rest,
the core's state is saved and its assignment ends (R338). -/
def execPreemptSaveComplete (core : Nat) (s : State) : Out :=
  match (s.core core).ctx with
  | none => .next s
  | some x =>
    if !saveReady s core then .next s
    else
      let bs := heldBlocks s core
      let ids := (heldWarps s core).map (·.id)
      let s0 := stopMxrun s core
      let v := takeSave s0 core x
      let s1 := bs.foldl (fun s b => traceEmit (s.count core 39 1) x core 0
        { kind := 6, code := 0, name := threadName s b 0, arg0 := core }) s0
      let stop := fun (b : Block) =>
        if bs.any (fun y => y.id == b.id) then
          { b with saved := true, reqs := b.reqs.map (fun q => if q.st == .running then { q with st := .queued } else q) }
        else b
      let still := fun (w : Warp) => if ids.contains w.id then savedWarp s1 w else w
      let s2 := { s1 with
        warps := s1.warps.map still
        blocks := s1.blocks.map stop
        saves := s1.saves ++ [v]
        saveCtr := cset s1.saveCtr 0 (64 * x + core) v.counter }
      let s3 := s2.dropJobs (fun j => bs.any (fun b => b.id == j.block))
      .next ((endAssignment (s3.modCore core (emptyCore s core)) core)).bump

/-! ### The restore -/

/-- An access to a saved block's window follows the window to its new place: `b` is the block as it was saved. -/
def moveAcc (old new base : Nat) (b : Block) (a : Acc) : Acc :=
  if a.sp == .scratch old && b.base ≤ a.key && a.key < b.base + b.size then { a with sp := .scratch new, key := base + (a.key - b.base) } else a

/-- Every access in flight or recorded follows a restored block's window. -/
def moveAccs (s : State) (old new base : Nat) (b : Block) : State :=
  let txn := fun (t : Txn) => { t with accs := t.accs.map (moveAcc old new base b) }
  let rec_ := fun (r : FaultRec) => { r with txn := txn r.txn }
  { s with
    warps := s.warps.map (fun w => { w with txns := w.txns.map txn, fr := w.fr.map (fun r => r.map rec_) })
    cores := s.cores.map (fun k => { k with pfq := k.pfq.map (fun x => (x.1, rec_ x.2)) }) }

/-- A window returns to its offsets, on its block's core. -/
def putWin (b : Block) (k : Core) (w : SavedWin) : Core :=
  let k1 := freshWindow k 0 b.base b.size
  let scr := w.bytes.foldl (fun c x => cput c (b.base + x.1) x.2) k1.scr
  let beads := w.beads.foldl (fun c x => cset c false (b.base / 16 + x.1) x.2) k1.beads
  let draws := w.draws.foldl (fun c x => cset c 0 (b.base / 1024 + x.1) x.2) k1.scrDraw
  { k1 with scr := scr, beads := beads, scrDraw := draws }

/-- A restored warp takes a seat of its quadrant when one and its registers are free (R326), or stands swapped. -/
def seatSaved (core : Nat) (s : State) (i : Nat) : State :=
  let w := s.warp i
  if w.place = .ended then s.modWarp i (fun w => { w with core := core })
  else
    match (if w.rf.footprint ≤ s.poolFree core w.quad then freeSeat s core w.quad else none) with
    | some k =>
      ((s.modWarp i (fun w => { w with core := core, place := .seated k, image := none })).modQuad core w.quad
        (fun q => { q with seats := q.seats.set k (some i) })).bump
    | none => (s.modWarp i (fun w => { w with core := core, place := .swapped s.ctr, image := some (imageFor s { w with core := core }) })).bump

/-- The place of a refill in engine order: before every operation and fill that was saved, which came after it, and after all else. -/
def Save.refillSeq (v : Save) (s : State) : Nat := (v.eng.map (·.seq) ++ v.fills.map (·.seq)).foldl (fun m x => min m (x - 1)) s.ctr

/-- A .REF handle is filled again from its source (R231), at a place in engine order. -/
def refill (core seq : Nat) (s : State) (b : Block) (n : Nat) (h : Handle) : State :=
  let ctx := s.ctx b.ctx
  let a := h.src.toNat
  let wid := (aliveWarps s b).headD 0
  let f : Fill := ⟨seq, b.id, n, h, none, wid⟩
  let put := fun (s : State) (f : Fill) => s.modCore core (fun k => { k with fills := k.fills ++ [f] })
  if nbits a 63 56 = 0xFE then (put s f).bump
  else
    match sourcePieces ctx a (srcBytes h.fmt h.scb) with
    | none => s
    | some ps =>
      let acc := fun (p : Nat × Nat × Nat × Bool) =>
        Acc.mk (lowLane (s.warp wid).live) p.1 p.2.1 .global p.2.2.1 0 0 0 p.2.2.2 .none .issued 0
      let t : Txn :=
        { id := s.ctr, kind := .fill n, f := default, runId := 0, mask := (s.warp wid).live, dst := 0, nregs := 0, size := 1,
          dom := .bulk, scope := .device, ord := .plain, pol := .dflt, accs := ps.map acc, publish := false, drop := false }
      ((put s { f with txn := some t.id }).modWarp wid (fun w => { w with txns := w.txns ++ [t] })).bump

/-- The .REF handles of a block whose fill was not itself saved are filled again. -/
def refillAll (core seq : Nat) (s : State) (bid : Nat) : State :=
  let b := s.block bid
  ((List.range 16).zip b.dh).foldl (fun s x =>
    let open_ := (aliveWarps s b).isEmpty || (s.core core).fills.any (fun f => f.block == bid && f.dh == x.1)
    if x.2.valid && x.2.isRef && !open_ then refill core seq s b x.1 x.2 else s) s

/-- One block of a save area stands on a core again, with a window there (R359, R465). -/
def putBlock (old core : Nat) (s : State) (id : Nat) : State :=
  let b := s.block id
  let base := (freeWindow (windowsOf s core none) b.size).getD b.base
  (moveAccs s old core base b).modBlock id (fun b => { b with core := core, base := base, saved := false })

/-- Something of a save area needs the core's matrix engine: a group owned it, or operations are saved (R468). -/
def Save.engine (v : Save) : Bool := v.owner.isSome || !v.eng.isEmpty || !v.hslots.isEmpty

/-- The blocks of a save area stand on a core again, beside those that it holds (R464, R465, R470). What the engine of a core
with blocks of its own holds stays, unless the saved blocks had one (log 56). A record that Usxon emptied meanwhile takes the next pending fault (R266, R279). -/
def putBlocks (s : State) (v : Save) (core : Nat) : State :=
  let idle := (s.core core).ctx.isNone
  let s2 := v.blocks.foldl (putBlock v.core core) s
  let s3 := s2.modCore core (fun k0 =>
    let k := assignCore k0 v.ctx
    let mine := idle || v.engine
    { k with
      acc := if mine then v.tiles else k.acc
      deck := if idle then v.deck else v.deck.foldl (fun d x => cset d 0 x.1 x.2) k.deck
      opc := if idle then [] else k.opc
      owner := v.owner.or k.owner, fifo := k.fifo ++ v.fifo, eng := k.eng ++ v.eng, fills := k.fills ++ v.fills
      hslots := k.hslots ++ v.hslots, reqq := v.reqq ++ k.reqq, pfq := k.pfq ++ v.pfq
      l1 := k.l1.filter (fun x => x.ctx != v.ctx) })
  let s4 := v.wins.foldl (fun s w => s.modCore core (fun k => putWin (s.block w.block) k w)) s3
  v.warps.foldl tidyRecs (v.warps.foldl (seatSaved core) s4)

/-- A block of a cluster returns to the cores of its cluster (R302): those of one aligned group, where its other blocks
stand. -/
def clusterPlace (s : State) (core : Nat) (b : Block) : Bool :=
  let l := s.launch b.launch
  (l.level 3).isNone || (
    let at_ := core % 16
    decide (b.rank ≤ at_) && (at_ - b.rank) % alignOf l.csize == 0 && decide (at_ - b.rank + l.csize ≤ 16)
      && (clusterOf s b).all (fun x => x.saved || x.ended || x.core + b.rank == core + x.rank))

/-- Registers of a block's seated warps in a quadrant, as they stand saved. -/
def savedRegs (s : State) (b : Block) (q : Nat) : Nat :=
  ((b.warps.map s.warp).filter (fun w => w.quad == q && w.place != .ended)).map (fun w => w.rf.footprint) |>.sum

/-- The saved blocks fit a core (R299), one after the other, each with the registers that it asked for when it started beside those
of the blocks before it. A core without blocks takes what stood on one core together (DESIGN CHOICE, log 93). -/
def savedFit (s : State) (v : Save) (core : Nat) : Bool :=
  let bs := v.blocks.map s.block
  let share := fun (b : Block) (q : Nat) => quadShare (s.launch b.launch).nwarps q
  let room := (List.range 4).all (fun q =>
    decide ((quadWarps s core q).length + (bs.map (fun b => share b q)).sum ≤ 32)
      && (bs.foldl (fun (p : Bool × Nat) b =>
        (p.1 && decide ((s.launch b.launch).regs b.variant * share b q ≤ s.poolFree core q - p.2), p.2 + savedRegs s b q)) (true, 0)).1)
  let wins := bs.foldl (fun (o : Option (List (Nat × Nat))) b =>
    o.bind (fun ws => (freeWindow ws b.size).map (fun x => (x, b.size) :: ws))) (some (windowsOf s core none))
  (room || (s.core core).ctx.isNone) && wins.isSome

/-- A save area may return to a core of its die (R308, R299, R302): an unassigned one within the interface's budget of cores (R498), or
one of its context whose engine neither needs; no resources go to an ordinary block that a held reservation waits for (R302, R311).
The core's own save area for the context is free, or this one (R468). -/
def restorable (s : State) (v : Save) (core : Nat) : Bool :=
  let k := s.core core
  let i := (s.ctx v.ctx).iface
  let free := k.owner.isNone && k.eng.isEmpty && k.hslots.isEmpty
  let own := fun (b : Block) => ((s.launch b.launch).level 3).isNone
  k.stop == .no && (if k.ctx.isNone then decide (coresHeld s i + 1 ≤ (s.iface i).cores) else k.ctx == some v.ctx && (free || !v.engine))
    && savedFit s v core && v.blocks.all (fun i => clusterPlace s core (s.block i))
    && (!v.blocks.any (fun i => own (s.block i)) || !coreHeld s s.launches.length (dieOf core) core s.ctr)
    && s.saves.all (fun x => x == v || x.ctx != v.ctx || x.core != core)

/-- The cause of a block's kill by an abort: one of the kill codes of R265, which the manual leaves open (log 47). -/
def abortCode (draw bid : Nat) : Nat := 0x30 + (Config.unknown64 (draw * 256 + bid % 256)).toNat % 4

/-- A context is aborted: its launches end ABORTED, and their blocks are killed without relaunch (R489, R500,
R501). -/
def abortLaunches (s : State) (f : Launch → Bool) : State :=
  let hit := fun (l : Launch) => f l && !l.isDone
  let s1 := { s with launches := s.launches.map (fun l => if hit l then { l with st := .ending 5, resv := [] } else l) }
  let kill := fun (b : Block) => if !b.ended && b.kill.isNone && hit (s.launch b.launch) then { b with kill := some ⟨abortCode s.ctr b.id, 0, 0, 0⟩ } else b
  { s1 with blocks := s1.blocks.map kill }.bump

/-- At restore a monitor's line is compared with its snapshot, and a deadline that has passed ends its wait (R467). -/
def monRestore (s : State) (wid : Nat) : State :=
  let s1 := monitorCheck s wid
  let w := s1.warp wid
  let changed := w.mwaiters.isEmpty && (monNow s1 w).any (· != w.mon.snap)
  let s2 := if changed then s1.modWarp wid (fun w => { w with mon := { w.mon with hit := true } }) else s1
  w.mwaiters.foldl (fun s g => match execMwaitDeadline wid g.gid s with | .next t => t | _ => s) s2

/-- A save area of a confidential context that is not to be taken back (R500): its counter is not the latest, or its tag fails. -/
def forged (s : State) (v : Save) : Bool :=
  (s.ctx v.ctx).conf && (v.counter != cget s.saveCtr 0 (64 * v.ctx + v.core) || !Config.tagHolds s.ctr)

/-- RESTORE (R465, R467, R422, R426, R500): a save area returns to a core of its die, which acts as an acquire. One that is forged
aborts the context. One that fits no core of the die has cores of lower classes pre-empted (R308). -/
def execRestore (save core : Nat) (s : State) : Out :=
  match s.saves[save]? with
  | none => .next s
  | some v =>
    let denied := v.blocks.any (fun i => sliceDenied s (s.launch (s.block i).launch))
    let die := dieOf core
    if 64 ≤ core || s.boot ≠ .up || die ≠ dieOf v.core || denied then .next s
    else if !restorable s v core then
      match v.blocks with
      | i :: _ => .next (preemptFor s die (s.launch (s.block i).launch).cls ((dieCores die).any (restorable s v)))
      | [] => .next s
    else if forged s v then .next (abortLaunches s (fun l => l.ctx == v.ctx)).bump
    else
      let s1 := putBlocks { s with saves := s.saves.eraseIdx save } v core
      let s2 := acquireBoth s1 core
      let s3 := v.blocks.foldl (refillAll core (v.refillSeq s)) s2
      let s4 := v.warps.foldl monRestore s3
      .next (v.blocks.foldl (fun s i => traceEmit s v.ctx core 0 { kind := 6, code := 1, name := threadName s (s.block i) 0, arg0 := core }) s4).bump

/-! ### Halts -/

/-- Lanes of one subgroup stop (R459): a subgroup that waits inside a run keeps its wait. -/
def haltGroup (wid : Nat) (m : LMask) (s : State) (g : Group) : State :=
  let hit := g.mask &&& m
  if hit = 0 then s
  else
    let s1 := s.modWarp wid (fun w =>
      let w1 := match g.wait with
        | none | some (.unissued _) => w.split g.gid hit
        | _ => w
      w1.modLanes hit (fun _ t => { t with halt := true }))
    stopTrace s1 wid 0xFFFF hit g.pc

/-- A lane that waits outside every subgroup stops where it is. -/
def haltLane (wid : Nat) (s : State) (l : Nat) : State :=
  let pc := lanePc ((s.warp wid).thread l)
  stopTrace (s.modWarp wid (fun w => w.modThread l (fun t => { t with halt := true }))) wid 0xFFFF (laneBit l) pc

/-- DEBUG_HALT (R459, R349): with a session attached, lanes of a warp stop, each with a STOP record. -/
def execDebugHalt (wid : Nat) (lanes : LMask) (s : State) : Out :=
  let w := s.warp wid
  let m := lanes &&& w.live &&& ~~~w.halted
  if (s.ctx (s.block w.block).ctx).dbg.isNone then .next s
  else
    let s1 := w.groups.foldl (haltGroup wid m) s
    let inGroups := w.groups.foldl (fun x g => x ||| g.mask) 0
    .next ((lanesOf (m &&& ~~~inGroups)).foldl (haltLane wid) s1)

/-- DEBUG_RELEASE (R460): stopped lanes go on where they stopped. -/
def execDebugRelease (wid : Nat) (lanes : LMask) (s : State) : Out :=
  .next (s.modWarp wid (fun w => w.modLanes (lanes &&& w.halted) (fun _ t => { t with halt := false })))

end Sys2Proof.Machine
end

