-- ==== Sys2Proof/Machine/TranslationEvents.lean ====
section
/-! DEFINITION. Answers to translation: ATS and PRI (R453, R480), invalidations (R454, R455), Usxon's resolution of
faults (R57, R240, R255, R267, R285, R444, R445), floors (R398) and migration (R456). -/

namespace Sys2Proof.Machine

/-! ### What waits for Usxon -/

/-- A lane waits inside its run with an instruction that has issued: for what it recorded, too (log 71). -/
def Warp.waitsIn (w : Warp) (l : Nat) : Bool :=
  w.groups.any (fun g => hasLane g.mask l && (match g.wait with | some (.issued ..) => true | _ => false))

/-- Lanes of record n that Usxon may serve (R444, R446): they have stopped or wait inside their run, are not in a handler,
and hold no older record; the record's window is AUTO. -/
def autoLanes (w : Warp) (n : Nat) : List Nat :=
  match w.frAt n with
  | none => []
  | some r =>
      (lanesOf (r.txn.mask &&& ~~~r.user)).filter (fun l =>
        let t := w.thread l
        !t.depth && (match t.st with | .memStopped _ | .parked _ _ => true | .live => t.stop && w.waitsIn l | _ => false)
          && ((recsOf w (laneBit l)).head?.any (fun x => x.2 == n)))

/-- Lanes parked at a run start by a fetch fault, with that of the lowest (R56). -/
def fetchLanes (w : Warp) : Option (W64 × LMask × FetchFault) :=
  let at_ := fun (l : Nat) => match (w.thread l).st with | .fetchStopped pc x => some (pc, x) | _ => none
  match (lanesOf w.live).findSome? at_ with
  | none => none
  | some (pc, x) => some (pc, maskOf (fun l => hasLane w.live l && (at_ l).any (fun y => y.1 == pc)), x)

/-- The fault that stands at a run start where lanes are parked (R56): one of the fetch, or a refusal of a peer line that is
still not held (R521). A denial of a host page stands until the host is asked again (R480). -/
def fetchFault (s : State) (w : Warp) (pc : W64) (was : FetchFault) : Option FetchFault :=
  if was.kind = .hostPage then some was
  else
    match fetchRun s w pc with
    | .fault x => some x
    | .peer _ x => if was.kind == .readDenied then some x else none
    | _ => none

/-- What a faulted access of an engine needs. -/
def Kind.need : Kind → Need
  | .readDenied => ⟨true, false, none⟩
  | .writeDenied => ⟨false, true, none⟩
  | _ => ⟨false, false, none⟩

/-- A fault of kind k, recorded at a virtual address of a context for an engine, as it stands now: kind and IA. A denial stands until
the host is asked again (R480); a place above the device memory is NOT-PRESENT to an engine (log 35). -/
def vaStands (s : State) (die ctx va : Nat) (k : Kind) : Option (Kind × Nat) :=
  match vaXl s die (s.ctx ctx) va k.need with
  | none => none
  | some (ia, x) =>
    if k = .hostPage then some (k, ia)
    else
      match x with
      | .fault y _ => some (y, ia)
      | .loc l => if Config.deviceBytes ≤ l && l < peerBase then some (.notPresent, ia) else none
      | _ => none

/-- The job of a copy engine that a resolution names: a mod 32 is the engine, a / 32 its place among the running ones. -/
def jobAt (s : State) (a : Nat) : Option (Job × Req) :=
  ((s.engines.getD (a % 32) []).take 4)[a / 32]?.bind (fun j => ((s.block j.block).req? j.req).map (fun q => (j, q)))

/-- The fault that stands at a recorded access (R267, R445): what its translation finds, or the refusal of a peer line that is
still not held (R521). -/
def accFault (s : State) (w : Warp) (r : FaultRec) (a : Acc) : Option (Kind × Nat) :=
  match tryAcc s w r.txn a with
  | .fault k _ => some (k, a.key)
  | .go b => if (r.kind == .readDenied || r.kind == .writeDenied) && b.sp == .global && b.st != .done && !peerOk s b.place r.txn.kind.writes then some (r.kind, a.key) else none
  | .wait => none

/-- What a resolution is about, by the operands of AUTO_RESOLUTION and HOST_FAULT_ANSWER: (kind, context, IA) of
the fault that stands now. rec 0 to 3 is a fault record of the warp, 4 its parked fetch, 5 the MXRUN of core
`warp`, 6 a running job of a copy engine, 7 launch `warp`, or from 2^32 on the record of queue `warp` mod 16. -/
def faultAt (s : State) (a rec_ : Nat) : Option (Kind × Nat × Nat) :=
  match rec_ with
  | 4 =>
    let w := s.warp a
    let ctx := (s.block w.block).ctx
    (fetchLanes w).bind (fun x => (fetchFault s w x.1 x.2.2).map (fun y => (y.kind, ctx, y.line)))
  | 5 =>
    match (s.core a).eng with
    | e :: _ => let ctx := (s.block e.block).ctx; e.fault.bind (fun x => (vaStands s (dieOf a) ctx x.1 x.2).map (fun y => (y.1, ctx, y.2)))
    | [] => none
  | 6 =>
    (jobAt s a).bind (fun x =>
      let b := s.block x.1.block
      x.2.fault.bind (fun y => (vaStands s (dieOf b.core) b.ctx y.1 y.2).map (fun z => (z.1, b.ctx, z.2))))
  | 7 =>
    if a < 2 ^ 32 then (s.launch a).stuck.map (fun x => (x.1, (s.launch a).ctx, x.2))
    else
      let q := (s.iface ((a - 2 ^ 32) / 16)).q ((a - 2 ^ 32) % 16)
      q.stuck.bind (fun x => q.bound.map (fun c => (x.1, c, x.2)))
  | n =>
    let w := s.warp a
    match autoLanes w n, w.frAt n with
    | l :: _, some r =>
      (r.txn.of l).findSome? (fun a => (accFault s w r a).map (fun x => (x.1, (s.block w.block).ctx, x.2)))
    | _, _ => none

/-- The fault is declined: unrecoverable for a lane (R472), an error for an engine (R240, R255), UNREADABLE for a launch, whose
completion word is not written when its place is what was declined (R290). -/
def declineAt (s : State) (a rec_ : Nat) (k : Kind) : State :=
  match rec_ with
  | 4 =>
    let w := s.warp a
    match fetchLanes w with
    | some (pc, m, was) =>
      let at_ := ((fetchFault s w pc was).getD was).pc
      killBlock s w.block ⟨kindCode k, m, at_, w.index * 32 + lowLane m⟩
    | none => s
  | 5 => match (s.core a).eng with | e :: _ => finishOp s a e true | [] => s
  | 6 => match jobAt s a with | some (j, _) => endReq s j.block j.req 2 | none => s
  | 7 =>
    if a < 2 ^ 32 then
      let word := (finalStatus s (s.launch a)).isSome
      s.modLaunch a (fun l =>
        if l.isDone then l
        else { l with st := .ending 6, stuck := none, record := if word then l.record &&& ~~~BitVec.ofNat 4096 ((2 ^ 64 - 1) * 2 ^ 3072) else l.record })
    else
      let i := (a - 2 ^ 32) / 16
      let q := (a - 2 ^ 32) % 16
      let s1 := s.modQ i q (fun b => { b with stuck := none })
      match headEntry s i q with
      | .ok e => takeRecord s1 i q 0 (nbits e 191 128) (.ending 6)
      | .error _ => s1
  | n =>
    let w := s.warp a
    match w.frAt n with
    | some r => killBlock s w.block ⟨kindCode k, r.txn.mask, r.txn.f.pc, w.index * 32 + lowLane r.txn.mask⟩
    | none => s

/-- What waited goes on: a record's lanes are replayed, a run is fetched again, an engine's step or granule starts again, a command
processor reads again. -/
def retryAt (s : State) (a rec_ : Nat) : State :=
  match rec_ with
  | 4 =>
    let w := s.warp a
    match fetchLanes w with
    | some (pc, m, _) => (s.modWarp a (fun w => w.landAll s.ctr ((lanesOf m).map (fun l => (l, pc))) [])).bump
    | none => s
  | 5 => s.modHead a (fun e => { e with fault := none })
  | 6 => match jobAt s a with | some (j, _) => s.modReq j.block j.req (fun q => { q with fault := none }) | none => s
  | 7 =>
    if a < 2 ^ 32 then s.modLaunch a (fun l => { l with stuck := none })
    else s.modQ ((a - 2 ^ 32) / 16) ((a - 2 ^ 32) % 16) (fun b => { b with stuck := none })
  | n =>
    match autoLanes (s.warp a) n with
    | [] => s
    | ls =>
      match replayRec s a n ls with
      | none => askRec a n ls s
      | some (s1, _) => settle (tidyRecs s1 a) a

/-- A resolution (R445), where `act` says what Usxon does with each kind. -/
def resolve (s : State) (a rec_ : Nat) (act : Kind → Auto) : State :=
  match faultAt s a rec_ with
  | none => retryAt s a rec_
  | some (k, ctx, ia) =>
    match act k with
    | .decline => declineAt s a rec_ k
    | .map p => retryAt (writePtes s ctx p) a rec_
    | .page => askPage s ctx (ia / 4096)
    | .host => { s with log := .host k ctx ia :: s.log }
    | .follow => retryAt s a rec_

/-- AUTO_RESOLUTION (R445, R444, R57, R240, R255, R285). -/
def execAutoResolution (a rec_ : Nat) (ans : FixAnswer) (s : State) : Out := .next (resolve s a rec_ (fun k => autoOf k ans))

/-- HOST_FAULT_ANSWER (R445): the host driver has changed the page, or tells Usxon to decline. -/
def execHostFaultAnswer (a rec_ : Nat) (ans : FixAnswer) (s : State) : Out :=
  if (faultAt s a rec_).any (fun x => autoOf x.1 ans == .host) then
    .next (resolve s a rec_ (fun _ => match ans with | .fix p => .map p | .decline => .decline))
  else .next s

/-! ### FFIX.MAP -/

/-- The record of an FFIX.MAP that waits for Usxon, with its active lanes. -/
def mapWait (w : Warp) (g : Group) : Option (Nat × FaultRec × LMask × Args) :=
  match g.wait, g.cur with
  | some (.usxon act x), some f =>
    match decodeWord f.word with
    | .ok (.ffixMap _ _ n) => (w.frAt n.toNat).map (fun r => (n.toNat, r, act &&& r.txn.mask, x))
    | _ => none
  | _, _ => none

/-- Host pages that the host has denied to the record's lanes (R480). -/
def hostPages (r : FaultRec) (m : LMask) : List Nat :=
  ((lanesOf m).flatMap (fun l => ((r.txn.of l).filter (fun a => a.xl == .fault .hostPage 0)).map (fun a => a.key / 4096))).eraseDups

/-- Lanes of an FFIX.MAP that the host has declined. -/
def Args.declined (x : Args) : LMask := BitVec.ofNat 32 x.b.toNat

/-- An FFIX.MAP goes on, without the lanes of a mask, whose pages were declined. -/
def mapGoes (s : State) (wid grp : Nat) (no : LMask) : State :=
  wakeGroup wid (s.modWarp wid (fun w => w.modGroup grp (fun g =>
    { g with wait := match g.wait with | some (.usxon act x) => some (.issued .translation act { x with b := BitVec.ofNat 64 no.toNat }) | y => y }))) grp

/-- USXON_MAPPING_ANSWER (R267, R480): Usxon asks the host for the pages that it has denied, and the host's answers decide for a
HOST-PAGE record; for another, Usxon maps the pages or declines. -/
def execUsxonMappingAnswer (wid grp : Nat) (ans : FixAnswer) (s : State) : Out :=
  let w := s.warp wid
  let ctx := (s.block w.block).ctx
  match (w.group? grp).bind (mapWait w) with
  | none => .next s
  | some (_, r, m, x) =>
    let pages := hostPages r (m &&& ~~~x.declined)
    if pages ≠ [] then .next (pages.foldl (fun s p => askPage s ctx p) s)
    else if r.kind = .hostPage then .next (mapGoes s wid grp x.declined)
    else
      match ans with
      | .decline => .next (mapGoes s wid grp m)
      | .fix p => .next (mapGoes (writePtes s ctx p) wid grp x.declined)

/-- A page request fails for an FFIX.MAP that waits for it (R480): its lanes of that page are declined, and their denials stand. -/
def declineMap (ctx page : Nat) (s : State) (x : Nat × Nat) : State :=
  let w := s.warp x.1
  match (w.group? x.2).bind (mapWait w) with
  | none => s
  | some (_, r, m, args) =>
    let on := maskOf (fun l => hasLane m l && (r.txn.of l).any (fun a => a.xl == .fault .hostPage 0 && a.key / 4096 == page))
    if (s.block w.block).ctx ≠ ctx || on = 0 then s
    else
      s.modWarp x.1 (fun w => w.modGroup x.2 (fun g =>
        { g with wait := match g.wait with | some (.usxon act _) => some (.usxon act { args with b := BitVec.ofNat 64 (args.declined ||| on).toNat }) | y => y }))

/-- An FFIX.MAP of a HOST-PAGE record goes on once no page of its lanes is outstanding any more. -/
def answeredMap (s : State) (x : Nat × Nat) : State :=
  let w := s.warp x.1
  match (w.group? x.2).bind (mapWait w) with
  | none => s
  | some (_, r, m, args) => if r.kind = .hostPage && hostPages r (m &&& ~~~args.declined) = [] then mapGoes s x.1 x.2 args.declined else s

/-! ### ATS and PRI -/

/-- An access that waits for a host page finds no access granted (R453). -/
def Acc.deny (page : Nat) (a : Acc) : Acc :=
  if a.xl == .asked && a.sp == .global && a.key / 4096 == page then { a with xl := .fault .hostPage 0 } else a

/-- The lanes of a warp that wait for a page, and its fetches, are told that the host grants no access (R453, R56). -/
def denyWarp (page : Nat) (s : State) (wid : Nat) : State :=
  let txn := fun (t : Txn) => { t with accs := t.accs.map (Acc.deny page) }
  let park := fun (v : Warp) (g : Group) =>
    if !g.unfetched || !blockRuns s (s.warp wid) || g.after ≠ [] then v
    else match fetchRun s (s.warp wid) g.pos.start with | .asked ia x => if ia / 4096 = page then v.parkFetch g x else v | _ => v
  (s.modRecs wid (fun r => { r with txn := txn r.txn })).modWarp wid (fun w => w.groups.foldl park { w with txns := w.txns.map txn })

/-- The engine of a core, where its MXRUN's step waits for a page, faults (R453, R240). -/
def denyEngine (ctx page : Nat) (s : State) (core : Nat) : State :=
  match headOp s core .mxrun with
  | none => s
  | some e =>
    match e.record, e.fault with
    | some w, none =>
      match mxRows s core e w.toNat with
      | .asked va ia => if (s.block e.block).ctx = ctx && ia / 4096 = page then faultStep s core e va .hostPage else s
      | _ => s
    | _, _ => s

/-- What a running request of a copy engine comes to next: each thing that it may do now. -/
def jobTries (s : State) (j : Job) (q : Req) : List (Except ERef State) :=
  if reqKind q.record.toNat ≠ 3 then [copyStep s j q]
  else
    (if q.entry < reqNent q.record.toNat then [entryStep s j q] else [])
      ++ (List.range q.claims.length).map (fun i => claimGo s j q i (q.claims.getD i default))

/-- A request of a copy engine that waits for a page faults (R453, R255). -/
def denyJob (die ctx page : Nat) (s : State) (j : Job) : State :=
  match (s.block j.block).req? j.req with
  | none => s
  | some q =>
    let va := (jobTries s j q).findSome? (fun x => match x with | .error (.asked va ia) => if ia / 4096 = page then some va else none | _ => none)
    match va with
    | some va => if dieOf (s.block j.block).core = die && (s.block j.block).ctx = ctx && q.fault.isNone then jobFaults s j va .hostPage else s
    | none => s

/-- A prefetch brings no line of a denied page (R206). -/
def denyPref (s : State) (die ctx page : Nat) (p : Pref) : Pref :=
  if p.die ≠ die || p.ctx ≠ ctx then p
  else
    match prefAsks s p (p.lines p.left) with
    | some (va, ia) => if ia / 4096 = page then { p with skip := (va / 4096 + 1) * 4096 } else p
    | none => p

/-- A die's request for a page is answered with no access (R453, R478): everything that waits for it faults HOST-PAGE. -/
def denyPage (s : State) (die ctx page : Nat) : State :=
  let mine := (s.warps.filter (fun w => dieOf w.core == die && (s.block w.block).ctx == ctx)).map (·.id)
  let s1 := mine.foldl (denyWarp page) s
  let s2 := (dieCores die).foldl (denyEngine ctx page) s1
  let s3 := (s2.engines.flatMap (·.take 4)).foldl (denyJob die ctx page) s2
  { s3 with cores := s3.cores.map (fun k => { k with prefs := k.prefs.map (denyPref s3 die ctx page) }) }

/-- ATS_REPLY (R453, R478): the host answers an outstanding translation request of a die. Die 4 is the hub, whose `ctx` names the
interface times 2^21 plus the PASID, or plus 2^20 where the request has none (R488, R493). -/
def execAtsReply (die ctx page : Nat) (ans : AtsReply) (s : State) : Out :=
  if die = 4 then
    let x := (ctx / 2 ^ 21, if ctx % 2 ^ 21 < 2 ^ 20 then some (ctx % 2 ^ 21) else none, page)
    if !s.hubAsks.contains x then .next s
    else
      let e : HubEnt := match ans with | .denied => ⟨x.1, x.2.1, page, 0, false, false⟩ | .grant f r w => ⟨x.1, x.2.1, page, f, r, w⟩
      .next { s with hubAsks := s.hubAsks.filter (· != x), hubAts := e :: s.hubAts }
  else if !(s.die die).asks.contains (ctx, page) then .next s
  else
    let s1 := s.modDie die (fun d => { d with asks := d.asks.filter (· != (ctx, page)) })
    match ans with
    | .grant f r w => if r || w then .next (s1.modDie die (fun d => { d with ats := { ctx := ctx, page := page, frame := f, r := r, w := w } :: d.ats })) else .next (denyPage s1 die ctx page).bump
    | .denied => .next (denyPage s1 die ctx page).bump

/-- Everything that may wait for a page: resolutions by their operands. -/
def waiters (s : State) : List (Nat × Nat) :=
  (List.range s.warps.length).flatMap (fun i => (List.range 5).map (fun n => (i, n)))
    ++ (List.range 64).map (fun c => (c, 5)) ++ (List.range 128).map (fun e => (e, 6))
    ++ (List.range s.launches.length).map (fun l => (l, 7)) ++ (List.range 1024).map (fun q => (2 ^ 32 + q, 7))

/-- Every FFIX.MAP that waits, as its warp and subgroup. -/
def mapWaits (s : State) : List (Nat × Nat) := s.warps.flatMap (fun w => w.groups.map (fun g => (w.id, g.gid)))

/-- A resolution is about a host page of a context, of those that `hit` names. -/
def onPage (s : State) (ctx : Nat) (hit : Nat → Bool) (x : Nat × Nat) : Bool :=
  (faultAt s x.1 x.2).any (fun f => f.1 == .hostPage && f.2.1 == ctx && hit (f.2.2 / 4096))

/-- The denials of pages are forgotten (R480): what holds one translates again. -/
def grantPages (s : State) (ctx : Nat) (hit : Nat → Bool) : State :=
  let s1 := ((waiters s).filter (fun x => 4 ≤ x.2 && onPage s ctx hit x)).foldl (fun s x => retryAt s x.1 x.2) s
  ((s1.warps.filter (fun w => (s1.block w.block).ctx == ctx)).map (·.id)).foldl (fun s i => reaskWarp s i (BitVec.allOnes 32) hit) s1

/-- PRI_RESPONSE (R480, R495): every FFIX.MAP and AUTO resolution that waits on the page gets the one answer. -/
def execPriResponse (ctx page : Nat) (success : Bool) (s : State) : Out :=
  if !s.pri.contains (ctx, page) then .next s
  else
    let s1 := { s with pri := s.pri.filter (· != (ctx, page)) }
    let hit := (waiters s1).filter (onPage s1 ctx (· == page))
    let s2 := if success then grantPages s1 ctx (· == page)
      else (mapWaits s1).foldl (declineMap ctx page) (hit.reverse.foldl (fun s x => declineAt s x.1 x.2 .hostPage) s1)
    .next ((mapWaits s2).foldl answeredMap s2)

/-! ### Invalidations, floors and migration -/

/-- INVALIDATION (R454, R455). -/
def execInvalidation (ctx lo hi : Nat) (s : State) : Out := .next (invalidate s ctx lo hi)

/-- An access that an acknowledgement waits for is still under way. -/
def underWay (s : State) (x : Nat × Nat × Nat) : Bool :=
  ((s.warp x.1).txn? x.2.1).any (fun t => t.accs.any (fun a => a.name == x.2.2 && a.st != .done && a.st != .performed))

/-- INVALIDATION_ACK (R454, R478): a die acknowledges an invalidation once what used the removed translations there is done; with the
last die it completes. -/
def execInvalidationAck (die idx : Nat) (s : State) : Out :=
  match s.invs[idx]? with
  | none => .next s
  | some i =>
    if !i.left.contains die || (i.waits.getD die []).any (underWay s) then .next s
    else
      let left := i.left.filter (· != die)
      .next { s with invs := if left = [] then s.invs.eraseIdx idx else s.invs.set idx { i with left := left } }

/-- A leaf's entry is rewritten, and its page invalidated (R398, R456, R497). -/
def setLeaf (s : State) (ctx ia : Nat) (f : Leaf) (e : Nat) : State :=
  let lo := ia / 2 ^ f.bits * 2 ^ f.bits
  invalidate { s with mem := memWriteN s.mem f.at_ 8 e } ctx lo (lo + 2 ^ f.bits)

/-- A field of an entry replaced. -/
def setBits (e hi lo v : Nat) : Nat := e - nbits e hi lo * 2 ^ lo + v % 2 ^ (hi + 1 - lo) * 2 ^ lo

/-- The first step of a change of a page: MIG is set in its leaf, and the page invalidated (R456, R497). -/
def markMig (s : State) (ctx ia : Nat) (f : Leaf) : State := setLeaf s ctx ia f (setBits f.pte 9 9 1)

/-- A leaf has MIG set (R451). -/
def Leaf.mig (f : Leaf) : Bool := nbits f.pte 9 9 == 1

/-- DOMAIN_FLOOR_CHANGE (R398): the new floor governs translations made after the invalidation. -/
def execDomainFloorChange (ctx ia : Nat) (floor : Dom) (s : State) : Out :=
  let c := s.ctx ctx
  if inHost c ia then .next s
  else
    match walk s c.root ia with
    | .leaf f => .next (setLeaf s ctx ia f (setBits f.pte 6 4 (domCode floor)))
    | _ => .next s

/-- A migration that has begun to copy ends: its copy leaves its engine. -/
def endMig (s : State) (ctx lo : Nat) : State :=
  { s with migs := s.migs.filter (fun m => m.ctx != ctx || m.lo != lo) }.dropJobs (fun j => j.page == some (ctx, lo))

/-- PAGE_MIGRATION (R456): MIG is set in the leaf; once the requests that use the page's translation are done and every die has
acknowledged, a hub copy engine copies its bytes (R425), and then its leaf names the new frame. When the copy fails, or has read
poison, the source stays, and the abort is reported. -/
def execPageMigration (ctx ia dst : Nat) (ok : Bool) (s : State) : Out :=
  let c := s.ctx ctx
  if inHost c ia then .next s
  else
    match walk s c.root ia with
    | .leaf f =>
      let n := 2 ^ f.bits
      let lo := ia / n * n
      let src := pteAddr f.pte
      let apart := dst + n ≤ src || src + n ≤ dst
      let mig := s.migs.find? (fun m => m.ctx == ctx && m.lo == lo)
      if nbits f.pte 11 11 = 1 || dst % n ≠ 0 || Config.deviceBytes < dst + n || !apart then .next s
      else if !f.mig then .next (markMig s ctx ia f)
      else if !ok || mig.any (·.bad) then
        let s1 := setLeaf (endMig s ctx lo) ctx ia f (setBits f.pte 9 9 0)
        .next { s1 with log := .aborted ctx lo :: s1.log }
      else
        match mig with
        | none =>
          match if quietRange s ctx lo (lo + n) then leastQueued s (List.range 16) else none with
          | none => .next s
          | some e =>
            let job : Job := { core := 64, block := 2 ^ 64, req := 0, page := some (ctx, lo) }
            let m : Mig := ⟨ctx, lo, f.bits, src, dst, 0, false⟩
            .next ({ s with migs := s.migs ++ [m] }.modJobs e (fun js => js ++ [job]))
        | some m =>
          if m.pos < n then .next s
          else .next (setLeaf (endMig s ctx lo) ctx ia f (setBits (setBits f.pte 9 9 0) 55 12 (m.dst / 4096)))
    | _ => .next s

end Sys2Proof.Machine
end

