-- ==== Sys2Proof/Machine/HostEvents.lean ====
section
/-! DEFINITION. What the host writes: queue registers (R490, R491), the mailbox (R504), and the commands that it
carries (R505) but for those that copy memory. -/

namespace Sys2Proof.Machine

/-! ### Queue registers -/

/-- The interface takes writes: the module is up and no function-level reset is under way (R489, R533). -/
def hears (s : State) (i : Nat) : Bool := decide (i < 64) && s.boot == .up && !(s.iface i).flr

/-- SQ_DOORBELL (R491): SQTAIL := t when 0 ≤ t − SQHEAD ≤ 2^SQLOG as a signed 32-bit difference, else ERR. -/
def execSqDoorbell (i q : Nat) (t : W32) (s : State) : Out :=
  let b := (s.iface i).q q
  let d := (t - b.sqHead).toInt
  if !hears s i || 16 ≤ q then .next s
  else if 0 ≤ d ∧ d ≤ 2 ^ b.sqLog.toNat then .next (s.modQ i q (fun b => { b with sqTail := t }))
  else .next (s.queueErr i q 1)

/-- CQHEAD_WRITE (R490, R493). -/
def execCqheadWrite (i q : Nat) (t : W32) (s : State) : Out :=
  if !hears s i || 16 ≤ q then .next s else .next (s.modQ i q (fun b => { b with cqHead := t }))

/-- The ring settings that EN checks (R491). -/
def ringsOk (b : QBlk) : Bool :=
  decide (4 ≤ b.sqLog.toNat) && decide (4 ≤ b.cqLog.toNat) && b.sqBase.toNat % 4096 == 0 && b.cqBase.toNat % 4096 == 0

/-- QUEUE_ENABLE (R491). -/
def execQueueEnable (i q : Nat) (s : State) : Out :=
  let b := (s.iface i).q q
  if !hears s i || 16 ≤ q || b.en then .next s
  else
    let s1 := s.modQ i q (fun b => { b with en := true })
    .next (if ringsOk b then s1 else s1.queueErr i q 4)

/-- The 512 bits of a queue block (R490). -/
def QBlk.bits (b : QBlk) : Nat :=
  b.sqBase.toNat + b.cqBase.toNat * 2 ^ 64 + b.pasid.toNat * 2 ^ 128 + b.sqLog.toNat * 2 ^ 148 + b.cqLog.toNat * 2 ^ 152
    + b.en.toNat * 2 ^ 156 + b.err.toNat * 2 ^ 157 + b.sqTail.toNat * 2 ^ 160 + b.sqHead.toNat * 2 ^ 192 + b.cqHead.toNat * 2 ^ 224
    + b.cqTail.toNat * 2 ^ 256 + b.weight % 256 * 2 ^ 288 + b.clsLim % 4 * 2 ^ 296 + b.errCode.toNat * 2 ^ 298

/-- The 512 bits of the mailbox (R504). -/
def Iface.mailBits (x : Iface) : Nat :=
  (x.args.getD 0 0).toNat + (x.args.getD 1 0).toNat * 2 ^ 64 + (x.args.getD 2 0).toNat * 2 ^ 128 + x.reply.toNat * 2 ^ 192
    + x.cmd.toNat * 2 ^ 256 + x.status % 2 ^ 16 * 2 ^ 272 + x.busy.toNat * 2 ^ 289

/-- A byte of an interface's BAR0 as the host reads it (R487): the mailbox at 0, queue block q at 0x1000 + 64 q, and 0 elsewhere. -/
def bar0Byte (s : State) (i off : Nat) : Nat :=
  let x := s.iface i
  let n := off / 64
  (if n = 0 then x.mailBits else if 64 ≤ n ∧ n < 80 then (x.q (n - 64)).bits else 0) / 256 ^ (off % 64) % 256

/-- A configuration field of a queue block takes a value (R490). -/
def QBlk.put (b : QBlk) (f : QField) (v : W64) : QBlk :=
  match f with
  | .sqBase => { b with sqBase := v }
  | .cqBase => { b with cqBase := v }
  | .pasid => { b with pasid := v.setWidth 20 }
  | .sqLog => { b with sqLog := v.setWidth 4 }
  | .cqLog => { b with cqLog := v.setWidth 4 }
  | .disable => { b with en := false, stuck := none }
  | .vector _ | .other _ => b

/-- QUEUE_REGISTER_WRITE (R491): dropped while EN is 1, but for EN := 0; reprogramming clears ERR. A write to the MSI-X table enables or
disables a vector, and one to another offset of BAR0 is ignored (R487). -/
def execQueueRegisterWrite (i q : Nat) (f : QField) (v : W64) (s : State) : Out :=
  let b := (s.iface i).q q
  if !hears s i || 16 ≤ q then .next s
  else
    match f with
    | .other _ => .next s
    | .vector n => .next (s.modIface i (fun x => { x with vecs := if v.getLsbD 0 then x.vecs ||| BitVec.ofNat 48 (2 ^ n) else x.vecs &&& ~~~BitVec.ofNat 48 (2 ^ n) }))
    | .disable => .next (s.modQ i q (fun b => b.put .disable v))
    | f => if b.en then .next s else .next (s.modQ i q (fun b => { (b.put f v) with err := false, errCode := 0 }))

/-! ### The mailbox -/

/-- The command codes of R505. -/
def mailCodes : List Nat := [0x01, 0x02, 0x03, 0x04, 0x05, 0x06, 0x07, 0x08, 0x40, 0x41, 0x42, 0x43]

/-- A locked or running interface (R502). -/
def tdiFixed (s : State) (i : Nat) : Bool := (s.iface i).tdisp == .locked || (s.iface i).tdisp == .run

/-- The status of a command that does not run (R505, R502): unknown, or forbidden. -/
def cmdStatus (s : State) (i code : Nat) : Option Nat :=
  if !mailCodes.contains code then some 1
  else if 0x40 ≤ code && i ≠ 0 then some 3
  else if tdiFixed s i && [0x03, 0x05, 0x06, 0x07].contains code then some 3
  else none

/-- A command has had its effect: STATUS and REPLY. A REPLY that the manual gives no value is free (log 3). -/
def State.mailDone (s : State) (i status : Nat) (reply : Option Nat) : State :=
  let r := (reply.map (BitVec.ofNat 64)).getD (Config.unknown64 (s.ctr * 256))
  (s.modIface i (fun x => { x with status := status, reply := r, ran := true })).bump

/-- MAILBOX_GO (R504, R505): starts the command in CMD with its arguments. -/
def execMailboxGo (i : Nat) (cmd : BitVec 16) (a0 a1 a2 : W64) (s : State) : Out :=
  if !hears s i || (s.iface i).busy then .next s
  else
    let s1 := s.modIface i (fun x => { x with busy := true, ran := false, cmd := cmd, args := [a0, a1, a2] })
    .next (match cmdStatus s i cmd.toNat with | some k => s1.mailDone i k none | none => s1)

/-- MAILBOX_COMMAND_COMPLETE (R504): BUSY clears and vector 16 is raised. -/
def execMailboxCommandComplete (i : Nat) (s : State) : Out :=
  if (s.iface i).busy && (s.iface i).ran then
    .next ((s.modIface i (fun x => { x with busy := false, ran := false })).raiseIrq i 16)
  else .next s

/-- A command runs: its code is in CMD and it has not had its effect; a function-level reset ends it (R489). -/
def runCmd (s : State) (i code : Nat) (go : Nat → Nat → Nat → Out) : Out :=
  let x := s.iface i
  if hears s i && x.busy && !x.ran && x.cmd.toNat == code then
    go (x.args.getD 0 0).toNat (x.args.getD 1 0).toNat (x.args.getD 2 0).toNat
  else .next s

/-- Context x exists and belongs to interface i (R488). -/
def ownCtx (s : State) (i x : Nat) : Bool :=
  let c := s.ctx x
  x != 0 && decide (x ≤ s.ctxs.length) && c.alive && !c.dying && c.iface == i

/-! ### Contexts -/

/-- IA ranges in use: (start, length). -/
def usedSpans (s : State) : List (Nat × Nat) :=
  (s.ctxs.filter (·.alive)).flatMap (fun c => (c.devBase, c.devLen) :: (if c.hostLen = 0 then [] else [(c.hostBase, c.hostLen)]))

/-- A span lies below 2^56 and shares no IA with those given (R449). -/
def spanFree (us : List (Nat × Nat)) (base len : Nat) : Bool :=
  decide (base + len ≤ 2 ^ 56) && us.all (fun u => decide (base + len ≤ u.1) || decide (u.1 + u.2 ≤ base))

/-- Some span of a length is free, from a multiple of 16 MiB on. -/
def anySpan (us : List (Nat × Nat)) (len : Nat) : Bool :=
  (0 :: us.map (fun u => (u.1 + u.2 + 2 ^ 24 - 1) / 2 ^ 24 * 2 ^ 24)).any (fun a => spanFree us a len)

/-- The lowest free key slot of 512 (R499). -/
def freeKey (s : State) : Option Nat := (List.range 512).find? (fun k => !s.keySlots.contains k)

/-- A new context (R447, R449, R495, R499): no window, no session, no stream, accounts zero (R339). Usxon sets the
counter enable mask to a value that the manual does not give (R342, log 3). -/
def newCtx (s : State) (i ways root devBase devLen hostBase hostLen : Nat) (conf : Bool) (pasid key : Option Nat) : Ctx :=
  { id := s.ctxs.length + 1, iface := i, alive := true, dying := false, conf := conf, ways := ways, pasid := pasid, root := root,
    devBase := devBase, devLen := devLen, hostBase := hostBase, hostLen := hostLen, win := List.replicate 8 0, keySlot := key,
    dbg := none, trace := none, series := none, cntMask := (Config.unknown64 (s.ctr * 256)).setWidth 48, acct := [], cnt := [],
    tick := 0, ticked := 0, hregion := false }

/-- CTX_CREATE (R505, R449, R361, R495, R499). The places of the page-table root and of the IA ranges are Usxon's
choice; the root starts empty. -/
def execCtxCreate (i root devBase devLen hostBase : Nat) (s : State) : Out :=
  runCmd s i 0x01 fun a0 a1 a2 =>
    let conf := nbits a0 0 0 == 1
    let ways := nbits a0 4 1
    let host := a1 != 0xFFFFFFFF
    let hostLen := if host then (a2 + 65535) / 65536 * 65536 else 0
    let us := usedSpans s
    let full := 8 < ((s.ctxs.filter (·.alive)).map (·.ways)).sum + ways
    if 32 ≤ a0 || 8 < ways || (host && (2 ^ 20 ≤ a1 || a2 < 65536 || 2 ^ 52 < a2)) then .next (s.mailDone i 2 none)
    else if (conf && (freeKey s).isNone) || full || (host && !anySpan us hostLen) then .next (s.mailDone i 4 none)
    else
      let placed := root % 65536 == 0 && decide (root + 65536 ≤ Config.deviceBytes) && devBase % 65536 == 0 && devLen % 65536 == 0
        && devLen != 0 && spanFree us devBase devLen
        && (!host || (hostBase % 2 ^ 24 == 0 && spanFree ((devBase, devLen) :: us) hostBase hostLen))
      if !placed then .next s
      else
        let key := if conf then freeKey s else none
        let c := newCtx s i ways root devBase devLen (if host then hostBase else 0) hostLen conf (if host then some a1 else none) key
        let s1 := { s with
          ctxs := s.ctxs ++ [c]
          keySlots := s.keySlots ++ key.toList
          mem := s.mem.filter (fun p => p.1 < root || root + 65536 ≤ p.1)
          seals := cclear s.seals (root / 64) ((root + 65536) / 64) }
        .next ((shrinkL2 s1).mailDone i 0 (some (c.id + (if host then nbits hostBase 55 24 * 2 ^ 32 else 0))))

/-- A context's destruction begins: its launches are aborted (R501 step 1). -/
def startDestroy (s : State) (f : Ctx → Bool) : State :=
  let hit := fun (c : Ctx) => c.alive && f c
  let s1 := { s with ctxs := s.ctxs.map (fun c => if hit c then { c with dying := true } else c) }
  abortLaunches s1 (fun l => l.ctx != 0 && hit (s.ctx l.ctx))

/-- CTX_DESTROY (R501): the command ends once the context is gone. The physical function may destroy any interface's (R502). -/
def execCtxDestroy (i : Nat) (s : State) : Out :=
  runCmd s i 0x02 fun a0 _ _ =>
    let c := s.ctx a0
    if a0 = 0 || s.ctxs.length < a0 || (c.iface ≠ i && i ≠ 0) || !c.alive then .next (s.mailDone i 2 none)
    else
      let s1 := reap (if c.dying then s else startDestroy s (fun x => x.id == a0))
      .next (if (s1.ctx a0).alive then s1 else s1.mailDone i 0 none)

/-- IAs from lo to hi lie in the context's ranges (R449). -/
def inRanges (c : Ctx) (lo hi : Nat) : Bool :=
  let has := fun (b n a : Nat) => n != 0 && decide (b ≤ a ∧ a < b + n)
  let dev := has c.devBase c.devLen
  let host := has c.hostBase c.hostLen
  let join := c.devBase + c.devLen == c.hostBase || c.hostBase + c.hostLen == c.devBase
  (dev lo && dev hi) || (host lo && host hi) || (join && (dev lo || host lo) && (dev hi || host hi))

/-- The IAs that a window maps, from the first up to, not including, the last. -/
def windowSpan (w : BitVec 128) : Option (Nat × Nat) :=
  let x := w.toNat
  if nbits x 126 126 = 0 || nbits x 81 41 < nbits x 40 0 then none
  else some (nbits x 121 82 * 65536, (nbits x 121 82 + (nbits x 81 41 - nbits x 40 0) + 1) * 65536)

/-- WINDOW_SET (R505, R447 to R449): once the context holds no core, the window is written and what it mapped and
maps is invalidated; until then its cores are pre-empted. RESTORE brings them back. -/
def execWindowSet (i : Nat) (s : State) : Out :=
  runCmd s i 0x03 fun a0 a1 a2 =>
    let x := nbits a0 31 0
    let n := nbits a0 34 32
    let w := BitVec.ofNat 128 (a1 + a2 * 2 ^ 64)
    let c := s.ctx x
    let fits := match windowSpan w with | some (lo, hi) => decide (hi ≤ 2 ^ 56) && inRanges c lo (hi - 1) | none => true
    if 2 ^ 35 ≤ a0 || !ownCtx s i x || w.getLsbD 127 || !fits then .next (s.mailDone i 2 none)
    else
      let held := (List.range 64).filter (fun k => (s.core k).ctx == some x)
      if held ≠ [] then .next (held.foldl askStop s)
      else
        let s1 := s.modCtx x (fun c => { c with win := c.win.set n w })
        let drop := fun (s : State) (w : BitVec 128) => match windowSpan w with | some (lo, hi) => invalidate s x lo hi | none => s
        .next ((drop (drop s1 (c.win.getD n 0)) w).mailDone i 0 none)

/-- QUEUE_BIND (R505, R495). -/
def execQueueBind (i : Nat) (s : State) : Out :=
  runCmd s i 0x04 fun a0 a1 _ =>
    if 16 ≤ a0 || !ownCtx s i a1 then .next (s.mailDone i 2 none)
    else if ((s.iface i).q a0).en then .next (s.mailDone i 3 none)
    else .next ((s.modQ i a0 (fun b => { b with bound := some a1 })).mailDone i 0 none)

/-! ### Bias -/

/-- No access uses the translation of a leaf's page. -/
def leafQuiet (s : State) (ctx ia : Nat) (f : Leaf) : Bool :=
  let lo := ia / 2 ^ f.bits * 2 ^ f.bits
  quietRange s ctx lo (lo + 2 ^ f.bits)

/-- R497 on the pages of leaves: MIG is set in all of them; once no access uses their translations, BIAS is written with MIG 0
(true). -/
def biasLeaves (s : State) (ctx bias : Nat) (fs : List (Nat × Leaf)) : State × Bool :=
  let due := fs.filter (fun x => !x.2.mig)
  if due ≠ [] then (due.foldl (fun s x => markMig s ctx x.1 x.2) s, false)
  else if fs.all (fun x => leafQuiet s ctx x.1 x.2) then
    (fs.foldl (fun s x => setLeaf s ctx x.1 x.2 (setBits (setBits x.2.pte 9 9 0) 8 7 bias)) s, true)
  else (s, false)

/-- The leaves of the device pages from va up to hi; 0 where a walk must wait, 2 for an address that names no device page. -/
def biasPages (s : State) (ctx : Nat) : Nat → Nat → Nat → Except Nat (List (Nat × Leaf))
  | 0, _, _ => .ok []
  | k + 1, va, hi =>
    let c := s.ctx ctx
    if hi ≤ va then .ok []
    else
      match findWindow c.win va with
      | none => .error 2
      | some i =>
        let w := c.win.getD i 0
        let ia := windowIa w va
        if inHost c ia then .error 2
        else
          match walk s c.root ia with
          | .leaf f =>
            let step := min (2 ^ f.bits - ia % 2 ^ f.bits) ((nbits w.toNat 81 41 + 1) * 65536 - va)
            match biasPages s ctx k (va + step) hi with
            | .ok r => .ok ((ia, f) :: r)
            | e => e
          | .wait | .away _ => .error 0
          | .fault _ _ => biasPages s ctx k (va + 65536) hi

/-- The context of an interface whose windows hold an address: the lowest-numbered (the command names none). -/
def ctxOfVa (s : State) (i va : Nat) : Option Nat :=
  (s.ctxs.find? (fun c => ownCtx s i c.id && (findWindow c.win va).isSome)).map (·.id)

/-- BIAS_SET (R505, R497). -/
def execBiasSet (i : Nat) (s : State) : Out :=
  runCmd s i 0x05 fun a0 a1 a2 =>
    if a0 % 65536 ≠ 0 || a1 % 65536 ≠ 0 || 2 < a2 || !canonical a0 then .next (s.mailDone i 2 none)
    else
      match ctxOfVa s i a0 with
      | none => .next (s.mailDone i 2 none)
      | some x =>
        match biasPages s x (a1 / 65536) a0 (a0 + a1) with
        | .ok fs =>
          let r := biasLeaves s x a2 fs
          .next (if r.2 then r.1.mailDone i 0 (some fs.length) else r.1)
        | .error 2 => .next (s.mailDone i 2 none)
        | .error _ => .next s

/-! ### Debug and trace -/

/-- The PASID that a host address of an interface's mailbox command about a context is translated under: the context's own, if it has
one, for its interface's commands, and none for the physical function's about others (R488, log 53). -/
def mailPasid (i : Nat) (c : Ctx) : Option Nat := if c.iface = i then c.pasid else none

/-- DEBUG_ATTACH (R505, R262, R459): the enable bitmap is read as the session attaches (log 18). -/
def execDebugAttach (i : Nat) (s : State) : Out :=
  runCmd s i 0x06 fun a0 a1 _ =>
    if !ownCtx s i a0 then .next (s.mailDone i 2 none)
    else if a1 = 0 then .next ((s.modCtx a0 (fun c => { c with dbg := none })).mailDone i 0 none)
    else
      match hostRead s i (mailPasid i (s.ctx a0)) a1 8192 with
      | .ok m => .next ((s.modCtx a0 (fun c => { c with dbg := some m })).mailDone i 0 none)
      | .error e => .next (if e.waits then s.hubMeet e else (s.hubMeet e).mailDone i 2 none)

/-- TRACE_SET (R505, R345, R346, R348): a zero address disables its stream. The first tick's number is free
(log 3). -/
def execTraceSet (i : Nat) (s : State) : Out :=
  runCmd s i 0x07 fun a0 a1 a2 =>
    let x := nbits a0 31 0
    let k := nbits a0 39 32
    let m := nbits a0 44 40
    let c := s.ctx x
    let fine := fun (va : Nat) => va = 0 || (decide (12 ≤ m ∧ m ≤ 30) && canonical va && (findWindow c.win va).any (fun n => !inHost c (windowIa (c.win.getD n 0) va)))
    if 2 ^ 45 ≤ a0 || !ownCtx s i x || !fine a1 || !fine a2 || (a1 ≠ 0 && (k < 12 || 24 < k)) then .next (s.mailDone i 2 none)
    else
      let ring := fun (va : Nat) => if va = 0 then none else some (Ring.mk va m k)
      let first := (Config.unknown64 (s.ctr * 256 + 1)).toNat % 65536
      .next ((s.modCtx x (fun c => { c with series := ring a1, trace := ring a2, tick := if c.series.isSome then c.tick else first })).mailDone i 0 none)

/-! ### Budgets -/

/-- VF_BUDGET (R505, R498). The physical function keeps both grants. -/
def execVfBudget (i : Nat) (s : State) : Out :=
  runCmd s i 0x40 fun a0 a1 a2 =>
    let cores := nbits a1 6 0
    let power := nbits a1 27 16
    let named := a1 = cores + power * 2 ^ 16 + nbits a1 33 32 * 2 ^ 32
    if 64 ≤ a0 || 64 < cores || 3600 < power || !named || 65536 ≤ a2 then .next (s.mailDone i 2 none)
    else
      .next ((s.modIface a0 (fun x =>
        { x with cores := cores, power := power, bw := a2, grants := if a0 = 0 then 3 else BitVec.ofNat 2 (nbits a1 33 32) })).mailDone i 0 none)

/-- VF_QUEUE (R505, R498, R305). -/
def execVfQueue (i : Nat) (s : State) : Out :=
  runCmd s i 0x41 fun a0 a1 _ =>
    let x := nbits a0 31 0
    if 64 ≤ x || 2 ^ 36 ≤ a0 || 2 ^ 10 ≤ a1 then .next (s.mailDone i 2 none)
    else .next ((s.modQ x (nbits a0 35 32) (fun b => { b with weight := nbits a1 7 0, clsLim := nbits a1 9 8 })).mailDone i 0 none)

/-! ### Function-level reset -/

/-- FUNCTION_LEVEL_RESET (R489): of a VF; it ends once its launches and contexts are gone. -/
def execFunctionLevelReset (i : Nat) (s : State) : Out :=
  if i = 0 || 64 ≤ i || s.boot ≠ .up then .next s
  else
    let stop := fun (b : QBlk) => { b with en := false }
    let s1 := s.modIface i (fun x => { x with flr := true, queues := x.queues.map stop })
    let s2 := startDestroy (abortLaunches s1 (fun l => l.iface == i)) (fun c => c.iface == i)
    .next (reap s2)

end Sys2Proof.Machine
end

