-- ==== Sys2Proof/Machine/CopyEvents.lean ====
section
/-! DEFINITION. The mailbox commands that copy device state to host memory: the accounting area (R340) and the save
area (R468 to R471, R500). -/

namespace Sys2Proof.Machine

/-! ### Accounts -/

/-- The 61,440 bytes of an accounting area (R340). -/
def acctBytes (acct cnt : Cells Nat) : List Byte :=
  (List.range 4608).flatMap (fun i => leBytes 8 (cget acct 0 i)) ++ (List.range 3072).flatMap (fun i => leBytes 8 (cget cnt 0 i))

/-- A command's bytes are written at a host address of its interface; it waits for the translation, and an address that the host
does not grant is a bad argument. -/
def mailCopy (s : State) (i : Nat) (pasid : Option Nat) (a : Nat) (bytes : List Byte) (reply : Option Nat) : Out :=
  match hostWrite s i pasid a bytes with
  | .ok s1 => .next (s1.mailDone i 0 reply)
  | .error e => .next (if e.waits then s.hubMeet e else (s.hubMeet e).mailDone i 2 none)

/-- ACCT_READ (R505, R340). -/
def execAcctRead (i : Nat) (s : State) : Out :=
  runCmd s i 0x08 fun a0 a1 _ =>
    let c := s.ctx a0
    if !ownCtx s i a0 then .next (s.mailDone i 2 none)
    else mailCopy s i (mailPasid i c) a1 (acctBytes c.acct c.cnt) none

/-- ACCT_ANY (R505, R338, R340): context 0 names the idle account. The physical function's address carries no
PASID. -/
def execAcctAny (i : Nat) (s : State) : Out :=
  runCmd s i 0x43 fun a0 a1 _ =>
    let c := s.ctx a0
    if a0 = 0 then mailCopy s i none a1 (acctBytes s.idle []) none
    else if s.ctxs.length < a0 || !c.alive then .next (s.mailDone i 2 none)
    else mailCopy s i none a1 (acctBytes c.acct c.cnt) none

/-! ### The save area -/

/-- Deck slots that a save area holds by contents, ascending (R469). -/
def saveSlots (s : State) (v : Save) : List Nat :=
  let on := (v.blocks.map s.block).flatMap (fun b => (b.dh.filter (fun h => h.valid && !h.isRef)).flatMap Handle.slots)
  (List.range 64).filter on.contains

/-- Bytes of a block entry and of a warp entry (R469). -/
def blockEntry (b : Block) : Nat := 12288 + b.size + b.size / 128
def warpEntry (w : Warp) : Nat := 10240 + 128 * w.rf.footprint

/-- The offsets of entries of the given sizes from a place on. -/
def offsets (at_ : Nat) : List Nat → List Nat
  | [] => []
  | n :: r => at_ :: offsets (at_ + n) r

/-- Where the block entries and the warp entries lie, and TOTAL. -/
def saveLayout (s : State) (v : Save) : List Nat × List Nat × Nat :=
  let bs := v.blocks.map (fun b => blockEntry (s.block b))
  let ws := v.warps.map (fun w => warpEntry (s.warp w))
  let b0 := 2105344 + 131072 * (saveSlots s v).length
  (offsets b0 bs, offsets (b0 + bs.sum) ws, b0 + bs.sum + ws.sum)

/-- A list of bytes cut or filled with zeros to n. -/
def padTo (n : Nat) (l : List Byte) : List Byte := l.take n ++ List.replicate (n - l.length) 0

/-- A group in the two-byte form of the header (R468): the index of its block entry, then of its lowest warp. -/
def ownerBytes (v : Save) (o : Option Owner) : List Byte :=
  match o with
  | none => [0xFF, 0xFF]
  | some o =>
    let w := match o.hand with | some (w, _) => w | none => ((List.range 32).find? (fun i => o.warps.testBit i)).getD 0
    leBytes 1 (v.blocks.findIdx (· == o.block)) ++ leBytes 1 w

/-- The 4,096-byte header (R468, R500). The integrity tag and IV of an encrypted area are free (log 7). -/
def saveHeader (s : State) (v : Save) : List Byte :=
  let conf := (s.ctx v.ctx).conf
  let (bo, wo, total) := saveLayout s v
  let tag := (List.range 28).map (fun i => Config.cryptByte (v.draw * 2) (2240 + i))
  let map := (saveSlots s v).foldl (fun x n => x + 2 ^ n) 0
  let fifo := (List.range 64).flatMap (fun k => ownerBytes v v.fifo[k]?)
  leBytes 4 1 ++ leBytes 4 v.core ++ leBytes 8 v.ctx ++ leBytes 8 v.time ++ leBytes 8 v.clock ++ leBytes 8 total
    ++ leBytes 2 v.blocks.length ++ leBytes 2 v.warps.length ++ leBytes 4 (conf.toNat + 2 * v.owner.isSome.toNat) ++ leBytes 8 map
    ++ padTo 8 (ownerBytes v v.owner) ++ fifo ++ padTo 1024 (bo.flatMap (leBytes 8)) ++ padTo 1024 (wo.flatMap (leBytes 8))
    ++ padTo 1856 (if conf then tag ++ leBytes 8 v.counter else [])

/-- The lanes of a warp that hold a condition, as 4 bytes. -/
def laneBytes (f : Nat → Bool) : List Byte := leBytes 4 (maskOf f).toNat

/-- A byte of a field whose contents R470 and R330 name without laying them out: the field's number, which the model gives it, and
what it holds, as the state has it (DESIGN CHOICE, log 7). -/
def fieldByte (field : Nat) (holds : List Nat) (i : Nat) : Byte := Config.layoutByte (field :: holds) i

/-- What a convergence register's field holds (R470): its state, parameters and lane masks, and the vector of its MXRUN (R421). -/
def convHolds (v : Save) (b : Block) (j : Nat) : List Nat :=
  let c := b.cv.getD j default
  let masks := fun (m : Cells LMask) => (List.range 32).map (fun w => (cget m 0 w).toNat)
  let runs := v.eng.filter (fun e => e.block == b.id && e.cv == j && e.kind == .mxrun)
  [c.opened.toNat, c.busy.toNat, c.opc, c.acc, c.dh, c.rows, c.ovw.toNat, c.fmt.toNat, c.ads.toNat, c.err.toNat, c.rm, c.owner]
    ++ masks c.expected ++ masks c.signed ++ runs.map mxVector

/-- What a deck handle's field holds (R470). -/
def handleHolds (b : Block) (j : Nat) : List Nat :=
  let h := b.dh.getD j default
  [h.valid.toNat, h.fmt, h.scb.toNat, h.slot, h.count, h.isRef.toNat, h.src.toNat]

/-- What the field of a rally point, or that of CRALLY, holds (R470): the recorded count and the arrived warps. -/
def rallyHolds (b : Block) (j : Nat) : List Nat :=
  let lanes := fun (m : Cells LMask) => (List.range 32).map (fun w => (cget m 0 w).toNat)
  if j < 16 then
    let r := b.rally.getD j default
    (match r.first with | some (n, m) => [1, n, m] | none => [0, 0, 0]) ++ lanes r.lanes ++ (List.range 32).map (cget r.asks 0) ++ [r.phase]
  else [b.crArr, b.crPhase] ++ lanes b.crLanes

/-- A byte of a request slot (R470): the record, its vector, its id, and its state. -/
def slotByte (q : Req) (o : Nat) : Byte :=
  let st := match q.st with | .queued => 0 | .running => 1 | .done => 2
  if o < 64 then (leBytes 64 q.record.toNat).getD o 0
  else if o < 88 then
    if reqKind q.record.toNat = 3 then fieldByte 4 (q.entry :: q.count :: q.claims.flatMap (fun c => [c.entry, c.choice, c.expert, c.old.getD (2 ^ 32), c.pos])) (o - 64)
    else (leBytes 24 (reqVector q)).getD (o - 64) 0
  else if o < 92 then (leBytes 4 q.id.toNat).getD (o - 88) 0
  else fieldByte 5 [st, q.counted, q.moved] (o - 92)

/-- A byte of a block entry (R469, R470). -/
def blockByte (s : State) (v : Save) (b : Block) (i : Nat) : Byte :=
  let w := (v.wins.find? (fun w => w.block == b.id)).getD default
  if i < 16 then (leBytes 16 (threadName s b 0)).getD i 0
  else if i < 20 then (leBytes 4 b.size).getD (i - 16) 0
  else if i = 20 then BitVec.ofNat 8 b.variant
  else if i = 21 then (match b.vp with | .none => 0 | .opened _ => 1 | _ => 2)
  else if i = 22 then (match b.vp with | .opened n | .joinsDone n => BitVec.ofNat 8 n | _ => 0)
  else if i < 24 then 0
  else if i < 28 then
    let here := fun (k : Nat) => b.warps.any (fun x => (s.warp x).index == k && (s.warp x).live != 0
      && (lanesOf (s.warp x).live).all (fun l => match ((s.warp x).thread l).st with | .atVpoint _ _ => true | _ => false))
    (laneBytes here).getD (i - 24) 0
  else if i < 32 then 0
  else if i < 1568 then fieldByte 1 (convHolds v b ((i - 32) / 192)) ((i - 32) % 192)
  else if i < 2080 then fieldByte 2 (handleHolds b ((i - 1568) / 32)) ((i - 1568) % 32)
  else if i < 2352 then fieldByte 3 (rallyHolds b ((i - 2080) / 16)) ((i - 2080) % 16)
  else if i < 2360 then (leBytes 8 (b.reqs.filter (fun q => q.st != .done)).length).getD (i - 2352) 0
  else if i < 2368 then (leBytes 8 b.clock).getD (i - 2360) 0
  else if i < 2372 then (leBytes 4 b.nextReq.toNat).getD (i - 2368) 0
  else if i < 4096 then 0
  else if i < 10240 then
    match (b.reqs.filter (fun q => q.st != .done))[(i - 4096) / 96]? with
    | some q => slotByte q ((i - 4096) % 96)
    | none => 0
  else if i < 12288 then 0
  else if i < 12288 + b.size then
    let o := i - 12288
    cget w.bytes (Config.startByte (cget w.draws 0 (o / 1024)) (b.base + o)) o
  else
    let o := i - 12288 - b.size
    BitVec.ofNat 8 ((List.range 8).foldl (fun x k => x + (cget w.beads false (8 * o + k)).toNat * 2 ^ k) 0)

/-- What the slot state of a warp's image holds (R330): positions, predicates, scalars, latches, records and barriers. -/
def slotHolds (w : Warp) : List Nat :=
  let lane := fun (t : Thread) => [(lanePc t).toNat, t.fpstat.toNat, t.lat.x0.toNat, t.lat.x1.toNat, t.lat.x2.toNat, t.lat.x3.toNat]
  let rec_ := fun (r : Option FaultRec) => match r with | some r => [1, kindCode r.kind, r.level, r.txn.mask.toNat, r.seq] | none => [0, 0, 0, 0, 0]
  w.groups.flatMap (fun g => [g.mask.toNat, g.pos.start.toNat, g.pos.off]) ++ w.thr.flatMap lane
    ++ (List.range 48).map (fun n => (cget w.rf.q 0 n).toNat) ++ (List.range 64).map (fun n => (cget w.rf.s 0 n).toNat)
    ++ (List.range 16).map (fun n => (cget w.rf.b 0 n).toNat) ++ w.joins.flatMap (fun j => [j.armed.toNat, j.expected.toNat, j.arrived.toNat])
    ++ w.fr.flatMap rec_ ++ [w.mon.armed.toNat, w.mon.line, w.rf.fpctl.toNat, w.rf.alloc.toNat]

/-- A byte of a warp's swap image (R330): 8 KiB of slot state, then 128 bytes of each allocated register, in the order of their numbers,
lane 0 first (log 7). -/
def imageByte (w : Warp) (i : Nat) : Byte :=
  if i < 8192 then fieldByte 8 (slotHolds w) i
  else
    let r := ((List.range 256).filter w.rf.has).getD ((i - 8192) / 128) 0
    (leBytes 4 (cget w.rf.v 0 (r * 32 + (i - 8192) % 128 / 4)).toNat).getD (i % 4) 0

/-- A byte of a warp entry (R469, R470, R330). -/
def warpByte (s : State) (w : Warp) (i : Nat) : Byte :=
  let stopped := fun (l : Nat) => (w.thread l).halt
  let parked := fun (l : Nat) => hasLane w.inEvents l && (match (w.thread l).st with | .parked _ _ => true | _ => false)
  let ipc := fun (t : Thread) => match t.intr with | some x => x.pos.pc.toNat | none => 0
  let rpc := fun (t : Thread) => match t.trec with | some x => x.pc.toNat | none => 0
  if i < 16 then (leBytes 16 (threadName s (s.block w.block) (w.index * 32))).getD i 0
  else if i < 20 then (leBytes 4 w.deep.toNat).getD (i - 16) 0
  else if i < 24 then (laneBytes stopped).getD (i - 20) 0
  else if i < 28 then (laneBytes parked).getD (i - 24) 0
  else if i < 32 then (leBytes 4 w.memStopped.toNat).getD (i - 28) 0
  else if i < 36 then fieldByte 6 [w.quad, w.rf.footprint] (i - 32)
  else if i < 64 then 0
  else if i < 832 then
    let t := w.thread ((i - 64) / 24)
    let o := (i - 64) % 24
    if o < 8 then (leBytes 8 (ipc t)).getD o 0 else if o < 16 then (leBytes 8 (rpc t)).getD (o - 8) 0
    else fieldByte 7 (match t.trec with | some x => [1, kindCode x.kind, x.code.toNat] | none => [0, 0, 0]) (o - 16)
  else if i < 1024 then 0
  else if i < 1152 then (leBytes 128 w.mon.snap.toNat).getD (i - 1024) 0
  else if i < 2048 then 0
  else imageByte w (i - 2048)

/-- A byte of the regions after the header, in the clear (R469). -/
def saveClear (s : State) (v : Save) (i : Nat) : Byte :=
  let (bo, wo, _) := saveLayout s v
  let slots := saveSlots s v
  if i < 2101248 then
    let o := i - 4096
    let t := v.tiles.getD (o / 262144) .zero
    (leBytes 4 (cget t.cells 0 (o % 262144 / 4)).toNat).getD (i % 4) 0
  else if i < 2105344 then
    let o := i - 2101248
    if o % 8 = 0 && o < 64 then ((v.tiles.getD (o / 8) .zero).stat).setWidth 8 else 0
  else if i < 2105344 + 131072 * slots.length then
    let o := i - 2105344
    cget v.deck 0 ((o % 131072 / 256 * 64 + slots.getD (o / 131072) 0) * 256 + o % 256)
  else
    match (bo.zip v.blocks).find? (fun x => x.1 ≤ i && i < x.1 + blockEntry (s.block x.2)) with
    | some (o, b) => blockByte s v (s.block b) (i - o)
    | none =>
      match (wo.zip v.warps).find? (fun x => x.1 ≤ i && i < x.1 + warpEntry (s.warp x.2)) with
      | some (o, w) => warpByte s (s.warp w) (i - o)
      | none => 0

/-- The first n bytes of a save area as they stand in memory: a confidential context's are encrypted from byte
4,096 on (R471, R500). -/
def saveBytes (s : State) (v : Save) (n : Nat) : List Byte :=
  let conf := (s.ctx v.ctx).conf
  let head := saveHeader s v
  (List.range n).map (fun i =>
    if i < 4096 then head.getD i 0 else if conf then Config.cryptByte (v.draw * 2) i else saveClear s v i)

/-- SAVE_READ (R505, R468, R471, R488): as many bytes as are asked for, at most TOTAL. -/
def execSaveRead (i : Nat) (s : State) : Out :=
  runCmd s i 0x42 fun a0 a1 a2 =>
    let x := nbits a0 31 0
    let core := nbits a0 37 32
    match s.saves.find? (fun v => v.ctx == x && v.core == core) with
    | none => .next (s.mailDone i 2 none)
    | some v =>
      let total := (saveLayout s v).2.2
      if 2 ^ 38 ≤ a0 then .next (s.mailDone i 2 none)
      else mailCopy s i none a1 (saveBytes s v (min a2 total)) (some total)

end Sys2Proof.Machine
end

