-- ==== Sys2Proof/Machine/ServiceEvents.lean ====
section
/-! DEFINITION. Usxon's replies to service calls (R271, R506), device assignment and attestation (R502, R503),
and the host's own accesses (R466, R496). -/

namespace Sys2Proof.Machine

/-! ### Service calls -/

/-- Error replies (R506). -/
def svcFull : Nat := 0xFFFFFFFFFFFFFFF0
def svcBad : Nat := 0xFFFFFFFFFFFFFFF1
def svcDenied : Nat := 0xFFFFFFFFFFFFFFF2
def svcNone : Nat := 0xFFFFFFFFFFFFFFFF

/-- Service 0, INFO. -/
def svcInfoVal (c : Ctx) (a : Nat) : Nat :=
  match a with
  | 0 => Config.usxonVersion.toNat
  | 1 => c.id
  | 2 => if c.hostLen = 0 then svcDenied else c.pasid.getD svcDenied
  | 3 => c.iface
  | 4 => carveBytes c
  | 5 => c.conf.toNat
  | _ => svcBad

/-- The page at an address is resident: a device page that its leaf maps, or a host page within the first
`granted` bytes, which the host has answered for. -/
def pageThere (s : State) (c : Ctx) (a granted va : Nat) : Bool :=
  match findWindow c.win va with
  | none => false
  | some i =>
    let ia := windowIa (c.win.getD i 0) va
    if inHost c ia then decide (va < a + granted)
    else match walk s c.root ia with | .leaf _ => true | _ => false

/-- Bytes from a on that are resident, up to n (R506): the first page of 4 KiB that is not stops the count. -/
def residentBytes (s : State) (c : Ctx) (granted : Nat) : Nat → Nat → Nat → Nat
  | 0, a, va => va - a
  | n + 1, a, va =>
    if pageThere s c a granted va then residentBytes s c granted n a ((va / 4096 + 1) * 4096) else va - a

/-- A host page lies in a range of addresses of a context. -/
def pageIn (c : Ctx) (a n page : Nat) : Bool :=
  decide (c.hostLen ≠ 0) && (List.range 8).any (fun i =>
    match windowSpan (c.win.getD i 0) with
    | some (lo, hi) =>
      let base := nbits (c.win.getD i 0).toNat 40 0 * 65536
      let va := page * 4096 - lo + base
      decide (lo ≤ page * 4096 ∧ page * 4096 < hi) && decide (a < va + 4096 ∧ va < a + n)
    | none => false)

/-- Host pages of a range that are resident are translated again, by the hub too (R480, R506). -/
def residePages (s : State) (c : Ctx) (a n : Nat) : State :=
  let s1 := grantPages s c.id (pageIn c a n)
  { s1 with hubAts := s1.hubAts.filter (fun e => e.iface != c.iface || e.pasid != c.pasid || e.r || e.w || !pageIn c a n e.page) }

/-- A device page among those of a range of addresses is changing (R497, R506). -/
def changing (s : State) (c : Ctx) : Nat → Nat → Bool
  | 0, _ => false
  | n + 1, va =>
    (match findWindow c.win va with
      | none => false
      | some i =>
        let ia := windowIa (c.win.getD i 0) va
        !inHost c ia && (match walk s c.root ia with | .leaf f => f.mig | .wait => true | _ => false))
    || changing s c n ((va / 65536 + 1) * 65536)

/-- A service's effect and its reply; none while it must wait, with what it has done until then (R506). -/
def svcServe (s : State) (w : Warp) (n a b resident : Nat) : State × Option Nat :=
  let blk := s.block w.block
  let l := s.launch blk.launch
  let c := s.ctx blk.ctx
  match n with
  | 0 => (s, some (if b ≠ 0 then svcBad else svcInfoVal c a))
  | 1 =>
    if 2 ^ 30 < b || !canonical a || apAddr a then (s, some svcBad)
    else if changing s c ((a + b + 65535) / 65536 - a / 65536) a then (s, none)
    else
      let got := min b (residentBytes s c (min resident b) ((a + b + 4095) / 4096 - a / 4096) a a)
      (residePages s c a got, some got)
  | 2 =>
    if b ≠ 0 then (s, some svcBad)
    else if !cqRoom s l.iface l.queue then (s, some svcFull)
    else
      let e := ((s.iface l.iface).q l.queue).err
      match completeEntry s l.iface l.queue l.lid.toNat a 0x80 0 with
      | .error s1 => (s1, none)
      | .ok s1 => (s1, some (if !e && ((s1.iface l.iface).q l.queue).err then (Config.unknown64 (s.ctr * 256 + 2)).toNat else 0))
  | 3 =>
    if tdiFixed s c.iface then (s, some svcDenied)
    else if (b ≠ 1 && b ≠ 2) || !canonical a then (s, some svcBad)
    else
      match findWindow c.win a with
      | none => (s, some svcBad)
      | some i =>
        let ia := windowIa (c.win.getD i 0) a
        if inHost c ia then (s, some svcBad)
        else
          match walk s c.root ia with
          | .leaf f =>
            let r := biasLeaves s c.id b [(ia, f)]
            (r.1, if r.2 then some 0 else none)
          | .wait | .away _ => (s, none)
          | .fault _ _ => (s, some svcBad)
  | _ => (s, some svcNone)

/-- The service number of an instruction. -/
def svcNumber : Instr → Option Nat
  | .svcInfo .. => some 0
  | .svcReside .. => some 1
  | .svcNotify .. => some 2
  | .svcBias .. => some 3
  | .svcUndefined _ _ n _ _ => some n.toNat
  | _ => none

/-- A call that reached Usxon before this one waits for its answer (R506): calls are answered in the order in which they
arrived, which `Args.vals` holds. -/
def svcBefore (s : State) (x : Args) : Bool :=
  let at_ := fun (x : Args) => (x.vals.headD (0, 0)).2
  s.warps.any (fun w => w.place != .ended && (s.block w.block).kill.isNone && w.groups.any (fun g =>
    match g.wait with
    | some (.usxon _ y) => g.cur.any (fun f => f.word.toNat / 2 ^ 86 != 0x384) && decide (at_ y < at_ x)
    | _ => false))

/-- SVC_REPLY (R271, R272, R506): the reply is written into every active lane's destination pair and latch, and the
lanes' RC and BULK filters are invalidated. A saved subgroup takes it into its saved state (R279); a restore brings empty
filters. `resident` is how far the host granted the pages of a RESIDE. -/
def execSvcReply (wid grp resident : Nat) (s : State) : Out :=
  let w := s.warp wid
  match w.group? grp with
  | none => .next s
  | some g =>
    match g.wait, g.cur with
    | some (.usxon act x), some f =>
      match decodeWord f.word with
      | .illegal _ => .next s
      | .ok i =>
        match svcNumber i with
        | none => .next s
        | some n =>
          if w.place = .ended || (s.block w.block).kill.isSome || svcBefore s x then .next s
          else
            match svcServe s w n x.a.toNat x.b.toNat resident with
            | (s1, none) => .next s1
            | (s1, some r) =>
              let c := wakeCx s1 wid g f ((shape i).getD { h := default }) act
              let s2 := writeRes c none 2 ((lanesOf act).map (fun l => (l, r))) s1
              .next ((if w.place = .saved then s2 else acquireBoth s2 w.core).resumed c)
    | _, _ => .next s

/-! ### Device assignment and attestation -/

/-- A virtual function enters ERROR (R502): its launches are aborted, its confidential contexts destroyed. -/
def tdiError (s : State) (i : Nat) : State :=
  let s1 := s.modIface i (fun x => { x with tdisp := .error })
  reap (startDestroy (abortLaunches s1 (fun l => l.iface == i)) (fun c => c.iface == i && c.conf))

/-- TDI_CONFIG_WRITE (R502). -/
def execTdiConfigWrite (i : Nat) (s : State) : Out :=
  if i = 0 || 64 ≤ i || s.boot ≠ .up || !tdiFixed s i then .next s else .next (tdiError s i)

/-- The entries of a page-table node that are listed in memory: (index, entry). -/
def listedEntries (m : List Host.Cell) (node n : Nat) : List (Nat × Nat) :=
  let on := ((m.filter (fun c => decide (node ≤ c.1 ∧ c.1 < node + 8 * n))).map (fun c => (c.1 - node) / 8)).eraseDups
  on.map (fun i => (i, memReadN m (node + 8 * i) 8))

/-- The leaves of a table that share their page with the host (R496, R497): IA and BIAS. -/
def biasedLeaves (m : List Host.Cell) : Nat → Nat → Nat → List (Nat × Nat × Nat) → List (Nat × Nat)
  | _, _, _, [] => []
  | level, node, ia, (lo, w, _) :: more =>
    (listedEntries m node (2 ^ w)).flatMap (fun x =>
      let e := x.2
      let ia' := ia + x.1 * 2 ^ lo
      if nbits e 0 0 = 0 then []
      else if more.isEmpty || (level != 0 && nbits e 1 1 == 1) then (if nbits e 8 7 = 0 then [] else [(ia', nbits e 8 7)])
      else if nbits e 11 11 = 0 then biasedLeaves m (level + 1) (pteAddr e) ia' more
      else [])

/-- The TDI configuration of an interface (R503). -/
def tdiOf (s : State) (i : Nat) : Tdi :=
  let cs := s.ctxs.filter (fun c => c.alive && c.iface == i)
  { wins := cs.map (fun c => (c.id, c.win))
    bias := cs.flatMap (fun c => (biasedLeaves s.mem 0 c.root 0 walkLevels).map (fun x => (c.id, x)))
    binds := (s.iface i).queues.map (·.bound) }

/-- TDISP_REQUEST (R502, R503): the state of a VF, the configuration that it is locked with, and the IDE stream bound to it, one of 8
(R484). -/
def execTdispRequest (i : Nat) (r : TdispReq) (s : State) : Out :=
  let t := (s.iface i).tdisp
  if i = 0 || 64 ≤ i || s.boot ≠ .up then .next s
  else
    match r with
    | .lock => if t = .unlocked then .next (s.modIface i (fun x => { x with tdisp := .locked, locked := some (tdiOf s i) })) else .next s
    | .start n => if t = .locked && n < 8 then .next (s.modIface i (fun x => { x with tdisp := .run, stream := some n })) else .next s
    | .stop => if t = .error then .next s else .next (s.modIface i (fun x => { x with tdisp := .unlocked, stream := none, locked := none }))

/-- The security processor's firmware answers (R533): from step 2 on. -/
def responderUp (s : State) : Bool :=
  match s.boot with
  | .steps n => decide (2 ≤ n)
  | .up => true
  | _ => false

/-- SPDM_REQUEST (R503): measurement block `index` is returned, signed: blocks 5 to 67 measure the TDI configuration of VF index − 4 as
it was locked. Digest and signature are free bytes of the recorded draw (log 7). -/
def execSpdmRequest (index : Nat) (s : State) : Out :=
  if !responderUp s || index = 0 || 67 < index then .next s
  else .next ({ s with spdm := ⟨index, if 5 ≤ index then (s.iface (index - 4)).locked else none, s.ctr⟩ :: s.spdm }.bump)

/-- CONFIGURATION_REQUEST (R533): the PF answers with Configuration Request Retry Status (report 1) until the
firmware has started the service cores, and then completes (report 0). -/
def execConfigurationRequest (i : Nat) (s : State) : Out :=
  if i ≠ 0 || s.boot = .off || s.boot = .shutdown then .next s
  else .next { s with log := .error (if responderUp s then 0x210 else 0x211) 0 :: s.log }

/-! ### Accesses of the host -/

/-- The leaf of a table that maps a physical address (R450, R451): the IA is found by going through the valid
entries of the nodes. -/
def leafOf (m : List Host.Cell) (pa : Nat) : Nat → Nat → Nat → List (Nat × Nat × Nat) → Option (Nat × Leaf)
  | _, _, _, [] => none
  | level, node, ia, (lo, w, _) :: more =>
    (listedEntries m node (2 ^ w)).findSome? (fun x =>
      let e := x.2
      let ia' := ia + x.1 * 2 ^ lo
      if nbits e 0 0 = 0 then none
      else if more.isEmpty || (level != 0 && nbits e 1 1 == 1) then
        if pteOk e lo true && nbits e 11 11 = 0 && pteAddr e ≤ pa && pa < pteAddr e + 2 ^ lo then some (ia', ⟨e, node + 8 * x.1, lo⟩) else none
      else if nbits e 11 11 = 0 then leafOf m pa (level + 1) (pteAddr e) ia' more
      else none)

/-- The context whose leaf maps a place of device memory, the place's intermediate address, and the leaf. -/
def pageOf (s : State) (pa : Nat) : Option (Ctx × Nat × Leaf) :=
  (s.ctxs.filter (·.alive)).findSome? (fun c => (leafOf s.mem pa 0 c.root 0 walkLevels).map (fun x => (c, x.1 + (pa - pteAddr x.2.pte), x.2)))

/-- What a place is encrypted with for the context whose leaf maps it (R499). -/
def pageSeal (s : State) (pa : Nat) : Nat :=
  match pageOf s pa with
  | some (c, ia, _) => sealOf s c.id ia pa
  | none => 0

/-- How a page is shared with the host (R496): its BIAS, and 0 for a page that no leaf maps. A confidential context's memory is reached
only over the IDE stream that is bound to its interface (R502). -/
def hostBias (s : State) (pa : Nat) (stream : Option Nat) : Nat :=
  match pageOf s pa with
  | none => 0
  | some (c, _, f) =>
    let x := s.iface c.iface
    if c.conf && (x.tdisp != .run || stream.isNone || x.stream != stream) then 0 else nbits f.pte 8 7

/-- A write of bytes to one 64-byte granule of device memory: writing all of it clears its poison mark (R457). -/
def granuleWrite (s : State) (pa : Nat) (bs : List Byte) : State :=
  { sealWriteL s (pageSeal s pa) pa bs with
    poison := if pa % 64 = 0 && bs.length = 64 then cset s.poison false (pa / 64) false else s.poison }

/-- HOST_CXL_MEM_ACCESS (R496): served by bias, over an IDE stream or none; it waits for a line that a core holds under a release, whose
publish it demands (R394). A device-only page's read returns poison and its write is dropped; Usxon logs both. -/
def execHostCxlMemAccess (pa : Nat) (x : CxlAccess) (s : State) : Out :=
  if s.boot ≠ .up || Config.deviceBytes ≤ pa then .next s
  else if hostBias s pa x.stream = 0 then .next { s with log := .error 0x220 pa :: s.log }
  else if !dirOk s pa (x.acc != .read) then .next s
  else if heldElsewhere s none pa 1 then .next (demandLines s none pa 1)
  else
    match x.acc with
    | .read => .next s
    | .write bs => if pa % 64 + bs.length ≤ 64 then .next (granuleWrite s pa bs) else .next s

/-- The host-range lines of a die's L2 that hold a host frame's line (R363, R453). -/
def snoopL2 (addr : Nat) (d : Die) : Die :=
  let ias := (d.ats.filter (fun e => (e.r || e.w) && e.frame == addr / 4096)).map (fun e => (e.page * 4096 + addr % 4096) / 128)
  { d with l2 := { d.l2 with lines := d.l2.lines.filter (fun l => !ias.contains l.line) } }

/-- HOST_SNOOP (R466): the host's write to a line of its own memory takes the line from the die L2s, which answer
at all times, and is then performed; its read leaves the line. Either waits for a line that a core holds under a release (R394). -/
def execHostSnoop (addr : Nat) (acc : OutsideAccess) (s : State) : Out :=
  if s.boot = .up && heldElsewhere s none (hostBase + addr) 1 then .next (demandLines s none (hostBase + addr) 1)
  else
    match acc with
    | .read => .next s
    | .write bs =>
      if 2 ^ 60 ≤ addr + bs.length || 128 < addr % 128 + bs.length then .next s
      else
        let s1 := if s.boot = .up then { s with dies := s.dies.map (snoopL2 addr) } else s
        .next { s1 with mem := memWriteL s1.mem (hostBase + addr) bs }

end Sys2Proof.Machine
end

