-- ==== Sys2Proof/Machine/FabricEvents.lean ====
section
/-! DEFINITION. The fabric: exports and the home directory (R521, R523), peer lines held here (R522, R524), and the
switch planes (R526 to R528). -/

namespace Sys2Proof.Machine

/-! ### Planes -/

/-- The hash of a fabric address (R526). -/
def planeHash (fa : Nat) : Nat :=
  (List.range 12).foldl (fun h i => Nat.xor h (nbits fa (7 + 4 * i + 3) (7 + 4 * i))) (nbits fa 55 55)

/-- The entry of PLANEMAP for a hash (R527). -/
def planeEntry (m : W64) (h : Nat) : Nat := nbits m.toNat (4 * h + 3) (4 * h)

/-- The plane that carries messages about the line of a fabric address (R526). -/
def planeOf (s : State) (fa : Nat) : Nat := planeEntry s.planemap (planeHash fa)

/-- Every plane is dead. -/
def fabricDead (s : State) : Bool := s.deadmask == 0xFFFF

/-- Messages about a line wait at the port while its entry is rewritten (R528 step 1). -/
def planeWaits (s : State) (fa : Nat) : Bool := s.draining.contains (planeOf s fa)

/-- The fabric address of a byte of this device's memory (R519). -/
def ownFa (s : State) (pa : Nat) : Nat := s.devId.toNat * 2 ^ 40 + pa

/-- The lowest-numbered live plane that carries the fewest entries (R528 step 3). -/
def nextPlane (s : State) : Option Nat :=
  let carries := fun (p : Nat) => ((List.range 16).filter (fun h => planeEntry s.planemap h == p)).length
  firstBy (fun a b => carries a < carries b || (carries a == carries b && a < b)) ((List.range 16).filter (fun p => !s.deadmask.getLsbD p))

/-- An entry that names a dead plane is rewritten. -/
def mapEntry (dead : Nat) (s : State) (h : Nat) : State :=
  if planeEntry s.planemap h ≠ dead then s
  else
    match nextPlane s with
    | none => s
    | some p => { s with planemap := BitVec.ofNat 64 (setBits s.planemap.toNat (4 * h + 3) (4 * h) p) }

/-- Steps 3 and 4 of R528: the entries of a dead plane are rewritten, and its waiting messages released. -/
def rewritePlane (s : State) (p : Nat) : State :=
  let s1 := (List.range 16).foldl (mapEntry p) s
  { s1 with draining := s1.draining.filter (· != p) }

/-- The fabric ports are trained or being trained (R533 step 4). -/
def portsUp (s : State) : Bool :=
  match s.boot with
  | .steps n => decide (3 ≤ n)
  | .up => true
  | _ => false

/-- FABRIC_PLANE_FAILURE (R528): the plane's DEAD bit is set and its entries' messages wait; reported again, with
every message on it acknowledged, its entries are rewritten. -/
def execFabricPlaneFailure (p : Nat) (s : State) : Out :=
  if 16 ≤ p || !portsUp s then .next s
  else if s.draining.contains p then .next (rewritePlane s p)
  else if s.deadmask.getLsbD p then .next s
  else .next { s with deadmask := s.deadmask ||| BitVec.ofNat 16 (2 ^ p), draining := s.draining ++ [p] }

/-- PLANE_DRAIN_TIMEOUT (R528 step 2): 1 ms has passed. -/
def execPlaneDrainTimeout (s : State) : Out := .next (s.draining.foldl rewritePlane s)

/-! ### This device as home -/

/-- Usxon has exported an address to a device at this moment (R521): its choice, a free value (log 3). -/
def exported (s : State) (dev pa : Nat) (write : Bool) : Bool := Config.exported s.ctr dev pa write

/-- A line's directory entry (R523). -/
def dirEntry (s : State) (line : Nat) : DirEnt := (s.dir.find? (fun d => d.line == line)).getD ⟨line, none, [], false⟩

/-- The directory with an entry replaced; an entry that names nobody goes. -/
def putDir (s : State) (d : DirEnt) : State :=
  let rest := s.dir.filter (fun x => x.line != d.line)
  { s with dir := if d.owner.isNone && d.sharers.isEmpty && !d.coarse then rest else d :: rest }

/-- A sharer joins: up to 8 ids, then the coarse flag (R523). -/
def DirEnt.share (d : DirEnt) (dev : Nat) : DirEnt :=
  if d.coarse || d.sharers.contains dev then d
  else if d.sharers.length < 8 then { d with sharers := d.sharers ++ [dev] }
  else { d with sharers := [], coarse := true }

/-- The line leaves the caches of this device's dies. -/
def dropLine (s : State) (pa : Nat) : State :=
  let ctxs := (s.ctxs.filter (·.alive)).filterMap (fun c =>
    (leafOf s.mem pa 0 c.root 0 walkLevels).map (fun x => (x.1 + (pa - pteAddr x.2.pte)) / 128))
  let keep := fun (t : CacheT) => { t with lines := t.lines.filter (fun l => !ctxs.contains l.line) }
  { s with dies := s.dies.map (fun d => { d with l2 := keep d.l2, mlc := keep d.mlc }) }

/-- FABRIC_REQUEST (R521, R523): a peer reads a line, asks to own it (a write of no bytes), or writes an owned
line's bytes back. Outside the export, or with every plane dead, the request completes in error and changes
nothing. It waits for a line that a core holds under a release, whose publish it demands (R394). -/
def execFabricRequest (peer pa : Nat) (acc : OutsideAccess) (s0 : State) : Out :=
  let s := s0.bump
  let d := dirEntry s (pa / 128)
  let fa := ownFa s pa
  let held := heldElsewhere s none pa 1
  let demand := Host.Outcome.next (demandLines s none pa 1)
  if s.boot ≠ .up || Config.deviceBytes ≤ pa || fabricDead s || !exported s0 peer pa (acc != .read) then .next s
  else
    match acc with
    | .read => if planeWaits s fa || d.owner.isSome then .next s else if held then demand else .next (putDir s (d.share peer))
    | .write [] =>
      if planeWaits s fa || d.owner.isSome || d.coarse || d.sharers.any (· != peer) then .next s
      else if held then demand
      else .next (putDir (dropLine s pa) { d with owner := some peer, sharers := [] })
    | .write bs =>
      if d.owner ≠ some peer || 128 < pa % 128 + bs.length then .next s
      else if planeWaits s fa then
        .next (putDir { s with poison := cset (cset s.poison false (pa / 128 * 2) true) false (pa / 128 * 2 + 1) true } { d with owner := none })
      else .next (putDir (sealWriteL s 0 pa bs) { d with owner := none })

/-- DIRECTORY_INVALIDATION (R523): the home takes a line from its sharers: here, from the peers that share a line
of this device; or this device's Shared copy of a peer line, which a home device demands. An owner writes
back first. -/
def execDirectoryInvalidation (line : Nat) (s : State) : Out :=
  if line * 128 < peerBase then .next (putDir s { dirEntry s line with sharers := [], coarse := false })
  else .next { s with peers := s.peers.filter (fun p => p.modified || p.fa != line - peerBase / 128) }

/-! ### Peer lines held here -/

/-- An access that waits for a peer line. -/
def wantsLine (line : Nat) (t : Txn) (a : Acc) : Bool :=
  a.sp == .global && a.st == .issued && (match a.xl with | .loc l => l / 128 == line + peerBase / 128 && l < hostBase | _ => false) && !t.accs.isEmpty

/-- An access whose walk waits for a page-table node in a peer line (R452). -/
def wantsNode (s : State) (w : Warp) (line : Nat) (a : Acc) : Bool :=
  let c := s.ctx (s.block w.block).ctx
  a.sp == .global && a.st == .issued && a.xl == .asked && !inHost c a.key && walk s c.root a.key == .away line

/-- A refused request faults the lanes' waiting accesses that needed it, or whose walks did (R521). -/
def refuseLanes (s : State) (line : Nat) (modified : Bool) : State :=
  let acc := fun (w : Warp) (t : Txn) (a : Acc) =>
    if (wantsLine line t a && t.kind.writes == modified) || (!modified && wantsNode s w line a) then
      { a with xl := if modified then .fault .writeDenied 0 else .fault .readDenied 0 }
    else a
  let txn := fun (w : Warp) (t : Txn) => { t with accs := t.accs.map (acc w t) }
  { s with warps := s.warps.map (fun w => { w with txns := w.txns.map (txn w) }) }

/-- A running request of a copy engine waits for a peer line. -/
def jobPeer (s : State) (j : Job) (line : Nat) (modified : Bool) : Bool :=
  ((s.block j.block).req? j.req).any fun q =>
    q.fault.isNone && (jobTries s j q).any (fun x => match x with | .error (.peer l m) => l == line && m == modified | _ => false)

/-- A refused request ends the engines' requests that needed it in error (R521, R255). -/
def refuseJobs (s : State) (line : Nat) (modified : Bool) : State :=
  (s.engines.flatMap (·.take 4)).foldl (fun s j => if jobPeer s j line modified then endReq s j.block j.req 2 else s) s

/-- A refused request ends an MXRUN that waits for the line in error (R521, R240). -/
def refuseEngines (s : State) (line : Nat) : State :=
  (List.range 64).foldl (fun s core =>
    match headOp s core .mxrun with
    | some e =>
      match e.record with
      | some w => if mxRows s core e w.toNat = .peer line then finishOp s core e true else s
      | none => s
    | none => s) s

/-- A refused request parks the subgroups whose fetches needed it (R521, R56, R57). -/
def refuseFetches (s : State) (line : Nat) : State :=
  let group := fun (w : Warp) (v : Warp) (g : Group) =>
    if !g.unfetched || !blockRuns s w then v
    else match fetchRun s w g.pos.start with | .peer l x => if l = line then v.parkFetch g x else v | _ => v
  { s with warps := s.warps.map (fun w => w.groups.foldl (group w) w) }

/-- PEER_LINE_MISS (R522, R521): the local slice obtains the line of a fabric address in Shared or in Modified,
with the bytes that its home holds; or the home refuses, as it does with every plane dead (R528). -/
def execPeerLineMiss (fa : Nat) (modified : Bool) (bytes : List Byte) (granted : Bool) (s : State) : Out :=
  let line := fa / 128
  let held := s.peers.find? (fun p => p.fa == line)
  if s.boot ≠ .up || 2 ^ 56 ≤ fa || nbits fa 55 40 = s.devId.toNat || (!fabricDead s && planeWaits s fa)
      || held.any (fun p => p.modified || !modified) then .next s
  else if !granted || fabricDead s then
    let s1 := refuseJobs (refuseLanes s line modified) line modified
    .next (if modified then s1 else refuseFetches (refuseEngines s1 line) line).bump
  else
    let s1 := { s with peers := ⟨line, modified, modified⟩ :: s.peers.filter (fun p => p.fa != line) }
    if held.isSome || bytes.length ≠ 128 then .next s1
    else .next { s1 with mem := memWriteL s1.mem (peerBase + line * 128) bytes }

/-- PEER_WRITEBACK (R524, R523, R528): a Modified peer line returns to its home, once an access has used it or none
waits. Data that was on a plane as it failed is lost: the home marks the line's granules poisoned. -/
def execPeerWriteback (fa : Nat) (s : State) : Out :=
  let line := fa / 128
  match s.peers.find? (fun p => p.fa == line && p.modified) with
  | none => .next s
  | some p =>
    let waited := s.warps.any (fun w => w.txns.any (fun t => t.accs.any (wantsLine line t)))
    if (p.fresh && waited) || fabricDead s then .next s
    else
      let s1 := { s with peers := s.peers.filter (fun p => p.fa != line) }
      let g := (peerBase + line * 128) / 64
      .next (if planeWaits s fa then { s1 with poison := cset (cset s1.poison false g true) false (g + 1) true } else s1)

end Sys2Proof.Machine
end

