-- ==== Sys2Proof/Machine/PowerEvents.lean ====
section
/-! DEFINITION. Clocks, temperature, power and bring-up (R307, R529 to R531, R533). -/

namespace Sys2Proof.Machine

/-- The arithmetic-clock points, in MHz (R529). -/
def clockPoints : List Nat := [2000, 1800, 1600, 1400, 1200, 1000]

/-- POWER_POINT_CHANGE (R529, R530): the controller's choice for a die. -/
def execPowerPointChange (die point : Nat) (s : State) : Out :=
  if clockPoints.contains point then .next (s.modDie die (fun d => { d with mhz := point })) else .next s

/-- THERMAL_LIMIT (R530). -/
def execThermalLimit (die : Nat) (s : State) : Out := .next (s.modDie die (fun d => { d with mhz := 1000 }))

/-- THERMAL_SHUTDOWN (R530): every launch is lost, and no completion is written. -/
def execThermalShutdown (s : State) : Out :=
  .next { s with
    warps := [], blocks := [], launches := [], saves := [], migs := [], invs := [], hubAsks := []
    dies := s.dies.map (fun d => { d with upd := [], asks := [] })
    cores := List.replicate 64 .reset
    engines := List.replicate 32 []
    boot := .shutdown, iss := none, focus := ⟨0, 0, .A⟩ }

/-- CORE_POWER_GATE (R531, R466, R415): a core that no context holds. A die whose cores are all gated and that holds
no carve-out is gated too, with its L2 written back. -/
def execCorePowerGate (core : Nat) (s : State) : Out :=
  let k := s.core core
  if 64 ≤ core || k.ctx.isSome || k.gated then .next s
  else
    let s1 := s.modCore core (fun k => { k with l1 := [], deck := [], gated := true })
    let all := (List.range 16).all (fun i => (s1.core (16 * dieOf core + i)).gated)
    let carved := s.ctxs.any (fun c => c.alive && c.ways != 0)
    .next (if all && !carved then s1.modDie (dieOf core) (fun d => { d with l2 := .empty }) else s1)

/-- What lies outside the module: the host's memory and the memory of peers. -/
def outsideMem (m : List Host.Cell) : List Host.Cell := m.filter (fun p => decide (peerBase ≤ p.1 ∧ p.1 < dieBase))

/-- POWER_REMOVAL (R531): all state is lost. -/
def execPowerRemoval (s : State) : Out :=
  .next { State.reset with
    boot := .off, mem := outsideMem s.mem, poison := s.poison.filter (fun p => peerBase ≤ p.1 * 64), sched := s.sched, ctr := s.ctr }

/-- An image that a step of bring-up verifies is accepted (R503): it carries a valid signature, and a version at or above the fused
rollback count. -/
def imageOk (k : Nat) : Bool := Config.imageSigned k && decide (Config.rollback k ≤ Config.imageVersion k)

/-- What a step of bring-up does when it completes (R533): steps 1 and 2 verify an image, and a failure there leaves the module as it
is without end; step 3 zeroes device memory, step 6 zeroes accounts and key slots and opens the mailboxes. -/
def bootStep (s : State) (n : Nat) : State :=
  match n with
  | 1 | 2 => if imageOk n then { s with boot := .steps n } else s
  | 3 => { s with mem := outsideMem s.mem, seals := [], boot := .steps 3 }
  | 6 =>
    let s1 := { s with idle := [], keySlots := [], boot := .up }
    s1.modIface 0 (fun x => { x with busy := false, reply := BitVec.ofNat 64 (s.devId.toNat + s.deadmask.toNat * 2 ^ 16) })
  | n => { s with boot := .steps n }

/-- PERST_DEASSERT (R533): each event completes the next of the six steps; a step that fails is one whose event
never comes. -/
def execPerstDeassert (s : State) : Out :=
  match s.boot with
  | .off | .inReset => .next (bootStep s 1)
  | .steps n => .next (bootStep s (n + 1))
  | .up | .shutdown => .next s

/-- INTERFACE_BUDGET_WINDOW (R307, R498): the bytes of the last 10 µs and the estimate, in watts, of the last 100 µs
against the interface's budgets. -/
def execInterfaceBudgetWindow (i bytes power : Nat) (s : State) : Out :=
  .next (s.modIface i (fun x =>
    { x with bwOver := x.bw != 0 && decide (x.bw * 10000 < bytes), pwOver := x.power != 0 && decide (x.power < power) }))

end Sys2Proof.Machine
end

