-- ==== Sys2Proof/Machine/ErrorEvents.lean ====
section
/-! DEFINITION. Errors and their containment (R457, R458, R532), the global trigger and the time series (R343 to
R346). -/

namespace Sys2Proof.Machine

/-! ### Errors -/

/-- POISON_DETECT (R457): the granule of an address is marked. -/
def execPoisonDetect (addr : Nat) (s : State) : Out :=
  if Config.deviceBytes ≤ addr then .next s else .next { s with poison := cset s.poison false (addr / 64) true }

/-- LIVE_STATE_ERROR (R458, R472): the block that reads the state is killed. -/
def execLiveStateError (bid : Nat) (s : State) : Out :=
  if s.blocks.length ≤ bid || (s.block bid).ended then .next s else .next (killBlock s bid ⟨kindCode .liveError, 0, 0, 0⟩)

/-- CORRECTED_ECC_EVENT (R532): logged; it changes no result. -/
def execCorrectedEccEvent (site : Nat) (s : State) : Out := .next { s with log := .error 0x230 site :: s.log }

/-- CONTROL_PARITY_ERROR (R532): in a core, every block on it is killed and the core is reset before its next
assignment; in the hub or a base die, every launch of the device is aborted and the PF receives a device
error. -/
def execControlParityError (core : Option Nat) (s : State) : Out :=
  match core with
  | some c =>
    let kill := fun (s : State) (b : Block) => killBlock s b.id ⟨kindCode .controlParity, 0, 0, 0⟩
    .next ((heldBlocks s c).foldl kill (s.modCore c (fun k => { k with parity := true })))
  | none =>
    let s1 := abortLaunches s (fun _ => true)
    .next { s1 with log := .error 0x231 0 :: s1.log }

/-- HBM_SCRUB (R532): every granule of HBM4 is read and its corrected errors are logged; no result changes. -/
def execHbmScrub (s : State) : Out := .next { s with log := .error 0x232 0 :: s.log }

/-- MLC_SCRUB (R532). -/
def execMlcScrub (s : State) : Out := .next { s with log := .error 0x233 0 :: s.log }

/-! ### The trigger -/

/-- The cores' first clock edges at or after a time of the timebase have come, and no cycle has run since. -/
def atEdge (s : State) : Bool := s.boot == .up && s.focus == ⟨0, 0, .A⟩ && s.debt.getD 0 0 == 0

/-- Every core copies its live accounts and counters (R343); triggers that name one T are one. -/
def latchAll (s : State) (t : Nat) : State :=
  if s.trigger.contains t then s
  else { s with cores := s.cores.map (fun k => { k with shAcct := k.acct, shCnt := k.cnt, shCtx := k.ctx.getD 0 }), trigger := [t] }

/-- GLOBAL_TRIGGER (R343): at time T, before any cycle at or after it. -/
def execGlobalTrigger (t : Nat) (s : State) : Out := if s.time = t && atEdge s then .next (latchAll s t) else .next s

/-- The 1,024 bytes of a core's series record (R345). -/
def seriesBytes (k : Core) (core t seq ex lost : Nat) : List Byte :=
  leBytes 8 t ++ leBytes 2 seq ++ leBytes 1 ex ++ leBytes 1 core ++ leBytes 2 lost ++ leBytes 50 0
    ++ (List.range 72).flatMap (fun i => leBytes 8 (cget k.shAcct 0 i)) ++ (List.range 48).flatMap (fun n => leBytes 8 (cget k.shCnt 0 n))

/-- One core's record goes to the series ring, or is counted in LOST (R345, R346); the quadrants write their bins
(R341). -/
def seriesCore (ctx t seq : Nat) (r : Ring) (s : State) (core : Nat) : State :=
  let s0 := flushBins s core ctx
  let k := s0.core core
  match ringWrite s0 (dieOf core) (s0.ctx ctx) r (seriesBytes k core t seq r.k (min k.lostSeries 65535)) with
  | some s1 => s1.modCore core (fun k => { k with lostSeries := 0 })
  | none => s0.modCore core (fun k => { k with lostSeries := min (k.lostSeries + 1) 65535 })

/-- Appends a record to a ring at a place of device memory (R346); none when it does not fit. -/
def placeRing (s : State) (place log_ : Nat) (bytes : List Byte) : Option State :=
  let w := seenN s 0 place 8
  if w + bytes.length - seenN s 0 (place + 8) 8 ≤ 2 ^ log_ then
    some (sealWriteN (sealWriteL s 0 (place + 64 + w % 2 ^ log_) bytes) 0 place 8 (w + bytes.length))
  else none

/-- One core's record goes to the device stream's ring, or is counted in its LOST (R345). -/
def deviceCore (t seq place log_ k : Nat) (s : State) (core : Nat) : State :=
  let c := s.core core
  match placeRing s place log_ (seriesBytes c core t seq k (min c.lostDevice 65535)) with
  | some s1 => s1.modCore core (fun c => { c with lostDevice := 0 })
  | none => s.modCore core (fun c => { c with lostDevice := min (c.lostDevice + 1) 65535 })

/-- A tick of the physical function's device stream, when it is enabled: the records of every core (R345). -/
def deviceTick (s : State) : State :=
  match Config.deviceStream s.ctr with
  | none => s
  | some (place, m, k) =>
    let fine := 12 ≤ m && m ≤ 30 && 12 ≤ k && k ≤ 24 && place + 64 + 2 ^ m ≤ Config.deviceBytes
    if !fine || s.time % 2 ^ k ≠ 0 || !atEdge s || s.devTicked = s.time + 1 then s
    else
      let s1 := (List.range 64).foldl (deviceCore s.time (s.devTick % 65536) place m k) (latchAll s s.time)
      { s1 with devTick := s1.devTick + 1, devTicked := s.time + 1 }.bump

/-- SERIES_TICK (R345, R343, R341): at each multiple of 2^k ns, once, the cores assigned to the context write their
shadows; the tick of context 0 is the device stream's. -/
def execSeriesTick (ctx : Nat) (s : State) : Out :=
  let c := s.ctx ctx
  if ctx = 0 then .next (deviceTick s)
  else
    match c.series with
    | none => .next s
    | some r =>
      if !c.alive || s.time % 2 ^ r.k ≠ 0 || !atEdge s || c.ticked = s.time + 1 then .next s
      else
        let s1 := latchAll s s.time
        let mine := (List.range 64).filter (fun n => (s.core n).ctx == some ctx)
        let s2 := mine.foldl (seriesCore ctx s.time (c.tick % 65536) r) s1
        .next (s2.modCtx ctx (fun c => { c with tick := c.tick + 1, ticked := s.time + 1 }))

end Sys2Proof.Machine
end

