-- ==== Sys2Proof/Machine/Predicate.lean ====
section
/-! DEFINITION. Predicate logic and lane collectives (R141 to R143). -/

namespace Sys2Proof.Machine

/-- QTAB on one lane (R143). -/
def qtabVal (tab : Nat) (a b c : Bool) : Nat := tab / 2 ^ (a.toNat + 2 * b.toNat + 4 * c.toNat) % 2

/-- The predicates of a bank: q0 to q31, or q32 to q47 (R143). -/
def bankOf (hi : Bool) : List Nat := if hi then (List.range 16).map (32 + ·) else List.range 32

/-- QGET on one lane: bit i is the bank's i-th predicate (R143). -/
def qgetVal (rf : RegFile) (hi : Bool) (l : Nat) : Nat :=
  (bankOf hi).foldl (fun r q => r + (hasLane (rf.pred q) l).toNat * 2 ^ (q % 32)) 0

/-- QSET (R143): in each lane, every predicate of the bank whose bit in b is 1 takes its bit of a. -/
def qsetRf (hi : Bool) (vs : List (Nat × Nat × Nat)) (rf : RegFile) : RegFile :=
  (bankOf hi).foldl (fun rf q =>
    let i := q % 32
    rf.setPred q (maskOf (fun l => vs.any (fun x => x.1 == l && nbits x.2.2 i i == 1)))
      (maskOf (fun l => vs.any (fun x => x.1 == l && nbits x.2.1 i i == 1)))) rf

/-- POLL on an active mask and the lanes of it where the predicate holds (R143). -/
def pollVal (op : PollOp) (act m : LMask) : Nat :=
  match op with
  | .every => (m == act).toNat
  | .some => (m != 0).toNat
  | .same => (m == act || m == 0).toNat
  | .mask => m.toNat

/-- The source lane of LXCH; none where the result is 0 (R143). -/
def xchLane (m : XchMode) (l b : Nat) : Option Nat :=
  match m with
  | .from => some (b % 32)
  | .flip => some (l ^^^ (b % 32))
  | .back => if b ≤ l then some (l - b) else none
  | .fwd => if l + b ≤ 31 then some (l + b) else none

/-- LRED's operation on two values of a type (R143). -/
def lredOp (op : RedOp) (t : Ty) (x y : Nat) : Nat :=
  match op with
  | .add => (x + y) % 2 ^ tyBits t
  | .min => zop .min t false (intOf t x) (intOf t y)
  | .max => zop .max t false (intOf t x) (intOf t y)
  | .and => x &&& y
  | .or => x ||| y
  | .xor => x ^^^ y

/-- LRED over the active lanes. -/
def lredVal (op : RedOp) (t : Ty) : List Nat → Nat
  | [] => 0
  | x :: r => r.foldl (lredOp op t) x

def execQtab (h : Hd) (d : Dv) (tab : BitVec 8) (pa pb pc : PSrc) (s : State) : Out :=
  runLanes (.qtab h d tab pa pb pc) s none 1 fun c l =>
    ⟨qtabVal tab.toNat (psrcVal c pa l) (psrcVal c pb l) (psrcVal c pc l), 0⟩
def execQget (h : Hd) (d : Du) (hi : Bool) (s : State) : Out :=
  runLanes (.qget h d hi) s (some .b32) 1 fun c l => ⟨qgetVal c.rf hi l, 0⟩
def execQset (h : Hd) (hi : Bool) (a b : Src) (s : State) : Out :=
  runOp (.qset h hi a b) s fun c s =>
    let vs := (lanesOf c.act).map (fun l => (l, src32 c a l, src32 c b l))
    .next ((s.modIss c (fun w => { w with rf := qsetRf hi vs w.rf })).done c)
def execPoll (h : Hd) (d : Du) (op : PollOp) (p : PSrc) (s : State) : Out :=
  runLanes (.poll h d op p) s (some .b32) 1 fun c _ =>
    ⟨pollVal op c.act (maskOf (fun l => hasLane c.act l && psrcVal c p l)), 0⟩
/-- PEERS (R143): a mask of lanes. It has 32 bits and one register for every TYPE, B64 too: R143 calls the result a mask of lanes,
though R127 would give it the TYPE's width (DESIGN CHOICE, log 83). -/
def execPeers (h : Hd) (d : Dv) (ty : Ty) (unif : Bool) (a : Src) (s : State) : Out :=
  runLanes (.peers h d ty unif a) s none 1 fun c l =>
    let v := fun k => srcVal c none (tyRegs ty) a k
    let eq := maskOf (fun k => hasLane c.act k && v k == v l)
    ⟨if unif then (if eq = c.act then c.act.toNat else 0) else eq.toNat, 0⟩
def execLxch (h : Hd) (d : Dv) (ty : Ty) (mode : XchMode) (a b : Src) (s : State) : Out :=
  runLanes (.lxch h d ty mode a b) s none (tyRegs ty) fun c l =>
    ⟨match xchLane mode l (src32 c b l) with
      | some k => srcVal c none (tyRegs ty) a k
      | none => 0, 0⟩
def execLred (h : Hd) (d : Du) (ty : Ty) (op : RedOp) (a : Src) (s : State) : Out :=
  runLanes (.lred h d ty op a) s (some ty) (tyRegs ty) fun c _ =>
    ⟨lredVal op ty ((lanesOf c.act).map (srcVal c none (tyRegs ty) a)), 0⟩
def execLead (h : Hd) (d : Dv) (s : State) : Out :=
  runLanes (.lead h d) s none 1 fun c l => ⟨(l == lowLane c.act).toNat, 0⟩

end Sys2Proof.Machine
end

