-- ==== Sys2Proof/Machine/Dispatch.lean ====
section
/-! DEFINITION. One arm per instruction: the meaning it has, or its rejection by name. -/

namespace Sys2Proof.Machine

/-- The meaning of every instruction. -/
def exec (i : Instr) (s : State) : Host.Outcome State Fault Refusal :=
  match i with
  | .zadd h d ty sat a b => Sys2Proof.Machine.execZadd h d ty sat a b s
  | .zaddImm h d ty sat a imm => Sys2Proof.Machine.execZaddImm h d ty sat a imm s
  | .zsub h d ty sat a b => Sys2Proof.Machine.execZsub h d ty sat a b s
  | .zmul h d ty part a b => Sys2Proof.Machine.execZmul h d ty part a b s
  | .zmulImm h d ty part a imm => Sys2Proof.Machine.execZmulImm h d ty part a imm s
  | .zmac h d ty part a b c => Sys2Proof.Machine.execZmac h d ty part a b c s
  | .zmin h d ty a b => Sys2Proof.Machine.execZmin h d ty a b s
  | .zminImm h d ty a imm => Sys2Proof.Machine.execZminImm h d ty a imm s
  | .zmax h d ty a b => Sys2Proof.Machine.execZmax h d ty a b s
  | .zmaxImm h d ty a imm => Sys2Proof.Machine.execZmaxImm h d ty a imm s
  | .aadd h d ty sh a b => Sys2Proof.Machine.execAadd h d ty sh a b s
  | .aaddImm h d ty sh a imm => Sys2Proof.Machine.execAaddImm h d ty sh a imm s
  | .ltab h d tab a b c => Sys2Proof.Machine.execLtab h d tab a b c s
  | .shl h d ty wrap a b => Sys2Proof.Machine.execShl h d ty wrap a b s
  | .shlImm h d ty wrap a imm => Sys2Proof.Machine.execShlImm h d ty wrap a imm s
  | .shr h d ty wrap a b => Sys2Proof.Machine.execShr h d ty wrap a b s
  | .shrImm h d ty wrap a imm => Sys2Proof.Machine.execShrImm h d ty wrap a imm s
  | .shf h d right wrap a b c => Sys2Proof.Machine.execShf h d right wrap a b c s
  | .bfe h d ty a b => Sys2Proof.Machine.execBfe h d ty a b s
  | .bfeImm h d ty a imm => Sys2Proof.Machine.execBfeImm h d ty a imm s
  | .bfi h d a b c => Sys2Proof.Machine.execBfi h d a b c s
  | .popc h d ty a => Sys2Proof.Machine.execPopc h d ty a s
  | .clz h d ty a => Sys2Proof.Machine.execClz h d ty a s
  | .ctz h d ty a => Sys2Proof.Machine.execCtz h d ty a s
  | .brev h d ty a => Sys2Proof.Machine.execBrev h d ty a s
  | .bysel h d a b c => Sys2Proof.Machine.execBysel h d a b c s
  | .byselImm h d a imm => Sys2Proof.Machine.execByselImm h d a imm s
  | .zcmp h d ty cmp a b => Sys2Proof.Machine.execZcmp h d ty cmp a b s
  | .zcmpImm h d ty cmp a imm => Sys2Proof.Machine.execZcmpImm h d ty cmp a imm s
  | .sel h d ty a b p => Sys2Proof.Machine.execSel h d ty a b p s
  | .mov h d ty a => Sys2Proof.Machine.execMov h d ty a s
  | .movImm h d ty imm => Sys2Proof.Machine.execMovImm h d ty imm s
  | .qtab h d tab pa pb pc => Sys2Proof.Machine.execQtab h d tab pa pb pc s
  | .qget h d hi => Sys2Proof.Machine.execQget h d hi s
  | .qset h hi a b => Sys2Proof.Machine.execQset h hi a b s
  | .poll h d op p => Sys2Proof.Machine.execPoll h d op p s
  | .peers h d ty unif a => Sys2Proof.Machine.execPeers h d ty unif a s
  | .lxch h d ty mode a b => Sys2Proof.Machine.execLxch h d ty mode a b s
  | .lred h d ty op a => Sys2Proof.Machine.execLred h d ty op a s
  | .lead h d => Sys2Proof.Machine.execLead h d s
  | .bra h off => Sys2Proof.Machine.execBra h off s
  | .brx h off a => Sys2Proof.Machine.execBrx h off a s
  | .call h d off => Sys2Proof.Machine.execCall h d off s
  | .callInd h d off a => Sys2Proof.Machine.execCallInd h d off a s
  | .ret h a => Sys2Proof.Machine.execRet h a s
  | .joinArm h j => Sys2Proof.Machine.execJoinArm h j s
  | .joinWait h j => Sys2Proof.Machine.execJoinWait h j s
  | .joinBreak h j => Sys2Proof.Machine.execJoinBreak h j s
  | .exit h => Sys2Proof.Machine.execExit h s
  | .nop h => Sys2Proof.Machine.execNop h s
  | .yield h => Sys2Proof.Machine.execYield h s
  | .vpoint h n => Sys2Proof.Machine.execVpoint h n s
  | .fadd h d ty rnd a b => Sys2Proof.Machine.execFadd h d ty rnd a b s
  | .faddImm h d ty rnd a imm => Sys2Proof.Machine.execFaddImm h d ty rnd a imm s
  | .fsub h d ty rnd a b => Sys2Proof.Machine.execFsub h d ty rnd a b s
  | .fmul h d ty rnd a b => Sys2Proof.Machine.execFmul h d ty rnd a b s
  | .fmulImm h d ty rnd a imm => Sys2Proof.Machine.execFmulImm h d ty rnd a imm s
  | .fmac h d ty rnd a b c => Sys2Proof.Machine.execFmac h d ty rnd a b c s
  | .fmin h d ty a b => Sys2Proof.Machine.execFmin h d ty a b s
  | .fminImm h d ty a imm => Sys2Proof.Machine.execFminImm h d ty a imm s
  | .fmax h d ty a b => Sys2Proof.Machine.execFmax h d ty a b s
  | .fmaxImm h d ty a imm => Sys2Proof.Machine.execFmaxImm h d ty a imm s
  | .fabs h d ty a => Sys2Proof.Machine.execFabs h d ty a s
  | .fneg h d ty a => Sys2Proof.Machine.execFneg h d ty a s
  | .fdiv h d ty rnd a b => Sys2Proof.Machine.execFdiv h d ty rnd a b s
  | .fcmp h d ty cmp a b => Sys2Proof.Machine.execFcmp h d ty cmp a b s
  | .fclass h d ty a => Sys2Proof.Machine.execFclass h d ty a s
  | .fsqrt h d ty rnd a => Sys2Proof.Machine.execFsqrt h d ty rnd a s
  | .frcp h d a => Sys2Proof.Machine.execFrcp h d a s
  | .frsq h d a => Sys2Proof.Machine.execFrsq h d a s
  | .fexp2 h d a => Sys2Proof.Machine.execFexp2 h d a s
  | .flog2 h d a => Sys2Proof.Machine.execFlog2 h d a s
  | .fsin h d a => Sys2Proof.Machine.execFsin h d a s
  | .fcos h d a => Sys2Proof.Machine.execFcos h d a s
  | .ftanh h d a => Sys2Proof.Machine.execFtanh h d a s
  | .f2add h d ty rnd a b => Sys2Proof.Machine.execF2add h d ty rnd a b s
  | .f2mul h d ty rnd a b => Sys2Proof.Machine.execF2mul h d ty rnd a b s
  | .f2mac h d ty rnd a b c => Sys2Proof.Machine.execF2mac h d ty rnd a b c s
  | .f2min h d ty a b => Sys2Proof.Machine.execF2min h d ty a b s
  | .f2max h d ty a b => Sys2Proof.Machine.execF2max h d ty a b s
  | .cvt h d td ts rnd satf a => Sys2Proof.Machine.execCvt h d td ts rnd satf a s
  | .pcvt h d td ts cnt rnd satf a sc => Sys2Proof.Machine.execPcvt h d td ts cnt rnd satf a sc s
  | .fmtw h d a => Sys2Proof.Machine.execFmtw h d a s
  | .fmtwImm h d imm => Sys2Proof.Machine.execFmtwImm h d imm s
  | .pack h d ty a b => Sys2Proof.Machine.execPack h d ty a b s
  | .unpk h d ty sx a => Sys2Proof.Machine.execUnpk h d ty sx a s
  | .frnd h d ty rnd a => Sys2Proof.Machine.execFrnd h d ty rnd a s
  | .fldex h d ty rnd a b => Sys2Proof.Machine.execFldex h d ty rnd a b s
  | .ld h r sz q b off imm => Sys2Proof.Machine.execLd h r sz q b off imm s
  | .st h sz q b off dat imm => Sys2Proof.Machine.execSt h sz q b off dat imm s
  | .ldx h r sz q addr imm => Sys2Proof.Machine.execLdx h r sz q addr imm s
  | .stx h sz q addr dat imm => Sys2Proof.Machine.execStx h sz q addr dat imm s
  | .lds h r sz q bead off imm => Sys2Proof.Machine.execLds h r sz q bead off imm s
  | .sts h sz q fill off dat imm => Sys2Proof.Machine.execSts h sz q fill off dat imm s
  | .ldcl h r sz q cw imm => Sys2Proof.Machine.execLdcl h r sz q cw imm s
  | .stcl h sz q cw dat imm => Sys2Proof.Machine.execStcl h sz q cw dat imm s
  | .bset h off imm => Sys2Proof.Machine.execBset h off imm s
  | .bclr h off imm => Sys2Proof.Machine.execBclr h off imm s
  | .btest h d off imm => Sys2Proof.Machine.execBtest h d off imm s
  | .pref h mlc pol b bar => Sys2Proof.Machine.execPref h mlc pol b bar s
  | .prefDemote h b => Sys2Proof.Machine.execPrefDemote h b s
  | .bridge h d1 d2 scope => Sys2Proof.Machine.execBridge h d1 d2 scope s
  | .fence h dom scope ord => Sys2Proof.Machine.execFence h dom scope ord s
  | .monitor h dom scope addr imm => Sys2Proof.Machine.execMonitor h dom scope addr imm s
  | .mwait h d limit => Sys2Proof.Machine.execMwait h d limit s
  | .acvtTogen h d space off => Sys2Proof.Machine.execAcvtTogen h d space off s
  | .acvtFromgen h d space addr => Sys2Proof.Machine.execAcvtFromgen h d space addr s
  | .atest h d space addr => Sys2Proof.Machine.execAtest h d space addr s
  | .ldrec h q b addr imm => Sys2Proof.Machine.execLdrec h q b addr imm s
  | .atom h r op wide q am b addr dat imm => Sys2Proof.Machine.execAtom h r op wide q am b addr dat imm s
  | .red h op wide q am b addr dat imm => Sys2Proof.Machine.execRed h op wide q am b addr dat imm s
  | .rally h id count => Sys2Proof.Machine.execRally h id count s
  | .rallyGo h id count => Sys2Proof.Machine.execRallyGo h id count s
  | .crally h => Sys2Proof.Machine.execCrally h s
  | .crallyGo h => Sys2Proof.Machine.execCrallyGo h s
  | .crallyHold h => Sys2Proof.Machine.execCrallyHold h s
  | .barinit h off count imm => Sys2Proof.Machine.execBarinit h off count imm s
  | .arrive h d off n imm => Sys2Proof.Machine.execArrive h d off n imm s
  | .trywait h d off tok imm => Sys2Proof.Machine.execTrywait h d off tok imm s
  | .wait h off tok imm => Sys2Proof.Machine.execWait h off tok imm s
  | .mxacq h => Sys2Proof.Machine.execMxacq h s
  | .mxrel h => Sys2Proof.Machine.execMxrel h s
  | .mma h acc cv fmt ads dh rows ovw => Sys2Proof.Machine.execMma h acc cv fmt ads dh rows ovw s
  | .mxrun h acc cv fmt ads dh rows ovw => Sys2Proof.Machine.execMxrun h acc cv fmt ads dh rows ovw s
  | .mxwait h d cv => Sys2Proof.Machine.execMxwait h d cv s
  | .dkld h fmt addr dh slot isRef => Sys2Proof.Machine.execDkld h fmt addr dh slot isRef s
  | .dkfree h dh => Sys2Proof.Machine.execDkfree h dh s
  | .accz h acc => Sys2Proof.Machine.execAccz h acc s
  | .accrd h acc cv row off rows => Sys2Proof.Machine.execAccrd h acc cv row off rows s
  | .accwr h acc cv row off rows => Sys2Proof.Machine.execAccwr h acc cv row off rows s
  | .acccvt h acc cv cw off rows => Sys2Proof.Machine.execAcccvt h acc cv cw off rows s
  | .accstat h d acc clr => Sys2Proof.Machine.execAccstat h d acc clr s
  | .opfence h => Sys2Proof.Machine.execOpfence h s
  | .xpost h d off count => Sys2Proof.Machine.execXpost h d off count s
  | .xcancel h d id => Sys2Proof.Machine.execXcancel h d id s
  | .xquery h d id => Sys2Proof.Machine.execXquery h d id s
  | .trap h code => Sys2Proof.Machine.execTrap h code s
  | .svcInfo h d a b => Sys2Proof.Machine.execSvcInfo h d a b s
  | .svcReside h d a b => Sys2Proof.Machine.execSvcReside h d a b s
  | .svcNotify h d a b => Sys2Proof.Machine.execSvcNotify h d a b s
  | .svcBias h d a b => Sys2Proof.Machine.execSvcBias h d a b s
  | .svcUndefined h d n a b => Sys2Proof.Machine.execSvcUndefined h d n a b s
  | .resume h => Sys2Proof.Machine.execResume h s
  | .resumeNext h => Sys2Proof.Machine.execResumeNext h s
  | .frec h d field rec => Sys2Proof.Machine.execFrec h d field rec s
  | .ffixMap h d rec => Sys2Proof.Machine.execFfixMap h d rec s
  | .ffixEmul h d rec dat => Sys2Proof.Machine.execFfixEmul h d rec dat s
  | .ffixSkip h rec => Sys2Proof.Machine.execFfixSkip h rec s
  | .bpt h id => Sys2Proof.Machine.execBpt h id s
  | .srd h d idx => Sys2Proof.Machine.execSrd h d idx s
  | .swr h idx a => Sys2Proof.Machine.execSwr h idx a s
  | .acct h d cause quad saved => Sys2Proof.Machine.execAcct h d cause quad saved s
  | .acctSnap h => Sys2Proof.Machine.execAcctSnap h s
  | .cnt h d n shadow => Sys2Proof.Machine.execCnt h d n shadow s
  | .mark h code a => Sys2Proof.Machine.execMark h code a s
  | .runFetch warp grp => Sys2Proof.Machine.execRunFetch warp grp s
  | .quadrantArbitration core quad => Sys2Proof.Machine.execQuadrantArbitration core quad s
  | .longLatencyResult warp id => Sys2Proof.Machine.execLongLatencyResult warp id s
  | .swapOut core quad => Sys2Proof.Machine.execSwapOut core quad s
  | .swapIn core quad => Sys2Proof.Machine.execSwapIn core quad s
  | .swapMoveComplete warp => Sys2Proof.Machine.execSwapMoveComplete warp s
  | .loadDataArrival warp txn acc => Sys2Proof.Machine.execLoadDataArrival warp txn acc s
  | .storeAcknowledge warp txn acc => Sys2Proof.Machine.execStoreAcknowledge warp txn acc s
  | .storeDrain warp txn acc => Sys2Proof.Machine.execStoreDrain warp txn acc s
  | .causalUpdate die => Sys2Proof.Machine.execCausalUpdate die s
  | .publishDemand warp txn => Sys2Proof.Machine.execPublishDemand warp txn s
  | .memorySideFaultReport warp txn => Sys2Proof.Machine.execMemorySideFaultReport warp txn s
  | .memPark warp => Sys2Proof.Machine.execMemPark warp s
  | .autoResolution warp rec ans => Sys2Proof.Machine.execAutoResolution warp rec ans s
  | .trapVector warp => Sys2Proof.Machine.execTrapVector warp s
  | .usxonMappingAnswer warp grp ans => Sys2Proof.Machine.execUsxonMappingAnswer warp grp ans s
  | .hostFaultAnswer warp rec ans => Sys2Proof.Machine.execHostFaultAnswer warp rec ans s
  | .mtuWalk warp txn acc => Sys2Proof.Machine.execMtuWalk warp txn acc s
  | .atsReply die ctx page ans => Sys2Proof.Machine.execAtsReply die ctx page ans s
  | .priResponse ctx page success => Sys2Proof.Machine.execPriResponse ctx page success s
  | .invalidation ctx lo hi => Sys2Proof.Machine.execInvalidation ctx lo hi s
  | .invalidationAck die idx => Sys2Proof.Machine.execInvalidationAck die idx s
  | .domainFloorChange ctx ia floor => Sys2Proof.Machine.execDomainFloorChange ctx ia floor s
  | .pageMigration ctx ia dst ok => Sys2Proof.Machine.execPageMigration ctx ia dst ok s
  | .beadWaitEnd warp grp => Sys2Proof.Machine.execBeadWaitEnd warp grp s
  | .monitorCompare warp => Sys2Proof.Machine.execMonitorCompare warp s
  | .monitorPoll warp => Sys2Proof.Machine.execMonitorPoll warp s
  | .mwaitDeadline warp grp => Sys2Proof.Machine.execMwaitDeadline warp grp s
  | .prefetchProgress core idx bytes => Sys2Proof.Machine.execPrefetchProgress core idx bytes s
  | .engineGrant core => Sys2Proof.Machine.execEngineGrant core s
  | .mmaExecute core => Sys2Proof.Machine.execMmaExecute core s
  | .mxrunStep core => Sys2Proof.Machine.execMxrunStep core s
  | .acczExecute core => Sys2Proof.Machine.execAcczExecute core s
  | .accrdExecute core => Sys2Proof.Machine.execAccrdExecute core s
  | .accwrExecute core => Sys2Proof.Machine.execAccwrExecute core s
  | .acccvtExecute core => Sys2Proof.Machine.execAcccvtExecute core s
  | .eccReplay core => Sys2Proof.Machine.execEccReplay core s
  | .deckFillComplete core idx => Sys2Proof.Machine.execDeckFillComplete core idx s
  | .requestHandoff core => Sys2Proof.Machine.execRequestHandoff core s
  | .copyGranule engine => Sys2Proof.Machine.execCopyGranule engine s
  | .routeEntry engine => Sys2Proof.Machine.execRouteEntry engine s
  | .routeClaimReturn engine idx => Sys2Proof.Machine.execRouteClaimReturn engine idx s
  | .submissionEntryTake iface q => Sys2Proof.Machine.execSubmissionEntryTake iface q s
  | .dependencesSatisfied launch => Sys2Proof.Machine.execDependencesSatisfied launch s
  | .blockDispatch core launch => Sys2Proof.Machine.execBlockDispatch core launch s
  | .clusterReservation launch die => Sys2Proof.Machine.execClusterReservation launch die s
  | .reservationBackoffExpiry launch die => Sys2Proof.Machine.execReservationBackoffExpiry launch die s
  | .vpointJoinsDone block => Sys2Proof.Machine.execVpointJoinsDone block s
  | .variantMove block => Sys2Proof.Machine.execVariantMove block s
  | .variantMoveComplete block => Sys2Proof.Machine.execVariantMoveComplete block s
  | .blockEnd block => Sys2Proof.Machine.execBlockEnd block s
  | .blockKill block => Sys2Proof.Machine.execBlockKill block s
  | .launchComplete launch => Sys2Proof.Machine.execLaunchComplete launch s
  | .sliceExpiry iface q => Sys2Proof.Machine.execSliceExpiry iface q s
  | .preemptStopRequest core => Sys2Proof.Machine.execPreemptStopRequest core s
  | .preemptSaveComplete core => Sys2Proof.Machine.execPreemptSaveComplete core s
  | .restore save core => Sys2Proof.Machine.execRestore save core s
  | .debugHalt warp lanes => Sys2Proof.Machine.execDebugHalt warp lanes s
  | .debugRelease warp lanes => Sys2Proof.Machine.execDebugRelease warp lanes s
  | .poisonDetect addr => Sys2Proof.Machine.execPoisonDetect addr s
  | .liveStateError block => Sys2Proof.Machine.execLiveStateError block s
  | .correctedEccEvent site => Sys2Proof.Machine.execCorrectedEccEvent site s
  | .controlParityError core => Sys2Proof.Machine.execControlParityError core s
  | .hbmScrub => Sys2Proof.Machine.execHbmScrub s
  | .mlcScrub => Sys2Proof.Machine.execMlcScrub s
  | .globalTrigger t => Sys2Proof.Machine.execGlobalTrigger t s
  | .seriesTick ctx => Sys2Proof.Machine.execSeriesTick ctx s
  | .svcReply warp grp resident => Sys2Proof.Machine.execSvcReply warp grp resident s
  | .sqDoorbell iface q tail => Sys2Proof.Machine.execSqDoorbell iface q tail s
  | .cqheadWrite iface q head => Sys2Proof.Machine.execCqheadWrite iface q head s
  | .queueEnable iface q => Sys2Proof.Machine.execQueueEnable iface q s
  | .queueRegisterWrite iface q field value => Sys2Proof.Machine.execQueueRegisterWrite iface q field value s
  | .ctxCreate iface root devBase devLen hostBase => Sys2Proof.Machine.execCtxCreate iface root devBase devLen hostBase s
  | .ctxDestroy iface => Sys2Proof.Machine.execCtxDestroy iface s
  | .windowSet iface => Sys2Proof.Machine.execWindowSet iface s
  | .queueBind iface => Sys2Proof.Machine.execQueueBind iface s
  | .biasSet iface => Sys2Proof.Machine.execBiasSet iface s
  | .debugAttach iface => Sys2Proof.Machine.execDebugAttach iface s
  | .traceSet iface => Sys2Proof.Machine.execTraceSet iface s
  | .acctRead iface => Sys2Proof.Machine.execAcctRead iface s
  | .vfBudget iface => Sys2Proof.Machine.execVfBudget iface s
  | .vfQueue iface => Sys2Proof.Machine.execVfQueue iface s
  | .saveRead iface => Sys2Proof.Machine.execSaveRead iface s
  | .acctAny iface => Sys2Proof.Machine.execAcctAny iface s
  | .mailboxCommandComplete iface => Sys2Proof.Machine.execMailboxCommandComplete iface s
  | .mailboxGo iface cmd a0 a1 a2 => Sys2Proof.Machine.execMailboxGo iface cmd a0 a1 a2 s
  | .functionLevelReset iface => Sys2Proof.Machine.execFunctionLevelReset iface s
  | .tdiConfigWrite iface => Sys2Proof.Machine.execTdiConfigWrite iface s
  | .tdispRequest iface req => Sys2Proof.Machine.execTdispRequest iface req s
  | .spdmRequest index => Sys2Proof.Machine.execSpdmRequest index s
  | .configurationRequest iface => Sys2Proof.Machine.execConfigurationRequest iface s
  | .hostCxlMemAccess pa acc => Sys2Proof.Machine.execHostCxlMemAccess pa acc s
  | .hostSnoop addr acc => Sys2Proof.Machine.execHostSnoop addr acc s
  | .fabricRequest peer pa acc => Sys2Proof.Machine.execFabricRequest peer pa acc s
  | .peerLineMiss fa modified bytes granted => Sys2Proof.Machine.execPeerLineMiss fa modified bytes granted s
  | .directoryInvalidation line => Sys2Proof.Machine.execDirectoryInvalidation line s
  | .peerWriteback fa => Sys2Proof.Machine.execPeerWriteback fa s
  | .fabricPlaneFailure plane => Sys2Proof.Machine.execFabricPlaneFailure plane s
  | .planeDrainTimeout => Sys2Proof.Machine.execPlaneDrainTimeout s
  | .powerPointChange die point => Sys2Proof.Machine.execPowerPointChange die point s
  | .thermalLimit die => Sys2Proof.Machine.execThermalLimit die s
  | .thermalShutdown => Sys2Proof.Machine.execThermalShutdown s
  | .corePowerGate core => Sys2Proof.Machine.execCorePowerGate core s
  | .powerRemoval => Sys2Proof.Machine.execPowerRemoval s
  | .perstDeassert => Sys2Proof.Machine.execPerstDeassert s
  | .interfaceBudgetWindow iface bytes power => Sys2Proof.Machine.execInterfaceBudgetWindow iface bytes power s

end Sys2Proof.Machine
end

