-- ==== Sys2Proof/Machine/Loader.lean ====
section
/-! DEFINITION. A machine in which a given instruction is the next to issue: what stands for bringing the module up,
creating a context, and loading and launching a program of one instruction (log 4). -/

namespace Sys2Proof.Machine

/-- Where the instruction stands. -/
def loadPc : Nat := 0x10000

/-- The launch record: one block of one warp, one variant of 256 registers and a 4 KiB window (R285, R286, R292). -/
def loadRecord : Nat :=
  loadPc + 1 * 2 ^ 64 + 4 * 2 ^ 67 + 1 * 2 ^ 128 + (1 + 2 * 2 ^ 16) * 2 ^ 320 + 5 * 2 ^ 16 * 2 ^ 352
    + (256 * 2 ^ 32 + 4 * 2 ^ 41 + 1 * 2 ^ 52) * 2 ^ 1024

/-- The launch. -/
def loadLaunch : Launch :=
  { id := 0, lid := 1, iface := 0, queue := 0, ctx := 1, marker := false, record := BitVec.ofNat 4096 loadRecord, tag := 0,
    st := .running, cls := 0, weight := 1, count := 1, tickets := List.replicate 4 ⟨[], 0, 0, false⟩, ended := 0, killed := 0,
    tries := [], resv := [], tables := some [], stuck := none }

/-- The context: window 0 maps VA 0 to 0xFFFFF to the same IA, to be read, written and fetched. -/
def loadCtx : Ctx :=
  { id := 1, iface := 0, alive := true, dying := false, conf := false, ways := 0, pasid := none, root := 0x20000, devBase := 0,
    devLen := 2 ^ 30, hostBase := 0, hostLen := 0,
    win := BitVec.ofNat 128 (0x17 * 2 ^ 122 + 0xF * 2 ^ 41) :: List.replicate 7 0,
    keySlot := none, dbg := none, trace := none, series := none, cntMask := 0, acct := [], cnt := [], tick := 0, ticked := 0, hregion := false }

/-- The block. -/
def loadBlock : Block :=
  { id := 0, launch := 0, ctx := 1, index := 0, attempt := 0, variant := 0, core := 0, rank := 0, clus := 0, base := 262144,
    size := 4096, clock := 0, warps := [0], cv := List.replicate 8 default, dh := List.replicate 16 default,
    rally := List.replicate 16 ⟨none, [], [], 0⟩, crArr := 0, crLanes := [], crPhase := 0, vp := .none, nextReq := 0, reqs := [],
    aside := [], ecol := false, saved := false, kill := none, ended := false, order := 0 }

/-- A run that holds the instruction, and a NOP that ends it when the instruction does not. -/
def loadRun (x : Form) : List Fetched :=
  let f : Fetched := ⟨BitVec.ofNat 64 loadPc, x.word, x.len, x.bad⟩
  if f.ends then [f] else [f, ⟨f.next, encode (.nop ⟨true, 0, false⟩), 12, false⟩]

/-- The page table of the context, the instruction's bytes and those of the NOP. -/
def loadMem (m : List Host.Cell) (bs : List Byte) (run : List Fetched) : List Host.Cell :=
  let m1 := memWriteN (memWriteN m 0x20000 8 0x30001) 0x30000 8 0x4F
  memWriteL m1 loadPc (bs ++ (match run with | [_, f] => leBytes 12 f.word.toNat | _ => []))

/-- The machine with an instruction of the given stored bits as the next to issue, on side A of core 0's quadrant
0. -/
def loadWord (s : State) (x : Nat) : State :=
  match takeForm (leBytes 12 x) with
  | none => s
  | some f =>
    let run := loadRun f
    let pc := BitVec.ofNat 64 loadPc
    let g : Group := ⟨0, BitVec.allOnes 32, ⟨pc, run, 0⟩, none, 0, []⟩
    let warp := { newWarp loadLaunch 0 0 0 0 s.ctr (.seated 0) none pc with groups := [g] }
    let quad := { Quad.empty with seats := some 0 :: List.replicate 15 none, hold := some 0, a := some 0 }
    let core := { Core.reset with ctx := some 1, last := 1, quads := quad :: List.replicate 3 .empty, gated := false }
    { s with
      warps := [warp], blocks := [loadBlock], launches := [loadLaunch], ctxs := [loadCtx], saves := []
      cores := core :: List.replicate 63 .reset
      mem := loadMem s.mem (leBytes f.len x) run
      seals := []
      debt := [0, 2000, 2000, 2000, 2000]
      boot := .up, sched := [], focus := ⟨0, 0, .A⟩, iss := none }

end Sys2Proof.Machine
end

