-- ==== Sys2Proof/Machine/Step.lean ====
section
/-! DEFINITION. One step: the event that the schedule names, or else the next issue slot (log 1). -/

namespace Sys2Proof.Machine

/-- An instruction issues in its slot, and the slot ends. -/
def issueSlot (i : Instr) (s : State) : Host.Outcome State Fault Refusal :=
  match exec i s with
  | .next t => .next (afterSlot t)
  | .fault r => .fault r
  | .refused r => .refused r

/-- One step of the machine. An entry of the schedule that names no event is passed over; one of them goes only between
the cycles of a core. -/
def step (s : State) : Host.Outcome State Fault Refusal :=
  match if s.between then s.sched else [] with
  | e :: rest => if isEvent e then exec e { s with sched := rest } else .next { s with sched := rest }
  | [] =>
    match nextSlot s with
    | .event i => exec i s
    | .issue i t => issueSlot i t
    | .pass t => .next t

/-- The machine with an instruction's bits where the next step issues it. The number of bits plays no part: a form's
length is in its first bit (R49). -/
def State.withFetchWord (s : State) (_nbits w : Nat) : State := loadWord s w

end Sys2Proof.Machine
end

