-- ==== Sys2Proof/Laws/Cells.lean ====
section
/-! SUPPORT. Laws of the sparse tables: what a read finds after a write, and that keys stay rising. -/

namespace Sys2Proof.Machine

variable {α : Type}

theorem csorted_iff_pairwise (c : Cells α) : csorted c = true ↔ c.Pairwise (fun p q => p.1 < q.1) := by
  induction c with
  | nil => simp [csorted]
  | cons p r ih =>
    cases r with
    | nil => simp [csorted]
    | cons q r =>
      rw [csorted, Bool.and_eq_true, ih, List.pairwise_cons (a := p)]
      constructor
      · rintro ⟨h, hr⟩
        refine ⟨fun x hx => ?_, hr⟩
        rcases List.mem_cons.1 hx with rfl | hx
        · simpa using h
        · exact Nat.lt_trans (by simpa using h) ((List.pairwise_cons.1 hr).1 x hx)
      · rintro ⟨h, hr⟩
        exact ⟨by simpa using h q (by simp), hr⟩

theorem csorted_nil : csorted ([] : Cells α) = true := rfl

theorem csorted_filter {c : Cells α} (h : csorted c = true) (p : Nat × α → Bool) : csorted (c.filter p) = true :=
  (csorted_iff_pairwise _).2 (((csorted_iff_pairwise c).1 h).filter p)

theorem csorted_cdel {c : Cells α} (h : csorted c = true) (k : Nat) : csorted (cdel c k) = true := csorted_filter h _

theorem csorted_cclear {c : Cells α} (h : csorted c = true) (lo hi : Nat) : csorted (cclear c lo hi) = true := csorted_filter h _

theorem mem_cins {c : Cells α} {k : Nat} {v : α} {x : Nat × α} : x ∈ cins c k v ↔ x = (k, v) ∨ x ∈ c := by
  induction c with
  | nil => simp [cins]
  | cons p r ih =>
    rw [cins]
    split
    · simp
    · simp only [List.mem_cons, ih, or_left_comm]

theorem csorted_cins {c : Cells α} (h : csorted c = true) {k : Nat} (hk : ∀ p ∈ c, p.1 ≠ k) (v : α) :
    csorted (cins c k v) = true := by
  rw [csorted_iff_pairwise] at *
  induction c with
  | nil => simp [cins]
  | cons p r ih =>
    obtain ⟨hp, hr⟩ := List.pairwise_cons.1 h
    rw [cins]
    split
    · rename_i hlt
      refine List.pairwise_cons.2 ⟨fun x hx => ?_, h⟩
      rcases List.mem_cons.1 hx with rfl | hx
      · exact hlt
      · exact Nat.lt_trans hlt (hp x hx)
    · rename_i hge
      refine List.pairwise_cons.2 ⟨fun x hx => ?_, ih hr (fun q hq => hk q (by simp [hq]))⟩
      rcases mem_cins.1 hx with rfl | hx
      · have := hk p (by simp); simp only; omega
      · exact hp x hx

theorem csorted_cput {c : Cells α} (h : csorted c = true) (k : Nat) (v : α) : csorted (cput c k v) = true :=
  csorted_cins (csorted_cdel h k) (by simp [cdel]) v

theorem csorted_cset [DecidableEq α] {c : Cells α} (h : csorted c = true) (d : α) (k : Nat) (v : α) :
    csorted (cset c d k v) = true := by
  rw [cset]; split
  · exact csorted_cdel h k
  · exact csorted_cput h k v

theorem cget_nil (d : α) (k : Nat) : cget ([] : Cells α) d k = d := rfl

theorem cget_cons (p : Nat × α) (c : Cells α) (d : α) (k : Nat) :
    cget (p :: c) d k = if p.1 = k then p.2 else cget c d k := by
  simp only [cget, List.find?_cons]
  by_cases h : p.1 = k
  · simp [h]
  · have : (p.1 == k) = false := by simpa using h
    simp [h, this]

theorem cget_filter (c : Cells α) (d : α) (k : Nat) (f : Nat → Bool) :
    cget (c.filter (fun p => f p.1)) d k = if f k then cget c d k else d := by
  induction c with
  | nil => simp [cget_nil]
  | cons p r ih =>
    rw [List.filter_cons]
    by_cases hp : f p.1
    · simp only [hp, if_true, cget_cons, ih]
      by_cases hk : p.1 = k
      · subst hk; simp [hp]
      · simp [hk]
    · simp only [hp]
      rw [if_neg (by simp), ih, cget_cons]
      by_cases hk : p.1 = k
      · subst hk; simp [hp]
      · simp [hk]

theorem cget_cdel (c : Cells α) (d : α) (k k' : Nat) : cget (cdel c k) d k' = if k' = k then d else cget c d k' := by
  rw [cdel, cget_filter c d k' (fun x => x != k)]
  by_cases h : k' = k <;> simp [h]

theorem cget_cclear (c : Cells α) (d : α) (lo hi k : Nat) :
    cget (cclear c lo hi) d k = if lo ≤ k ∧ k < hi then d else cget c d k := by
  rw [cclear, cget_filter c d k (fun x => decide (x < lo) || decide (hi ≤ x))]
  by_cases h : lo ≤ k ∧ k < hi
  · rw [if_pos h, if_neg]; simp; omega
  · rw [if_neg h, if_pos]; simp; omega

theorem cget_cins (c : Cells α) (d : α) (k : Nat) (v : α) (hk : ∀ p ∈ c, p.1 ≠ k) (k' : Nat) :
    cget (cins c k v) d k' = if k' = k then v else cget c d k' := by
  induction c with
  | nil => simp [cins, cget_cons, cget_nil, eq_comm]
  | cons p r ih =>
    have hp := hk p (by simp)
    rw [cins]
    split
    · simp [cget_cons, eq_comm]
    · rw [cget_cons, ih (fun q hq => hk q (by simp [hq])), cget_cons]
      by_cases h : k' = k
      · subst h; simp [hp]
      · simp [h]

theorem cget_cput (c : Cells α) (d : α) (k : Nat) (v : α) (k' : Nat) :
    cget (cput c k v) d k' = if k' = k then v else cget c d k' := by
  rw [cput, cget_cins _ _ _ _ (by simp [cdel]), cget_cdel]
  by_cases h : k' = k <;> simp [h]

/-- A read after a write finds the value at its key and leaves every other key alone. -/
theorem cget_cset [DecidableEq α] (c : Cells α) (d : α) (k : Nat) (v : α) (k' : Nat) :
    cget (cset c d k v) d k' = if k' = k then v else cget c d k' := by
  rw [cset]; split
  · rename_i h; rw [cget_cdel]; simp [h]
  · exact cget_cput c d k v k'

end Sys2Proof.Machine
end

