-- ==== Sys2Proof/Laws/Mem.lean ====
section
/-! SUPPORT. Laws of memory: a read after a write, what a write leaves alone, and the canonical form that every memory
operation keeps. -/

namespace Sys2Proof.Machine

theorem wf_nil : Memory.wf [] = true := rfl

theorem wf_filter {m : List Host.Cell} (h : Memory.wf m = true) (p : Host.Cell → Bool) : Memory.wf (m.filter p) = true := by
  simp only [Memory.wf, Bool.and_eq_true, List.all_eq_true] at h ⊢
  exact ⟨csorted_filter h.1 p, fun x hx => h.2 x (List.mem_filter.1 hx).1⟩

/-- Writing a byte keeps the canonical form. -/
theorem wf_memSet {m : List Host.Cell} (h : Memory.wf m = true) (l : Nat) (b : Byte) : Memory.wf (memSet m l b) = true := by
  have hd : Memory.wf (cdel m l) = true := wf_filter h _
  rw [memSet, cset]
  split
  · exact hd
  · rename_i hb
    simp only [Memory.wf, Bool.and_eq_true, List.all_eq_true] at h hd ⊢
    refine ⟨csorted_cput h.1 l b, fun x hx => ?_⟩
    rcases mem_cins.1 hx with rfl | hx
    · simpa using hb
    · exact hd.2 x hx

theorem wf_memWriteL {m : List Host.Cell} (h : Memory.wf m = true) (bs : List Byte) (l : Nat) :
    Memory.wf (memWriteL m l bs) = true := by
  induction bs generalizing m l with
  | nil => exact h
  | cons b r ih => exact ih (wf_memSet h l b) (l + 1)

theorem wf_memWriteN {m : List Host.Cell} (h : Memory.wf m = true) (l n x : Nat) : Memory.wf (memWriteN m l n x) = true :=
  wf_memWriteL h _ l

theorem wf_foldl {β : Type} {f : List Host.Cell → β → List Host.Cell} (hf : ∀ m b, Memory.wf m = true → Memory.wf (f m b) = true)
    (bs : List β) {m : List Host.Cell} (h : Memory.wf m = true) : Memory.wf (bs.foldl f m) = true := by
  induction bs generalizing m with
  | nil => exact h
  | cons b r ih => exact ih (hf m b h)

/-- A read after a write of one byte. -/
theorem memGet_memSet (m : List Host.Cell) (l k : Nat) (b : Byte) :
    memGet (memSet m l b) k = if k = l then b else memGet m k := by
  simp only [memGet, memSet]
  by_cases h : k = l
  · subst h; rw [cget_cset]
  · rw [if_neg h, cset]
    split
    · rw [cget_cdel, if_neg h]
    · rw [cget_cput, if_neg h]

theorem leBytes_length (n x : Nat) : (leBytes n x).length = n := by
  induction n generalizing x with
  | zero => rfl
  | succ n ih => simp [leBytes, ih]

theorem memGet_memWriteL (m : List Host.Cell) (bs : List Byte) (l k : Nat) :
    memGet (memWriteL m l bs) k = if h : l ≤ k ∧ k < l + bs.length then bs[k - l]'(by omega) else memGet m k := by
  induction bs generalizing m l with
  | nil => rw [dif_neg (by simp only [List.length_nil]; omega)]; rfl
  | cons b r ih =>
    rw [memWriteL, ih, memGet_memSet]
    simp only [List.length_cons]
    by_cases h1 : k = l
    · subst h1
      rw [dif_neg (by omega), if_pos rfl, dif_pos (by omega)]
      simp
    · by_cases h2 : l + 1 ≤ k ∧ k < l + 1 + r.length
      · have h3 : l ≤ k ∧ k < l + (r.length + 1) := by omega
        simp only [h2, h3, and_self, dite_true]
        have : k - l = (k - (l + 1)) + 1 := by omega
        simp only [this, List.getElem_cons_succ]
      · have h3 : ¬ (l ≤ k ∧ k < l + (r.length + 1)) := by omega
        rw [dif_neg h2, dif_neg h3, if_neg h1]

/-- A write leaves every byte outside it alone. -/
theorem memGet_memWriteN_out (m : List Host.Cell) (l n x k : Nat) (h : k < l ∨ l + n ≤ k) :
    memGet (memWriteN m l n x) k = memGet m k := by
  rw [memWriteN, memGet_memWriteL, dif_neg]
  rw [leBytes_length]; omega

theorem leBytes_getElem (n x i : Nat) (h : i < (leBytes n x).length) : (leBytes n x)[i] = BitVec.ofNat 8 (x / 256 ^ i) := by
  induction n generalizing x i with
  | zero => simp [leBytes] at h
  | succ n ih =>
    cases i with
    | zero => simp [leBytes]
    | succ i =>
      simp only [leBytes, List.getElem_cons_succ]
      rw [ih, Nat.div_div_eq_div_mul, Nat.pow_succ, Nat.mul_comm 256]

/-- The bytes of a write, lowest first (R4). -/
theorem memGet_memWriteN_in (m : List Host.Cell) (l n x i : Nat) (h : i < n) :
    memGet (memWriteN m l n x) (l + i) = BitVec.ofNat 8 (x / 256 ^ i) := by
  rw [memWriteN, memGet_memWriteL, dif_pos ⟨by omega, by rw [leBytes_length]; omega⟩, leBytes_getElem]
  simp

theorem memReadN_congr {m m' : List Host.Cell} (n l : Nat) (h : ∀ i, i < n → memGet m (l + i) = memGet m' (l + i)) :
    memReadN m l n = memReadN m' l n := by
  induction n generalizing l with
  | zero => rfl
  | succ n ih =>
    have h0 := h 0 (by omega)
    rw [memReadN, memReadN, ih (l + 1) (fun i hi => by have := h (i + 1) (by omega); rwa [show l + 1 + i = l + (i + 1) by omega]), show memGet m l = memGet m' l from h0]

/-- A read of the bytes just written gives the value written. -/
theorem memReadN_memWriteN (m : List Host.Cell) (l n x : Nat) : memReadN (memWriteN m l n x) l n = x % 256 ^ n := by
  have key : ∀ n l x (m : List Host.Cell), (∀ i, i < n → memGet m (l + i) = BitVec.ofNat 8 (x / 256 ^ i)) → memReadN m l n = x % 256 ^ n := by
    intro n
    induction n with
    | zero => intro l x m _; simp [memReadN, Nat.mod_one]
    | succ n ih =>
      intro l x m h
      rw [memReadN, ih (l + 1) (x / 256) m]
      · have h0 := h 0 (by omega)
        simp only [Nat.add_zero, Nat.pow_zero, Nat.div_one] at h0
        rw [h0, BitVec.toNat_ofNat, Nat.pow_succ 256, Nat.mul_comm (256 ^ n), Nat.mod_mul]
      · intro i hi
        have := h (i + 1) (by omega)
        rw [show l + 1 + i = l + (i + 1) by omega, this, Nat.div_div_eq_div_mul, Nat.pow_succ, Nat.mul_comm 256]
  exact key n l x _ (fun i hi => memGet_memWriteN_in m l n x i hi)

end Sys2Proof.Machine
end

