-- ==== Sys2Proof/Safety.lean ====
section
/-! DEFINITION. What the claims speak of: runs, the invariant, an instruction that passes the gate, what an instruction
leaves in its registers, and what it leaves alone. -/

namespace Sys2Proof.Machine

/-! ### Runs -/

/-- The invariant that every step keeps: the one memory is in canonical form. -/
def State.Inv (s : State) : Prop := Memory.wf s.mem = true

/-- States that steps lead to. -/
inductive Reaches : State → State → Prop
  | refl (s : State) : Reaches s s
  | next {s t u : State} : Reaches s t → step t = .next u → Reaches s u

/-- A safe run never stops: from every state that it reaches, a step goes on. -/
def Safe (s : State) : Prop := ∀ t, Reaches s t → ∃ u, step t = .next u

/-! ### An instruction in its slot -/

/-- The instruction passes the gate, and c is what it sees; its warp exists with its 32 lanes, and its subgroup is one
of the warp's. -/
structure Goes (i : Instr) (s : State) (c : Cx) : Prop where
  gate : gate s i = .go c
  warp : c.iss.warp < s.warps.length
  lanes : (s.warp c.iss.warp).thr.length = 32
  group : (s.warp c.iss.warp).group? c.iss.gid = some c.g
  gid : c.g.gid = c.iss.gid

/-- The register file of the issuing warp. -/
def State.regs (s : State) (c : Cx) : RegFile := (s.warp c.iss.warp).rf
/-- A lane of the issuing warp. -/
def State.lane (s : State) (c : Cx) (l : Nat) : Thread := (s.warp c.iss.warp).thread l

/-- The v registers that the instruction frees (R19, R20): last reads of a subgroup that is the whole live warp, but for
the registers that it writes. -/
def Frees (c : Cx) (r : Nat) : Prop := c.g.mask = c.w.live ∧ (r, true) ∈ c.p.reads ∧ r ∉ c.p.writes

/-- The frame of an instruction that writes at most its one destination: it changes its own warp alone, of it the
registers, lanes and subgroups; v registers that it neither writes nor frees, predicates, uniform registers, records and
FPCTL keep their values, but for its destination. -/
structure Frame (c : Cx) (s t : State) : Prop where
  rest : t = { s with warps := t.warps, cores := t.cores, ctr := t.ctr, iss := t.iss }
  others : ∀ j, j ≠ c.iss.warp → t.warps[j]? = s.warps[j]?
  warp : let v := t.warp c.iss.warp
    v = { s.warp c.iss.warp with
      rf := v.rf, thr := v.thr, groups := v.groups, nextGid := v.nextGid, parkDue := v.parkDue, llr := v.llr }
  pool : ∃ n, t.cores = (s.modQuad c.iss.core c.iss.quad (fun q => { q with avail := n })).cores
  vregs : ∀ r l, l < 32 → r ∉ c.p.writes → ¬ Frees c r → (t.regs c).vget r l = (s.regs c).vget r l
  preds : ∀ q, (∀ r, c.p.dst = .q r → q ≠ r) → (t.regs c).pred q = (s.regs c).pred q
  sregs : ∀ n, (∀ r k, c.p.dst = .s r k → n ≠ r) → (t.regs c).sget n = (s.regs c).sget n
  recs : (t.regs c).b = (s.regs c).b
  fpctl : (t.regs c).fpctl = (s.regs c).fpctl

/-- The destination of an instruction that writes back holds x for lane l: a v group, lowest register first (R16), or
a predicate, which is set where x is not 0 (R61); q0 discards it (R24). -/
def Holds (c : Cx) (t : State) (l x : Nat) : Prop :=
  match c.p.dst with
  | .v r n => ∀ k, k < n → (t.regs c).vget (r + k) l = BitVec.ofNat 32 (x / 2 ^ (32 * k))
  | .q r => r ≠ 0 → hasLane ((t.regs c).pred r) l = (x != 0)
  | .s .. | .none => True

/-- The destination of an instruction with one result per lane, where it writes nothing in lane l: a register keeps its
value, and one that the instruction allocates reads 0 (R17). -/
def Keeps (c : Cx) (s t : State) (l : Nat) : Prop :=
  match c.p.dst with
  | .v r n => ∀ k, k < n → ¬ Frees c (r + k) → (t.regs c).vget (r + k) l =
      if (s.regs c).has (r + k) || c.act == 0 || c.p.d then (s.regs c).vget (r + k) l else 0
  | .q r => hasLane ((t.regs c).pred r) l = hasLane ((s.regs c).pred r) l
  | .s .. | .none => True

/-- What an instruction with one result per active lane leaves, when no lane raises an enabled exception: val is the
result of a lane with the exceptions it raised, n its registers and ty its type. -/
structure Results (c : Cx) (ty : Option Ty) (n : Nat) (val : Nat → Res) (s t : State) : Prop where
  frame : Frame c s t
  dest : c.p.d = false → ∀ l, hasLane c.act l → Holds c t l (val l).val
  idle : ∀ l, l < 32 → (c.p.d = true ∨ hasLane c.act l = false) → Keeps c s t l
  uniform : ∀ r k, c.p.dst = .s r k → (t.regs c).sget r =
    if c.p.d = false ∧ c.act ≠ 0 then uniExt ty n (val (lowLane c.act)).val else (s.regs c).sget r
  latch : c.iss.f.ends = false → ∀ lt, c.p.lt = some lt → ∀ l, hasLane c.act l →
    ((t.lane c l).lat.get lt.toNat).setWidth 32 = BitVec.ofNat 32 (val l).val ∧
      (n = 2 → (∀ r, c.p.dst ≠ .q r) → (t.lane c l).lat.get lt.toNat = BitVec.ofNat 64 (val l).val)
  flags : ∀ l, l < 32 → (t.lane c l).fpstat =
    if hasLane c.act l then (s.lane c l).fpstat ||| BitVec.ofNat 5 (val l).flags else (s.lane c l).fpstat

/-- The lane has come to the run start pc: it is in a subgroup that stands there, or a reported fault has stopped it
there (R442). -/
def Warp.standsAt (w : Warp) (l : Nat) (pc : W64) : Prop :=
  (∃ g ∈ w.groups, hasLane g.mask l ∧ g.startsAt pc) ∨ (w.thread l).st = .memStopped pc

/-- No two subgroups of the warp share a name, and the next name is fresh. -/
def Warp.Named (w : Warp) : Prop :=
  w.groups.Pairwise (fun g k => g.gid ≠ k.gid) ∧ ∀ g ∈ w.groups, g.gid < w.nextGid

/-- The subgroup goes on after its instruction (R53, R126): to the next instruction of its run, or each lane to the run
start behind it. -/
def GoesOn (c : Cx) (t : State) : Prop :=
  let w := t.warp c.iss.warp
  if c.iss.f.ends then ∀ l, hasLane c.g.mask l → w.standsAt l c.iss.f.next
  else ∃ g, w.group? c.g.gid = some g ∧ g.mask = c.g.mask ∧ g.pos = { c.g.pos with off := c.g.pos.off + 1 } ∧ g.wait = none

/-- THE FRAME OF GOING ON: t is u but for the places of the issuing subgroup's lanes and the registers that the
instruction frees. Every other part of the machine is u's: memory, other warps, predicates, uniform registers, records,
FPCTL, v registers that the instruction does not free; and of a lane its flags, its depth and its trap record. -/
structure After (c : Cx) (u t : State) : Prop where
  rest : t = { u with warps := t.warps, ctr := t.ctr, iss := t.iss }
  others : ∀ j, j ≠ c.iss.warp → t.warps[j]? = u.warps[j]?
  warp : let v := t.warp c.iss.warp
    let w := u.warp c.iss.warp
    v = { w with rf := { w.rf with v := v.rf.v, alloc := v.rf.alloc }, thr := v.thr, groups := v.groups, nextGid := v.nextGid, parkDue := v.parkDue }
  vregs : ∀ r l, l < 32 → ¬ Frees c r → (t.regs c).vget r l = (u.regs c).vget r l
  kept : ∀ r, ¬ Frees c r → (t.regs c).has r = (u.regs c).has r
  freed : ∀ r, Frees c r → (t.regs c).has r = false
  lanes : ∀ l, ∃ st lat stop, t.lane c l = { u.lane c l with st := st, lat := lat, stop := stop }
  inside : c.iss.f.ends = false → ∀ l, t.lane c l = u.lane c l

/-- The lanes that a trap takes. -/
def takes (ks : Nat → Option Kind) : LMask := maskOf (fun l => (ks l).isSome)

/-- WHAT A PRECISE TRAP LEAVES (R438, R94, R22): each lane l with ks l parks at the instruction with a record of its kind
and is in no subgroup; the event waits to be vectored; the registers, and everything outside the warp, stay, but for the
count of trap events and, where the trap is unrecoverable (R472), the block's end. -/
structure Trapped (c : Cx) (code : BitVec 16) (ks : Nat → Option Kind) (s t : State) : Prop where
  rest : t = { s with warps := t.warps, blocks := t.blocks, cores := t.cores, ctr := t.ctr, iss := t.iss }
  others : ∀ j, j ≠ c.iss.warp → t.warps[j]? = s.warps[j]?
  warp : let v := t.warp c.iss.warp
    v = { s.warp c.iss.warp with
      thr := v.thr, groups := v.groups, nextGid := v.nextGid, parkDue := v.parkDue
      events := (s.warp c.iss.warp).events ++ [⟨takes ks, false⟩] }
  cores : t.cores = (s.count c.w.core 31 1).cores
  parks : ∀ l k, l < 32 → ks l = some k → ∃ rid, (t.lane c l).st = .parked c.g.pos rid
  records : ∀ l k, l < 32 → ks l = some k → (s.lane c l).depth = false →
    (t.lane c l).trec = some ⟨k, c.iss.f.pc, code, c.iss.f.word, takes ks⟩
  latches : ∀ l k, l < 32 → ks l = some k → (t.lane c l).lat = (s.lane c l).lat
  leaves : ∀ g ∈ (t.warp c.iss.warp).groups, g.mask &&& takes ks = 0
  vectors : (s.launch (s.block c.w.block).launch).hen = true → (s.warp c.iss.warp).deep &&& takes ks = 0 → t.blocks = s.blocks
  ends : c.w.block < s.blocks.length → ¬ ((s.launch (s.block c.w.block).launch).hen = true ∧ (s.warp c.iss.warp).deep &&& takes ks = 0) →
    (t.block c.w.block).kill ≠ none

/-- WHAT A WAIT LEAVES (R318): t is u but that the issuing subgroup waits for wt, that the instruction's destination is
allocated, newly allocated registers reading 0 (R17), and that the registers that it frees may be gone (R22). -/
structure Waits (c : Cx) (wt : Wait) (u t : State) : Prop where
  rest : t = { u with warps := t.warps, cores := t.cores, iss := t.iss }
  others : ∀ j, j ≠ c.iss.warp → t.warps[j]? = u.warps[j]?
  pool : ∃ n, t.cores = (u.modQuad c.iss.core c.iss.quad (fun q => { q with avail := n })).cores
  warp : let v := t.warp c.iss.warp
    let w := u.warp c.iss.warp
    v = { w with
      rf := { w.rf with v := v.rf.v, alloc := v.rf.alloc }
      groups := (w.modGroup c.g.gid (fun g => { g with wait := some wt })).groups }
  vregs : ∀ r l, l < 32 → ¬ Frees c r → (t.regs c).vget r l = if r ∈ newRegs c then 0 else (u.regs c).vget r l
  kept : ∀ r, r < 256 → ¬ Frees c r → (t.regs c).has r = ((u.regs c).has r || (newRegs c).contains r)
  slot : ∃ why charged, t.iss = some { c.iss with out := .suspended why charged }

/-- The subgroup waits before its instruction issues, and nothing else changes (R318). -/
def State.paused (s : State) (c : Cx) (why : Cause) : State :=
  { s.modIss c (fun w => w.modGroup c.g.gid (fun g => { g with wait := some (.unissued why) }))
    with iss := some { c.iss with out := .suspended why why } }

/-- The lane comes back to the position p of a run instance: to a run start, or into a subgroup that stands there. -/
def Warp.backAt (w : Warp) (l : Nat) (p : Pos) (rid : Nat) : Prop :=
  if p.off = 0 then w.standsAt l p.start else ∃ g ∈ w.groups, hasLane g.mask l ∧ g.pos = p ∧ g.runId = rid ∧ g.wait = none

end Sys2Proof.Machine
end

