-- ==== Sys2Proof/Values.lean ====
section
/-! DEFINITION. What the manual's rules say that instructions compute, written apart from the meanings, in bit-vector
terms: the values that the claims speak of. -/

namespace Sys2Proof.Machine.Values



/-- What an instruction of one result per lane computes: its result's type and number of registers, and the value and
exceptions of each lane. -/
structure LaneSpec where
  ty : Option Ty
  n : Nat
  val : State → Cx → Nat → Res

/-- bits(t, w − 1, 0) of an exact integer. -/
def bitsI (w : Nat) (t : Int) : Nat := (BitVec.ofInt w t).toNat
/-- val(x, TYPE) (R127): an S type signed, every other unsigned. -/
def valT (ty : Ty) (x : Nat) : Int :=
  if tySigned ty then (BitVec.ofNat (tyBits ty) x).toInt else ((BitVec.ofNat (tyBits ty) x).toNat : Int)
/-- An integer operand of an instruction in a lane. -/
def opd (c : Cx) (ty : Ty) (a : Src) (l : Nat) : Int := valT ty (srcVal c none (tyRegs ty) a l)
/-- IMM32 as an integer operand (R75). -/
def imm (ty : Ty) (i : W32) : Int := if tySigned ty then i.toInt else (i.toNat : Int)
/-- lo(TYPE) and hi(TYPE). -/
def lo (ty : Ty) : Int := if tySigned ty then -(2 ^ (tyBits ty - 1) : Int) else 0
def hi (ty : Ty) : Int := if tySigned ty then (2 ^ (tyBits ty - 1) : Int) - 1 else (2 ^ tyBits ty : Int) - 1
/-- sat(t, lo(TYPE), hi(TYPE)). -/
def sat (ty : Ty) (t : Int) : Int := max (lo ty) (min t (hi ty))
/-- A 32-bit source as a bit vector. -/
def w32 (c : Cx) (a : Src) (l : Nat) : BitVec 32 := BitVec.ofNat 32 (srcVal c none 1 a l)
/-- A 64-bit source as a bit vector. -/
def w64 (c : Cx) (a : Src) (l : Nat) : BitVec 64 := BitVec.ofNat 64 (srcVal c none 2 a l)
/-- A source of a raw type as a bit vector. -/
def raw (c : Cx) (ty : Ty) (a : Src) (l : Nat) : BitVec (tyBits ty) := BitVec.ofNat (tyBits ty) (srcVal c none (tyRegs ty) a l)

/-! ### Integer and address arithmetic (R131) -/

/-- ZMUL and ZMAC: the kept part of the exact product p with c added. -/
def part (m : Part) (p c : Int) : Nat :=
  match m with
  | .lw => bitsI 32 (p + c)
  | .hw => bitsI 32 (Int.fdiv p (2 ^ 32) + c)
  | .dw => bitsI 64 (p + c)
/-- TYPE widened to 64 bits, for the c operand of a .DW form. -/
def wide (m : Part) (ty : Ty) : Ty := if m = .dw then (if tySigned ty then .s64 else .n64) else ty
/-- Registers of a product's result. -/
def prodRegs (m : Part) : Nat := if m = .dw then 2 else 1

/-! ### Logic, shifts and bit fields (R132 to R136) -/

/-- LTAB: each result bit is TAB[a + 2·b + 4·c] of the sources' bits. -/
def ltab (tab : BitVec 8) (a b c : BitVec 32) : BitVec 32 :=
  let pick := fun (x : BitVec 32) (on : Bool) => if on then x else ~~~x
  (List.range 8).foldl (fun r k =>
    if tab.getLsbD k then r ||| (pick a (k.testBit 0) &&& pick b (k.testBit 1) &&& pick c (k.testBit 2)) else r) 0
/-- The shift count. -/
def count (wrap : Bool) (w n : Nat) : Nat := if wrap then n % w else min n w
/-- SHF: the funnel b:a, shifted. -/
def funnel (right : Bool) (a b : BitVec 32) (n : Nat) : BitVec 32 :=
  if right then ((b ++ a) >>> n).setWidth 32 else (((b ++ a) <<< n) >>> 32).setWidth 32
/-- BFE: n bits of x from p on, where x continues above bit 31 with its sign or with 0. -/
def bfe (signed : Bool) (x : BitVec 32) (p n : Nat) : BitVec 32 :=
  if n = 0 then 0
  else if signed then ((x.sshiftRight p) <<< (32 - n)).sshiftRight (32 - n)
  else ((x >>> p) <<< (32 - n)) >>> (32 - n)
/-- BFI: the low n bits of a in place of those of c from p on. -/
def bfi (a c : BitVec 32) (p n : Nat) : BitVec 32 :=
  let m := (BitVec.allOnes 32 >>> (32 - n)) <<< p
  (c &&& ~~~m) ||| ((a <<< p) &&& m)
/-- p and n of a bit-field operand. -/
def fieldP (b : BitVec 32) : Nat := (b.extractLsb' 0 8).toNat
def fieldN (b : BitVec 32) : Nat := min (b.extractLsb' 8 8).toNat 32
/-- The number of bits that a condition holds for, below w. -/
def ones (w : Nat) (x : Nat) : Nat := (List.range w).countP x.testBit
/-- Zeros above the most significant 1, and below the least significant 1; the width for 0. -/
def leading (w : Nat) (x : Nat) : Nat := ((List.range w).find? (fun i => x.testBit (w - 1 - i))).getD w
def trailing (w : Nat) (x : Nat) : Nat := ((List.range w).find? x.testBit).getD w
/-- BYSEL: byte i of the result by nibble i of b. -/
def bysel (a b c : BitVec 32) : BitVec 32 :=
  let byte := fun (i : Nat) =>
    let k := b.extractLsb' (4 * i) 4
    if k.getLsbD 3 then (0 : BitVec 8) else (c ++ a).extractLsb' (8 * (k.extractLsb' 0 3).toNat) 8
  byte 3 ++ byte 2 ++ byte 1 ++ byte 0

/-- A comparison as the bit that it writes. -/
def cmpBit (c : Cmp) (a b : Int) : Nat :=
  match c with
  | .eq => if a = b then 1 else 0
  | .ne => if a = b then 0 else 1
  | .lt => if a < b then 1 else 0
  | .le => if a ≤ b then 1 else 0
  | .gt => if b < a then 1 else 0
  | .ge => if b ≤ a then 1 else 0

/-- A result without exceptions. -/
def res (t : Option Ty) (n : Nat) (f : Cx → Nat → Nat) : Option LaneSpec := some ⟨t, n, fun _ c l => ⟨f c l, 0⟩⟩

/-- THE INTEGER FAMILY (R131 to R140). -/
def integer : Instr → Option LaneSpec
  | .zadd _ _ ty s a b => res ty (tyRegs ty) fun c l => let t := opd c ty a l + opd c ty b l; bitsI (tyBits ty) (if s then sat ty t else t)
  | .zaddImm _ _ ty s a i => res ty (tyRegs ty) fun c l => let t := opd c ty a l + imm ty i; bitsI (tyBits ty) (if s then sat ty t else t)
  | .zsub _ _ ty s a b => res ty (tyRegs ty) fun c l => let t := opd c ty a l - opd c ty b l; bitsI (tyBits ty) (if s then sat ty t else t)
  | .zmul _ _ ty m a b => res ty (prodRegs m) fun c l => part m (opd c ty a l * opd c ty b l) 0
  | .zmulImm _ _ ty m a i => res ty (prodRegs m) fun c l => part m (opd c ty a l * imm ty i) 0
  | .zmac _ _ ty m a b e => res ty (prodRegs m) fun c l => part m (opd c ty a l * opd c ty b l) (opd c (wide m ty) e l)
  | .zmin _ _ ty a b => res ty (tyRegs ty) fun c l => bitsI (tyBits ty) (min (opd c ty a l) (opd c ty b l))
  | .zminImm _ _ ty a i => res ty (tyRegs ty) fun c l => bitsI (tyBits ty) (min (opd c ty a l) (imm ty i))
  | .zmax _ _ ty a b => res ty (tyRegs ty) fun c l => bitsI (tyBits ty) (max (opd c ty a l) (opd c ty b l))
  | .zmaxImm _ _ ty a i => res ty (tyRegs ty) fun c l => bitsI (tyBits ty) (max (opd c ty a l) (imm ty i))
  | .aadd _ _ ty sh a b => res (some .n64) 2 fun c l => (w64 c a l + BitVec.ofInt 64 (opd c ty b l * 2 ^ sh.toNat)).toNat
  | .aaddImm _ _ ty sh a i => res (some .n64) 2 fun c l => (w64 c a l + BitVec.ofInt 64 (imm ty i * 2 ^ sh.toNat)).toNat
  | .ltab _ _ tab a b e => res (some .b32) 1 fun c l => (ltab tab (w32 c a l) (w32 c b l) (w32 c e l)).toNat
  | .shl _ _ ty wr a b => res ty (tyRegs ty) fun c l => (raw c ty a l <<< count wr (tyBits ty) (w32 c b l).toNat).toNat
  | .shlImm _ _ ty wr a i => res ty (tyRegs ty) fun c l => (raw c ty a l <<< count wr (tyBits ty) i.toNat).toNat
  | .shr _ _ ty wr a b => res ty (tyRegs ty) fun c l =>
    let n := count wr (tyBits ty) (w32 c b l).toNat
    (if tySigned ty then (raw c ty a l).sshiftRight n else raw c ty a l >>> n).toNat
  | .shrImm _ _ ty wr a i => res ty (tyRegs ty) fun c l =>
    let n := count wr (tyBits ty) i.toNat
    (if tySigned ty then (raw c ty a l).sshiftRight n else raw c ty a l >>> n).toNat
  | .shf _ _ right wr a b e => res (some .b32) 1 fun c l => (funnel right (w32 c a l) (w32 c b l) (count wr 32 (w32 c e l).toNat)).toNat
  | .bfe _ _ ty a b => res ty 1 fun c l => (bfe (ty == .s32) (w32 c a l) (fieldP (w32 c b l)) (fieldN (w32 c b l))).toNat
  | .bfeImm _ _ ty a i => res ty 1 fun c l => (bfe (ty == .s32) (w32 c a l) (fieldP i) (fieldN i)).toNat
  | .bfi _ _ a b e => res (some .b32) 1 fun c l => (bfi (w32 c a l) (w32 c e l) (fieldP (w32 c b l)) (fieldN (w32 c b l))).toNat
  | .popc _ _ ty a => res (some .n32) 1 fun c l => ones (tyBits ty) (raw c ty a l).toNat
  | .clz _ _ ty a => res (some .n32) 1 fun c l => leading (tyBits ty) (raw c ty a l).toNat
  | .ctz _ _ ty a => res (some .n32) 1 fun c l => trailing (tyBits ty) (raw c ty a l).toNat
  | .brev _ _ ty a => res ty (tyRegs ty) fun c l => ((raw c ty a l).reverse).toNat
  | .bysel _ _ a b e => res (some .b32) 1 fun c l => (bysel (w32 c a l) (w32 c b l) (w32 c e l)).toNat
  | .byselImm _ _ a i => res (some .b32) 1 fun c l => (bysel (w32 c a l) i 0).toNat
  | .zcmp _ _ ty cmp a b => res none 1 fun c l => cmpBit cmp (opd c ty a l) (opd c ty b l)
  | .zcmpImm _ _ ty cmp a i => res none 1 fun c l => cmpBit cmp (opd c ty a l) (imm ty i)
  | .sel _ _ ty a b p => res ty (tyRegs ty) fun c l => (raw c ty (if psrcVal c p l then a else b) l).toNat
  | .mov _ _ ty a => res ty (tyRegs ty) fun c l => (raw c ty a l).toNat
  | .movImm _ _ ty i => res ty (tyRegs ty) fun _ _ => bitsI (tyBits ty) (imm ty i)
  | _ => none

/-! ### Predicate logic and lane collectives (R143) -/

/-- Bit i of a mask of lanes. -/
def laneIn (m : LMask) (l : Nat) : Bool := m.getLsbD l
/-- The lanes of a mask in which a condition holds. -/
def among (m : LMask) (p : Nat → Bool) : Nat :=
  ((List.range 32).filter (fun l => m.getLsbD l && p l)).foldl (fun r l => r + 2 ^ l) 0
/-- The lowest lane of a mask. -/
def lowest (m : LMask) : Nat := ((List.range 32).find? m.getLsbD).getD 0
/-- q[i] in a lane; q0 reads true (R24). -/
def qbit (c : Cx) (i l : Nat) : Bool := i == 0 || (c.rf.pred i).getLsbD l
/-- A predicate source in a lane (R137). -/
def pbit (c : Cx) (p : PSrc) (l : Nat) : Bool := xor (qbit c p.q.toNat l) p.neg

/-- LRED: the operation over the active lanes' values, lowest lane first. -/
def reduce (op : RedOp) (ty : Ty) (xs : List Nat) : Nat :=
  let w := tyBits ty
  match op, xs with
  | _, [] => 0
  | .add, xs => xs.sum % 2 ^ w
  | .and, x :: r => (r.foldl (fun (a : BitVec w) y => a &&& BitVec.ofNat w y) (BitVec.ofNat w x)).toNat
  | .or, x :: r => (r.foldl (fun (a : BitVec w) y => a ||| BitVec.ofNat w y) (BitVec.ofNat w x)).toNat
  | .xor, x :: r => (r.foldl (fun (a : BitVec w) y => a ^^^ BitVec.ofNat w y) (BitVec.ofNat w x)).toNat
  | .min, x :: r => bitsI w (r.foldl (fun a y => min a (valT ty y)) (valT ty x))
  | .max, x :: r => bitsI w (r.foldl (fun a y => max a (valT ty y)) (valT ty x))

/-- THE PREDICATE FAMILY (R143), but for QSET. -/
def predicate : Instr → Option LaneSpec
  | .qtab _ _ tab pa pb pc => res none 1 fun c l => (tab.getLsbD ((pbit c pa l).toNat + 2 * (pbit c pb l).toNat + 4 * (pbit c pc l).toNat)).toNat
  | .qget _ _ hi => res (some .b32) 1 fun c l =>
    if hi then ((List.range 16).filter (fun i => qbit c (32 + i) l)).foldl (fun r i => r + 2 ^ i) 0
    else ((List.range 32).filter (fun i => qbit c i l)).foldl (fun r i => r + 2 ^ i) 0
  | .poll _ _ op p => res (some .b32) 1 fun c _ =>
    let m := among c.act (pbit c p)
    match op with
    | .every => if m = c.act.toNat then 1 else 0
    | .some => if m = 0 then 0 else 1
    | .same => if m = c.act.toNat ∨ m = 0 then 1 else 0
    | .mask => m
  | .peers _ _ ty unif a => res none 1 fun c l =>
    let eq := among c.act (fun k => raw c ty a k == raw c ty a l)
    if unif then (if eq = c.act.toNat then c.act.toNat else 0) else eq
  | .lxch _ _ ty mode a b => res none (tyRegs ty) fun c l =>
    let x := (w32 c b l).toNat
    match mode with
    | .from => (raw c ty a (x % 32)).toNat
    | .flip => (raw c ty a (l ^^^ x % 32)).toNat
    | .back => if x ≤ l then (raw c ty a (l - x)).toNat else 0
    | .fwd => if l + x < 32 then (raw c ty a (l + x)).toNat else 0
  | .lred _ _ ty op a => res ty (tyRegs ty) fun c _ => reduce op ty (((List.range 32).filter c.act.getLsbD).map (fun l => (raw c ty a l).toNat))
  | .lead _ _ => res none 1 fun c l => if l = lowest c.act then 1 else 0
  | _ => none

/-! ### Floating point (R157 to R163) -/

/-- A finite value as a rational. -/
def real : Num → Rat
  | .fin neg n d => (if neg then -1 else 1) * ((n : Rat) / (d : Rat))
  | _ => 0
/-- A rational as an exact value; a zero takes the given sign. -/
def ofRat (x : Rat) (zneg : Bool) : Num := .fin (if x = 0 then zneg else decide (x < 0)) x.num.natAbs x.den

/-- What an operation's exact result is (R159): a rational with the sign of a zero, an infinity, or none at all. -/
inductive Exact
  | val (x : Rat) (zneg : Bool)
  | inf (neg : Bool)
  | divZero (neg : Bool)
  | invalid

/-- The exact sum of two operands that are no NaN. -/
def plus (mode : RMode) (a b : Num) : Exact :=
  if a.isInf then (if b.isInf && a.neg != b.neg then .invalid else .inf a.neg)
  else if b.isInf then .inf b.neg
  else .val (real a + real b) (if a.neg = b.neg then a.neg else mode == .rd)
/-- The exact product. -/
def times (a b : Num) : Exact :=
  if a.isInf && b.isZero || a.isZero && b.isInf then .invalid
  else if a.isInf || b.isInf then .inf (a.neg != b.neg)
  else .val (real a * real b) (a.neg != b.neg)
/-- The exact quotient. -/
def quotient (a b : Num) : Exact :=
  if a.isInf && b.isInf || a.isZero && b.isZero then .invalid
  else if a.isInf then .inf (a.neg != b.neg)
  else if b.isInf then .val 0 (a.neg != b.neg)
  else if b.isZero then .divZero (a.neg != b.neg)
  else .val (real a / real b) (a.neg != b.neg)
/-- A product's value, with an infinity's, as an operand of the sum that follows it. -/
def Exact.num : Exact → Num
  | .val x z => ofRat x z
  | .inf n => .inf n
  | _ => .nan false false 0 0

/-- The operations with an exact rational result. -/
def exact (op : FOp) (mode : RMode) (a b e : Num) : Exact :=
  match op with
  | .add => plus mode a b
  | .sub => plus mode a b.negate
  | .mul => times a b
  | .mac =>
    match times a b with
    | .invalid => .invalid
    | p => plus mode p.num e
  | .div => quotient a b
  | .sqrt => .invalid

/-- The first NaN of the operands, in source order. -/
def firstNan (xs : List Num) : Option Num := xs.find? Num.isNan
/-- An element's result with its flags, when it is no square root (R159, R115): e counts for FMAC alone. -/
def arith (op : FOp) (t : Ty) (mode : RMode) (fpctl : Nat) (a b e : Num) : Nat × Nat :=
  let xs := if op = .mac then [a, b, e] else [a, b]
  let worst := op = .mac && (a.isInf && b.isZero || a.isZero && b.isInf)
  let sig := if xs.any (fun x => sigFlag x == 1) then 1 else 0
  match firstNan xs with
  | some x => if worst then (canonNan t, 1) else ((roundNum t mode false false (dnanOf fpctl) x).1, sig)
  | none =>
    match exact op mode a b e with
    | .invalid => (canonNan t, 1)
    | .divZero neg => (infBits t neg, 2)
    | .inf neg => (infBits t neg, 0)
    | .val x z => roundNum t mode false (ftzOf t fpctl) (dnanOf fpctl) (ofRat x z)

/-- The element e of a floating operand (R157). -/
def elem (c : Cx) (t : Ty) (a : Src) (e l : Nat) : Nat :=
  match a with
  | .k i => constVal (some t) i.toNat
  | _ => ((w32 c a l).extractLsb' (tyBits t * e) (tyBits t)).toNat
/-- An element's exact value, read under FTZ. -/
def fin (c : Cx) (t : Ty) (a : Src) (e l : Nat) : Num := readF t c.rf.fpctl.toNat (elem c t a e l)
/-- The immediate of a floating instruction. -/
def finImm (c : Cx) (t : Ty) (i : W32) : Num := readF t c.rf.fpctl.toNat (immF t i)

/-- A scalar result. -/
def one (x : Nat × Nat) : Res := ⟨x.1, x.2⟩
/-- The two elements of a packed result. -/
def two (x : Nat → Nat × Nat) : Res := ⟨(x 0).1 + 2 ^ 16 * (x 1).1, (x 0).2 ||| (x 1).2⟩
/-- The rounding mode of an instruction. -/
def modeOf (c : Cx) (r : Rnd) : RMode := rmode r c.rf.fpctl.toNat

/-- The order of two values that are no NaN: −∞ below every number, +∞ above. -/
def below (a b : Num) : Bool :=
  if a.isInf then a.neg && !(b.isInf && b.neg)
  else if b.isInf then !b.neg
  else decide (real a < real b)
/-- FMIN and FMAX choose between the operands' own bits (R160). -/
def minmax (mx : Bool) (t : Ty) (fpctl x y : Nat) : Nat × Nat :=
  let a := readF t fpctl x
  let b := readF t fpctl y
  let iv := if sigFlag a == 1 || sigFlag b == 1 then 1 else 0
  let less := below a b || (!below b a && a.neg && !b.neg)
  (if a.isNan then (if b.isNan then (roundNum t .rn false false (dnanOf fpctl) a).1 else flushIn t fpctl y)
    else if b.isNan then flushIn t fpctl x
    else if mx then (if less then flushIn t fpctl y else flushIn t fpctl x)
    else (if less then flushIn t fpctl x else flushIn t fpctl y), iv)

/-- A comparison of R162. -/
def fholds (cmp : FCmp) (a b : Num) : Bool :=
  let un := a.isNan || b.isNan
  match cmp with
  | .num => !un
  | .nan => un
  | .ne => un || below a b || below b a
  | .eq => !un && !below a b && !below b a
  | .lt => !un && below a b
  | .le => !un && !below b a
  | .gt => !un && below b a
  | .ge => !un && !below a b

/-- The class of an element, by its fields (R163). -/
def classOf (t : Ty) (x : Nat) : Nat :=
  let f := x % 2 ^ fmtM t
  let e := x / 2 ^ fmtM t % 2 ^ fmtE t
  let neg := x.testBit (fmtM t + fmtE t)
  if e = 2 ^ fmtE t - 1 then
    if f = 0 then (if neg then 0 else 7) else (if f.testBit (fmtM t - 1) then 9 else 8)
  else if e = 0 then
    if f = 0 then (if neg then 3 else 4) else (if neg then 2 else 5)
  else if neg then 1 else 6

/-- A result with exceptions. -/
def fres (t : Option Ty) (f : Cx → Nat → Res) : Option LaneSpec := some ⟨t, 1, fun _ => f⟩

/-- THE FLOATING FAMILY, but for the long-latency instructions. -/
def float : Instr → Option LaneSpec
  | .fadd _ _ ty r a b => fres ty fun c l => one (arith .add ty (modeOf c r) c.rf.fpctl.toNat (fin c ty a 0 l) (fin c ty b 0 l) default)
  | .faddImm _ _ ty r a i => fres ty fun c l => one (arith .add ty (modeOf c r) c.rf.fpctl.toNat (fin c ty a 0 l) (finImm c ty i) default)
  | .fsub _ _ ty r a b => fres ty fun c l => one (arith .sub ty (modeOf c r) c.rf.fpctl.toNat (fin c ty a 0 l) (fin c ty b 0 l) default)
  | .fmul _ _ ty r a b => fres ty fun c l => one (arith .mul ty (modeOf c r) c.rf.fpctl.toNat (fin c ty a 0 l) (fin c ty b 0 l) default)
  | .fmulImm _ _ ty r a i => fres ty fun c l => one (arith .mul ty (modeOf c r) c.rf.fpctl.toNat (fin c ty a 0 l) (finImm c ty i) default)
  | .fmac _ _ ty r a b e => fres ty fun c l => one (arith .mac ty (modeOf c r) c.rf.fpctl.toNat (fin c ty a 0 l) (fin c ty b 0 l) (fin c ty e 0 l))
  | .fmin _ _ ty a b => fres ty fun c l => one (minmax false ty c.rf.fpctl.toNat (elem c ty a 0 l) (elem c ty b 0 l))
  | .fminImm _ _ ty a i => fres ty fun c l => one (minmax false ty c.rf.fpctl.toNat (elem c ty a 0 l) (immF ty i))
  | .fmax _ _ ty a b => fres ty fun c l => one (minmax true ty c.rf.fpctl.toNat (elem c ty a 0 l) (elem c ty b 0 l))
  | .fmaxImm _ _ ty a i => fres ty fun c l => one (minmax true ty c.rf.fpctl.toNat (elem c ty a 0 l) (immF ty i))
  | .fabs _ _ ty a => fres ty fun c l => ⟨elem c ty a 0 l &&& (2 ^ (tyBits ty - 1) - 1), 0⟩
  | .fneg _ _ ty a => fres ty fun c l => ⟨elem c ty a 0 l ^^^ 2 ^ (tyBits ty - 1), 0⟩
  | .fcmp _ _ ty cmp a b => fres none fun c l =>
    ⟨(fholds cmp (fin c ty a 0 l) (fin c ty b 0 l)).toNat, if sigFlag (fin c ty a 0 l) == 1 || sigFlag (fin c ty b 0 l) == 1 then 1 else 0⟩
  | .fclass _ _ ty a => fres (some .n32) fun c l => ⟨2 ^ classOf ty (elem c ty a 0 l), 0⟩
  | .f2add _ _ ty r a b => fres ty fun c l => two fun e => arith .add ty (modeOf c r) c.rf.fpctl.toNat (fin c ty a e l) (fin c ty b e l) default
  | .f2mul _ _ ty r a b => fres ty fun c l => two fun e => arith .mul ty (modeOf c r) c.rf.fpctl.toNat (fin c ty a e l) (fin c ty b e l) default
  | .f2mac _ _ ty r a b x => fres ty fun c l => two fun e => arith .mac ty (modeOf c r) c.rf.fpctl.toNat (fin c ty a e l) (fin c ty b e l) (fin c ty x e l)
  | .f2min _ _ ty a b => fres ty fun c l => two fun e => minmax false ty c.rf.fpctl.toNat (elem c ty a e l) (elem c ty b e l)
  | .f2max _ _ ty a b => fres ty fun c l => two fun e => minmax true ty c.rf.fpctl.toNat (elem c ty a e l) (elem c ty b e l)
  | _ => none

/-- FSQRT on one element (R159): the square root of a positive value is `sqrtNum`'s, which the claim SqrtIsRounded
judges. -/
def root (t : Ty) (mode : RMode) (fpctl : Nat) (a : Num) : Nat × Nat :=
  match a with
  | .nan .. => ((roundNum t mode false false (dnanOf fpctl) a).1, sigFlag a)
  | .inf true => (canonNan t, 1)
  | .inf false => (infBits t false, 0)
  | .fin neg n d =>
    if n = 0 then roundNum t mode false (ftzOf t fpctl) (dnanOf fpctl) (.fin neg 0 1)
    else if neg then (canonNan t, 1)
    else roundNum t mode false (ftzOf t fpctl) (dnanOf fpctl) (sqrtNum n d)

/-- THE LONG-LATENCY INSTRUCTIONS (R158, R167): how many times ceil(n/8) cycles each holds the special-function unit, and
its result per lane. The special functions' values are `sfuVal`'s, within the bounds of R164 (log 6). -/
def long : Instr → Option (Nat × (Cx → Nat → Res))
  | .fdiv _ _ ty r a b => some (2, fun c l => one (arith .div ty (modeOf c r) c.rf.fpctl.toNat (fin c ty a 0 l) (fin c ty b 0 l) default))
  | .fsqrt _ _ ty r a => some (2, fun c l => one (root ty (modeOf c r) c.rf.fpctl.toNat (fin c ty a 0 l)))
  | .frcp _ _ a => some (1, fun c l => one (sfuVal 0x110 c.rf.fpctl.toNat (elem c .f32 a 0 l)))
  | .frsq _ _ a => some (1, fun c l => one (sfuVal 0x112 c.rf.fpctl.toNat (elem c .f32 a 0 l)))
  | .fexp2 _ _ a => some (1, fun c l => one (sfuVal 0x113 c.rf.fpctl.toNat (elem c .f32 a 0 l)))
  | .flog2 _ _ a => some (1, fun c l => one (sfuVal 0x114 c.rf.fpctl.toNat (elem c .f32 a 0 l)))
  | .fsin _ _ a => some (1, fun c l => one (sfuVal 0x115 c.rf.fpctl.toNat (elem c .f32 a 0 l)))
  | .fcos _ _ a => some (1, fun c l => one (sfuVal 0x116 c.rf.fpctl.toNat (elem c .f32 a 0 l)))
  | .ftanh _ _ a => some (1, fun c l => one (sfuVal 0x117 c.rf.fpctl.toNat (elem c .f32 a 0 l)))
  | _ => none

/-- The order in which a lane's exceptions give its trap a kind (R166). -/
def firstExc (enabled raised : Nat) : Option Kind :=
  ([(0, Kind.fpInvalid), (1, .fpDivzero), (2, .fpOverflow), (3, .fpUnderflow), (4, .fpInexact)].find?
    (fun x => enabled.testBit x.1 && raised.testBit x.1)).map (·.2)

/-! ### Rounding (R111, R112) -/

/-- The magnitude of a format's finite element; none for an element that is none. -/
def magOf (t : Ty) (b : Nat) : Option Rat :=
  match decode t (b % 2 ^ (tyBits t - 1)) with
  | .fin _ n d => some ((n : Rat) / (d : Rat))
  | _ => none
/-- The element of R112's choice on a tie: a fraction field that is even, counting zero as even. -/
def d8Even (b : Nat) : Bool := b = 0 || (d8Parts b).2.1 % 2 == 0
/-- A magnitude that a mode selects among the elements of a format, for a value of magnitude x and a sign: the nearest
not above, the nearest not below, or the nearest of all, where a tie goes to the even one and in D8, of two even ones,
to the larger. -/
def Selects (t : Ty) (mode : RMode) (neg : Bool) (x : Rat) (b : Nat) (y : Rat) : Prop :=
  let down := y ≤ x ∧ ∀ k z, magOf t k = some z → z ≤ x → z ≤ y
  let up := x ≤ y ∧ ∀ k z, magOf t k = some z → x ≤ z → y ≤ z
  match mode with
  | .rz => down
  | .rd => if neg then up else down
  | .ru => if neg then down else up
  | .rn => ∀ k z, k < 2 ^ (tyBits t - 1) → magOf t k = some z →
    (x - y).abs ≤ (x - z).abs ∧ ((x - y).abs = (x - z).abs → z = y ∨
      (if t = .d8 then (if d8Even k then d8Even b ∧ z < y else True) else b % 2 = 0))

/-! ### Conversion (R170 to R179) -/

/-- An element of a conversion's source, exactly. -/
def cvtIn (t : Ty) (fpctl x : Nat) : Num :=
  if tyInt t then ofRat (valT t x : Rat) false else if tyBin t then readF t fpctl x else decode t (x % 2 ^ tyBits t)
/-- A result narrower than 32 bits, sign-extended for S and zero-extended otherwise. -/
def widen (t : Ty) (x : Nat) : Nat := if tySigned t && tyBits t < 32 then bitsI 32 (valT t x) else x
/-- CVT on one lane. -/
def cvt (td ts : Ty) (mode : RMode) (satf : Bool) (fpctl x : Nat) : Res :=
  if tyInt ts && tyInt td then ⟨widen td (bitsI (tyBits td) (if satf then sat td (valT ts x) else valT ts x)), 0⟩
  else
    let y := roundNum td mode satf (ftzOf td fpctl) (dnanOf fpctl) (cvtIn ts fpctl x)
    ⟨widen td y.1, if tyInt ts then 0 else y.2⟩
/-- A value times a rational power; NaN, infinities and the sign of a zero stay. -/
def times2 (x : Num) (k : Int) : Num := match x with | .fin neg .. => ofRat (real x * (2 : Rat) ^ k) neg | y => y
def times10 (x : Num) (k : Int) : Num := match x with | .fin neg .. => ofRat (real x * (10 : Rat) ^ k) neg | y => y
/-- PCVT's exact element (R173, R174). -/
def pcvtIn (td ts : Ty) (fpctl s x : Nat) : Num :=
  let v := cvtIn ts fpctl x
  if tyWide td && tyWide ts then v
  else if td = .d8 then times10 v (-(BitVec.ofNat 8 s).toInt)
  else if ts = .d8 then times10 v (BitVec.ofNat 8 s).toInt
  else if s % 256 = 255 then .nan false false 0 0
  else if tyWide td then times2 v ((s % 256 : Nat) - 127 : Int)
  else times2 v (127 - (s % 256 : Nat) : Int)
/-- The joined elements of a group. -/
def group (w : Nat) (xs : List (Nat × Nat)) : Res := ⟨(xs.zipIdx.map (fun x => x.1.1 * 2 ^ (w * x.2))).sum, (xs.map (·.2)).foldl (· ||| ·) 0⟩
/-- A value rounded to an integral one, its sign kept (R175). -/
def integral (mode : RMode) (x : Num) : Num :=
  let q := real x
  let f := q.floor
  let r : Int := if q = f then f else
    match mode with
    | .rn => if q - f < 1 / 2 then f else if 1 / 2 < q - f then f + 1 else if f % 2 = 0 then f else f + 1
    | .rz => if x.neg then f + 1 else f
    | .rd => f
    | .ru => f + 1
  ofRat r x.neg
/-- FRND. -/
def frnd (t : Ty) (mode : RMode) (fpctl x : Nat) : Res :=
  match readF t fpctl x with
  | .fin neg n d => ⟨(roundNum t mode false false true (integral mode (.fin neg n d))).1, 0⟩
  | y => one (roundNum t mode false false (dnanOf fpctl) y)

/-- A legal matrix format word (R177, R178): reserved fields 0, one of the pairs of formats with its accumulation, and
block scales where the format must or may carry them. -/
abbrev LegalWord (w : BitVec 32) : Prop :=
  let field := fun (lo n : Nat) => (w.extractLsb' lo n).toNat
  let scales := fun (fmt sc : Nat) => (fmt = 4 → sc = 1) ∧ (fmt ≠ 4 → fmt ≠ 2 → fmt ≠ 3 → sc = 0)
  field 12 20 = 0 ∧ scales (field 0 4) (field 10 1) ∧ scales (field 4 4) (field 11 1) ∧
    (field 0 4, field 4 4, field 8 2) ∈ [(0, 0, 0), (1, 1, 0), (2, 2, 0), (2, 3, 0), (2, 5, 0), (3, 2, 0), (3, 3, 0), (3, 5, 0),
      (5, 2, 0), (5, 3, 0), (5, 5, 0), (4, 4, 0), (6, 6, 1)]

/-- THE CONVERSION FAMILY, but for FMTW of a register. -/
def convert : Instr → Option LaneSpec
  | .cvt _ _ td ts r satf a => some ⟨td, tyRegs td, fun _ c l =>
    cvt td ts (modeOf c r) satf c.rf.fpctl.toNat (srcVal c (if tyInt ts then none else some ts) (tyRegs ts) a l)⟩
  | .pcvt _ _ td ts n r satf a sc => some ⟨none, pcvtRegs n td, fun _ c l =>
    let x := srcVal c none (pcvtRegs n ts) a l
    group (tyBits td) ((List.range (pcount n)).map fun i =>
      roundNum td (modeOf c r) satf (ftzOf td c.rf.fpctl.toNat) (dnanOf c.rf.fpctl.toNat)
        (pcvtIn td ts c.rf.fpctl.toNat (w32 c sc l).toNat (x >>> (i * tyBits ts) % 2 ^ tyBits ts)))⟩
  | .fmtwImm _ _ i => res (some .b32) 1 fun _ _ => i.toNat
  | .pack _ _ ty a b => res ty 1 fun c l => (((w32 c b l).setWidth (tyBits ty)) ++ ((w32 c a l).setWidth (tyBits ty))).toNat
  | .unpk _ _ ty sx a => res none 2 fun c l =>
    let e := fun k => ((w32 c a l).extractLsb' (tyBits ty * k) (tyBits ty))
    let x := fun k => if sx then (e k).signExtend 32 else (e k).setWidth 32
    (x 1 ++ x 0).toNat
  | .frnd _ _ ty r a => fres ty fun c l => frnd ty (modeOf c r) c.rf.fpctl.toNat (elem c ty a 0 l)
  | .fldex _ _ ty r a b => fres ty fun c l =>
    one (roundNum ty (modeOf c r) false (ftzOf ty c.rf.fpctl.toNat) (dnanOf c.rf.fpctl.toNat) (times2 (fin c ty a 0 l) (w32 c b l).toInt))
  | _ => none

/-! ### Addresses, records, special registers and counts (R213, R214, R263, R264, R273 to R276) -/

/-- The offset fields of an aperture's space (R183). -/
def offBits : BitVec 2 → BitVec 52
  | 0 => 0xFFFF
  | 1 => 0x1FFFFF
  | 2 => 0x707FFFF
  | 3 => 0x3FFFFFF
/-- An aperture address of a space whose must-be-zero bits are 0. -/
def inSpace (sp : BitVec 2) (a : W64) : Bool :=
  a.extractLsb' 52 12 == (0xFE : BitVec 8) ++ sp.setWidth 4 && a.setWidth 52 &&& ~~~offBits sp == 0
/-- Bits [63:57] all equal bit [56]. -/
def canon (a : W64) : Bool := (a.extractLsb' 0 57).signExtend 64 == a
/-- A window of a context holds the address and grants R (R447). -/
def mapped (c : Ctx) (a : W64) : Bool :=
  match (List.range 8).find? (fun i => let w := c.win.getD i 0
      w.getLsbD 126 && decide (w.extractLsb' 0 41 ≤ a.extractLsb' 16 41) && decide (a.extractLsb' 16 41 ≤ w.extractLsb' 41 41)) with
  | some i => (c.win.getD i 0).getLsbD 122
  | none => false

/-- The context of a warp's block. -/
def ctxOf (s : State) (c : Cx) : Ctx := s.ctx (s.block c.w.block).ctx
/-- A count of the account of a quadrant: what the context's area stores and what the core holds. -/
def acctOf (s : State) (c : Cx) (q n : Nat) : Nat :=
  cget (ctxOf s c).acct 0 (72 * c.w.core + 18 * q + n) + cget (s.core c.w.core).acct 0 (18 * q + n)

/-- The status word of a full fault record (R264), by its fields from the top. -/
def status (w : Warp) (r : FaultRec) : BitVec 32 :=
  let older := w.fr.countP (fun x => match x with | some y => y.seq < r.seq && y.txn.mask &&& r.txn.mask != 0 | none => false)
  let level := if r.kind = .walk then r.level else 0
  let store := match r.txn.kind with | .store => true | .atomic .. => true | _ => false
  (0 : BitVec 9) ++ BitVec.ofNat 2 older ++ BitVec.ofNat 2 level ++ BitVec.ofNat 3 (Nat.log2 r.txn.size) ++ BitVec.ofNat 8 (kindCode r.kind)
    ++ BitVec.ofBool store ++ BitVec.ofNat 3 (scopeCode r.txn.scope) ++ BitVec.ofNat 3 (domCode r.txn.dom) ++ BitVec.ofBool true
/-- A field of a trap record (R263): 0 outside a handler. -/
def trapField (t : Thread) (f : Nat) : Nat :=
  match t.trec with
  | none => 0
  | some r =>
    if !t.depth then 0
    else
      match f with
      | 0 => kindCode r.kind
      | 1 => r.mask.toNat
      | 2 => r.pc.toNat
      | 3 => r.code.toNat
      | n => if r.kind = .memPark then 0 else (r.word.extractLsb' (32 * (n - 4)) 32).toNat

/-- The special registers (R44), by index. -/
def special (s : State) (c : Cx) (i l : Nat) : Nat :=
  let w := c.w
  let b := s.block w.block
  let x := s.launch b.launch
  ([l, w.index * 32 + l, w.index, (x.team.map (w.index / ·)).getD 0xFFFFFFFF, b.index, b.rank, x.lid.toNat, w.core, w.quad,
    w.core / 16, s.devId.toNat, w.live.toNat, c.act.toNat, b.variant, c.rf.fpctl.toNat, (w.thread l).fpstat.toNat, b.clock, s.time,
    (List.range 256).countP c.rf.has, (w.thread l).depth.toNat][i]?).getD 0
/-- The registers of 64 bits among them (R44). -/
def isWide (i : Nat) : Bool := i = 4 || i = 6 || i = 16 || i = 17

/-- SYSTEM READS AND ADDRESS TESTS. -/
def system : Instr → Option LaneSpec
  | .acvtTogen _ _ sp a => res none 2 fun c l =>
    let o := (w32 c a l).setWidth 52
    if o &&& ~~~offBits sp = 0 then ((0xFE : BitVec 8) ++ sp.setWidth 4 ++ o).toNat else 0xFEF0000000000000
  | .acvtFromgen _ _ sp a => res none 1 fun c l => if inSpace sp (w64 c a l) then ((w64 c a l).setWidth 52).toNat else 0xFFFFFFFF
  | .atest _ _ sp a => some ⟨none, 1, fun s c l =>
    let x := w64 c a l
    ⟨(if sp.toNat < 4 then inSpace (sp.setWidth 2) x else canon x && (sp = 4 || mapped (ctxOf s c) x)).toNat, 0⟩⟩
  | .frec _ _ f n => some ⟨none, if f = 2 || f = 3 then 2 else 1, fun _ c l =>
    ⟨if n = 4 then trapField (c.w.thread l) f.toNat
      else
        match c.w.fr[n.toNat]? with
        | some (some r) =>
          if f = 0 then (status c.w r).toNat
          else if f = 1 then r.txn.mask.toNat
          else if !r.txn.mask.getLsbD l then 0
          else if f = 2 then r.txn.f.pc.toNat
          else if f = 3 then ((r.txn.of l).headD default).key
          else if f.toNat < 7 then (r.txn.f.word.extractLsb' (32 * (f.toNat - 4)) 32).toNat
          else recData r.txn l / 2 ^ (32 * (f.toNat - 7)) % 2 ^ 32
        | _ => 0, 0⟩⟩
  | .srd _ _ i => some ⟨none, if isWide i.toNat then 2 else 1, fun s c l => ⟨special s c i.toNat l, 0⟩⟩
  | .acct _ _ n quad saved => some ⟨none, 2, fun s c _ =>
    ⟨(if saved then c.w.snap.getD (n.toNat + if quad then 18 else 0) 0
      else if quad then acctOf s c c.w.quad n.toNat
      else acctOf s c 0 n.toNat + acctOf s c 1 n.toNat + acctOf s c 2 n.toNat + acctOf s c 3 n.toNat) % 2 ^ 64, 0⟩⟩
  | .cnt _ _ n shadow => some ⟨none, 2, fun s c _ =>
    ⟨(if n.toNat < 48 ∧ (ctxOf s c).cntMask.getLsbD n.toNat then
        (if shadow then (if (s.core c.w.core).shCtx = (s.block c.w.block).ctx then cget (s.core c.w.core).shCnt 0 n.toNat else 0)
          else cget (ctxOf s c).cnt 0 (48 * c.w.core + n.toNat) + cget (s.core c.w.core).cnt 0 n.toNat)
      else 0) % 2 ^ 64, 0⟩⟩
  | _ => none

/-- The target of a branch, call or return in a lane (R145). -/
def target : Instr → Option (Cx → Nat → W64)
  | .bra _ off => some fun c _ => c.iss.f.pc + off.signExtend 64
  | .brx _ off a => some fun c l => w64 c a l + off.signExtend 64
  | .call _ _ off => some fun c _ => c.iss.f.pc + off.signExtend 64
  | .callInd _ _ off a => some fun c l => w64 c a l + off.signExtend 64
  | .ret _ a => some fun c l => w64 c a l
  | _ => none

/-- The arguments of an SVC (R271). -/
def svc : Instr → Option (Src × Src)
  | .svcInfo _ _ a b | .svcReside _ _ a b | .svcNotify _ _ a b | .svcBias _ _ a b | .svcUndefined _ _ _ a b => some (a, b)
  | _ => none

/-- RESUME and RESUME.NEXT (R270): whether the trapping instruction is skipped. -/
def resumes : Instr → Option Bool
  | .resume _ => some false
  | .resumeNext _ => some true
  | _ => none

/-- Where a lane comes back to (R270 step 4): a lane of kind MEM-PARK at its stop PC, another at the trapping instruction
or, skipped, at the one behind it; a run that could not be fetched whole goes no further (R54, R57). -/
def back (next : Bool) (i : Interrupted) : Pos :=
  match i.kind, next, i.pos.run[i.pos.off]? with
  | .memPark, _, _ => ⟨i.pos.start, [], 0⟩
  | _, true, some f =>
    if f.ends ∨ (∀ g, i.pos.run.getLast? = some g → g.ends = false) then ⟨f.next, [], 0⟩ else { i.pos with off := i.pos.off + 1 }
  | _, _, _ => i.pos

/-- What latch k of a lane that comes back inside a run holds after the return (R270 step 3): the interrupted value, but for the latch of a skipped
instruction, which takes what the destination holds; a register of 32 bits and a predicate give the low half. -/
def BackLatch (rf : RegFile) (next : Bool) (i : Interrupted) (l k : Nat) (x : W64) : Prop :=
  let skipped := if next && i.kind != .memPark then (i.pos.run[i.pos.off]?).bind (fun f =>
    match decodeWord f.word with
    | .ok j => shape j
    | _ => none) else none
  match skipped with
  | none => (next = false ∨ i.kind = .memPark) → x = i.lat.get k
  | some p =>
    (k ≠ ((p.lt.map (·.toNat)).getD 0) → x = i.lat.get k) ∧
      (∀ t, p.lt = some t → t.toNat = k → p.d = false →
        match p.dst with
        | .v r 1 => rf.has r = true → x.setWidth 32 = rf.vget r l
        | .v r 2 => rf.has r = true → rf.has (r + 1) = true → x = rf.vget (r + 1) l ++ rf.vget r l
        | .s r 1 => x.setWidth 32 = (rf.sget r).setWidth 32
        | .s r 2 => x = rf.sget r
        | .q r => x.setWidth 32 = if hasLane (rf.pred r) l then 1#32 else 0#32
        | _ => True)

/-- A data group gives x for register k of a lane, and none of those registers is read for the last time. -/
def keepsGroup (dat : Src) (n dst : Nat) : Prop :=
  match dat with
  | .v r true _ => ∀ j k, j < n → k < n → r.toNat + j ≠ dst + k
  | _ => True

/-- R242 on COUNT, INIT and PHASE, step by step: what COUNT and PHASE come to. -/
def countOff : Nat → Nat → Nat → Nat → Nat → Nat × Nat
  | 0, count, _, phase, _ => (count, phase)
  | fuel + 1, count, init, phase, d =>
    if count ≤ d ∧ 0 < d then countOff fuel init init (phase + 1) (if init = 0 then 0 else d - count) else (count - d, phase)

/-- The warps of a block of which every live lane has arrived (R245). -/
def arrived (s : State) (b : Block) (lanes : Cells LMask) : List Nat :=
  b.warps.filter (fun i => cget lanes 0 (s.warp i).index != 0 && ((s.warp i).live &&& ~~~cget lanes 0 (s.warp i).index) == 0)

/-- The lanes of a subgroup that have not been told of a fault stand at a run start. -/
def onTheWay (c : Cx) (s t : State) : Prop :=
  (s.warp c.iss.warp).Named → c.iss.f.ends = true → ∀ l, hasLane c.g.mask l → (s.lane c l).stop = false →
    ∃ g ∈ (t.warp c.iss.warp).groups, hasLane g.mask l ∧ g.startsAt c.iss.f.next

/-! ### Signing (R222 to R226) -/

/-- The two values of a signature in a lane (R225). -/
def sfmt (c : Cx) (f : Src) (l : Nat) : W64 := (w32 c f l).setWidth 64
def sads (c : Cx) (a : Src) (wide : Bool) (l : Nat) : W64 := if wide then w64 c a l else (w32 c a l).setWidth 64
/-- The convergence register that a signature names. -/
def convOf (g : Sig) (s : State) (c : Cx) : Conv := (s.block c.w.block).cv.getD g.cv default
/-- The active lanes that have not signed the open collection. -/
def unsigned (g : Sig) (s : State) (c : Cx) : LMask :=
  if (convOf g s c).opened then c.act &&& ~~~cget (convOf g s c).signed 0 c.w.index else c.act
/-- The signing group owns the engine and may name the tile (R217, R219, R220). -/
def ownsTile (g : Sig) (s : State) (c : Cx) : Prop :=
  (s.core c.iss.core).owner.any (·.same (ownerOf s c.w c.act)) = true ∧ tileOk s c g.acc = true
/-- The active lanes' values agree (R223 step 3). -/
def agree (f a : Src) (wide : Bool) (c : Cx) : Prop :=
  ∀ l, hasLane c.act l → sfmt c f l = sfmt c f (lowest c.act) ∧ sads c a wide l = sads c a wide (lowest c.act)
/-- The signature's parameters are those of the open collection (R223 step 4). -/
def asOpened (g : Sig) (f a : Src) (wide : Bool) (s : State) (c : Cx) : Prop :=
  let v := convOf g s c
  v.opened = true → v.opc = g.opc ∧ v.acc = g.acc ∧ v.dh = g.dh ∧ v.rows = g.rows ∧ v.ovw = g.ovw ∧
    v.fmt = sfmt c f (lowest c.act) ∧ v.ads = sads c a wide (lowest c.act) ∧ v.owner = (ownerOf s c.w c.act).tag
/-- What its steps 5 to 7 find (R223). -/
def signFault (g : Sig) (f a : Src) (wide : Bool) (s : State) (c : Cx) : Option Kind :=
  sigCheck (s.block c.w.block) g (sfmt c f (lowest c.act)).toNat (sads c a wide (lowest c.act)).toNat
/-- The collection with the signatures of those lanes (R222): the first records the parameters, the last the rounding mode. -/
def signedConv (g : Sig) (f a : Src) (wide : Bool) (s : State) (c : Cx) : Conv :=
  let v := convOf g s c
  let b := s.block c.w.block
  let o := ownerOf s c.w c.act
  let base : Conv := if v.opened then v
    else ⟨true, false, g.opc, g.acc, g.dh, g.rows, g.ovw, sfmt c f (lowest c.act), sads c a wide (lowest c.act), expectedOf s b o, [], v.err, 0, o.tag⟩
  { base with
    signed := cset base.signed 0 c.w.index (cget base.signed 0 c.w.index ||| unsigned g s c)
    rm := (c.rf.fpctl.extractLsb' 0 2).toNat }
/-- The machine with that collection: open while an expected lane is missing; else its operation is the last in engine order and the
register is busy (R221, R222). -/
def signedState (g : Sig) (f a : Src) (wide : Bool) (s : State) (c : Cx) : State :=
  let b := s.block c.w.block
  let v := signedConv g f a wide s c
  if missing s b v then s.modBlock c.w.block (fun b => { b with cv := b.cv.set g.cv v })
  else
    let op : EngOp := ⟨s.ctr, engKind g.opc, c.w.block, v.owner, g.cv, none, v.acc, b.dh.getD v.dh default, v.rows, v.ovw, v.fmt, v.ads, v.rm, 0, none, false⟩
    { (s.modBlock c.w.block (fun b => { b with cv := b.cv.set g.cv { v with opened := false, busy := true } })).modCore b.core
        (fun k => { k with eng := k.eng ++ [op] }) with ctr := s.ctr + 1 }
/-- When a signed operation executes normally (R222, R223): the group owns the engine and may name the tile, the register has no
operation in flight, the lanes agree with each other and with the open collection, and the checks find nothing. The rest says that
block and register exist, and that no other collection of the block waits to enter engine order. -/
structure MaySign (g : Sig) (f a : Src) (wide : Bool) (s : State) (c : Cx) : Prop where
  owns : ownsTile g s c
  free : (convOf g s c).busy = false
  agree : agree f a wide c
  same : asOpened g f a wide s c
  check : signFault g f a wide s c = none
  block : c.w.block < s.blocks.length
  conv : g.cv < (s.block c.w.block).cv.length
  others : ∀ n, n ≠ g.cv → ((s.block c.w.block).cv.getD n default).opened = true → missing s (s.block c.w.block) ((s.block c.w.block).cv.getD n default) = true

end Sys2Proof.Machine.Values
end

