-- ==== Sys2Proof/Certificates/Slice0/Obligations.lean ====
section
/-! DEFINITION. The claims of the model, stated for the provers; OBLIGATIONS.json lists them. An instruction that passes
the gate (`Goes`) sees `c`; a claim about its result says that `exec` answers a next state and what that state holds. -/

open Sys2Proof Sys2Proof.Machine

/-- The worked encodings of the spec, long and short, decode to the statements they stand for: FMAC, ZADD (short), BRA,
JOIN.WAIT, PCVT, LD, ST, BRIDGE, ATOM, MMA, TRAP, RESUME.NEXT, VPOINT and FRSQ (short). (02_encoding.md, Worked
encodings; 02_encoding.md, The opcode map; 04_integer_and_control.md, Branches and calls; 06_memory_instructions.md,
Loads and stores; 07_matrix_and_engine_instructions.md, Encodings of the matrix class; 08_system_instructions.md,
Encodings) -/
def Obligations.DecodeWords : Prop :=
  decodeTableWord 96 0x40C18148050001CC880001C5 =
      some (.fmac ⟨false, 3, false⟩ ⟨false, 5, false, 1⟩ .f32 .rn (.v 2 true .none) (.v 7 false (.bf 4)) (.x 0)) ∧
    decodeTableWord 48 0x000208030200 = some (.zadd ⟨true, 0, false⟩ ⟨false, 4, false, 0⟩ .s32 false (.v 1 true .none) (.v 2 false .none)) ∧
    decodeTableWord 96 0x30210007FFFFFD0000000001 = some (.bra ⟨true, 2, false⟩ 0xFFFFFFA0) ∧
    decodeTableWord 96 0x316000000000000100000001 = some (.joinWait ⟨true, 0, false⟩ 2) ∧
    decodeTableWord 96 0x60400500100000C00E400245 =
      some (.pcvt ⟨false, 0, false⟩ ⟨20, false, 0⟩ .d8 .f32 .four .rn false (.v 8 false .none) (.v 3 false .none)) ∧
    decodeTableWord 96 0x808002010080000000006A89 =
      some (.ld ⟨false, 0, false⟩ 8 .b32 ⟨.rc, .device, .acquire, .dflt⟩ 2 (.v 4 false .none) 3) ∧
    decodeTableWord 96 0x82800000E0000C0400000A91 =
      some (.st ⟨false, 0, false⟩ .b32 ⟨.rc, .device, .release, .dflt⟩ 1 (.k 0) (.k 1) 0) ∧
    decodeTableWord 96 0x914000000000000000005281 = some (.bridge ⟨false, 0, false⟩ .bulk .rc .device) ∧
    decodeTableWord 96 0xA0028600E0000C0400000A81 =
      some (.atom ⟨false, 5, false⟩ 24 .add false ⟨.rc, .device, .plain, .dflt⟩ .record 1 (.k 0) (.k 1) 0) ∧
    decodeTableWord 96 0xC080000200400204000FF001 = some (.mma ⟨false, 0, false⟩ 2 0 (.v 8 false .none) (.s 4) 1 127 false) ∧
    decodeTableWord 96 0xE000000000000000000000E1 = some (.trap ⟨false, 0, false⟩ 7) ∧
    decodeTableWord 96 0xE0A000000000000000000003 = some (.resumeNext ⟨true, 0, false⟩) ∧
    decodeTableWord 96 0x32A000000000000000000001 = some (.vpoint ⟨true, 0, false⟩ 0) ∧
    decodeTableWord 48 0x2B000E210000 = some (.frsq ⟨false, 0, false⟩ ⟨false, 7, false, 0⟩ (.v 16 true .none))

/-- For every well-formed instruction, of every family and with every operand at every value that its encoding admits, the
word that encodes it decodes to it, and so do the word's twelve bytes as the hardware stores them. (02_encoding.md,
The canonical word; 02_encoding.md, Body formats; 02_encoding.md, The opcode map) -/
def Obligations.RoundTrip : Prop :=
  ∀ i : Instr, i.wellFormed = true → decodeWord (encode i) = .ok i ∧ decodeTableWord 96 (encode i).toNat = some i

/-- A word decodes only to an instruction that is well formed and whose encoding is that word, bit for bit: no unused,
reserved or out-of-range field passes; and E is 1 in a word of the control instructions that must end their run.
(02_encoding.md, The canonical word; 02_encoding.md, How illegal encodings are taken) -/
def Obligations.DecodedWordsAreLegal : Prop :=
  ∀ (w : Word) (i : Instr), decodeWord w = .ok i → i.wellFormed = true ∧ encode i = w ∧ isEvent i = false ∧ (endsRun i = true → w.getLsbD 85 = true)

/-- BRA, BRX, CALL, RET, JOIN.WAIT, EXIT, YIELD, VPOINT and RESUME are never well formed with E equal to 0; the step in
whose slot such a word stands takes a precise ILLEGAL trap in every lane of the subgroup, unless the slot is held for
a result of the run that may still trap, or for the launch's budget; and the check of E refuses no other instruction.
(R64) -/
def Obligations.RunEnders : Prop :=
  (∀ i : Instr,
      (match i with
        | .bra .. | .brx .. | .call .. | .callInd .. | .ret .. | .joinWait .. | .exit .. | .yield .. | .vpoint .. | .resume .. | .resumeNext .. => True
        | _ => False) ↔ endsRun i = true) ∧
    (∀ i p, shape i = some p → endsRun i = true → p.h.e = false → i.wellFormed = false ∧ ∀ j, decodeWord (encode i) ≠ .ok j) ∧
    (∀ i p, shape i = some p → endsRun i = false → formCheck i ≠ some .runEnd) ∧
    (∀ (s : State) (core quad wid : Nat) (side : Side) (g : Sys2Proof.Machine.Group) (f : Fetched),
      (∀ i, f.decoded ≠ .ok i) →
      let u := if side = .A then beginCycle s core quad wid else s
      ∃ s1, sideSlot s core quad wid g f side = .pass (afterSlot s1) ∧
        { s1 with iss := s.iss } = { (if llrHold (s.warp wid) g { h := default } || throttled s (s.warp wid) then u
          else takeTrap u wid g.pos f 0 ((lanesOf g.mask).map (fun l => (l, Kind.illegal)))) with iss := s.iss })

/-- With nothing scheduled, in a running core's slot of side A or side B, when nothing keeps the subgroup from issuing,
its interface is within its budgets, and the form at its position decodes to an instruction, the step is that
instruction's exec in that slot, and then the slot's end (afterSlot: its charge and the place of the side). Side A
needs a block that runs and no lanes of the quadrant that form a fault event first; what side A does to the block in
their cycle does not keep side B from its slot (R95). On side A the registers, the latches and the pool as they stand
as the cycle begins are kept for the cycle. (02_encoding.md, Runs and fetch; 11_issue_and_registers.md, Arbitration
between runs) -/
def Obligations.StepRunsTheInstruction : Prop :=
  ∀ (s : State) (wid gid : Nat) (g : Sys2Proof.Machine.Group) (f : Fetched) (i : Instr),
    let core := s.focus.core
    let quad := s.focus.quad
    s.sched = [] → s.boot = .up → coreRuns s core = true → (s.quad core quad).hold = some wid →
    (s.warp wid).group? gid = some g → g.cur = some f → f.decoded = .ok i →
    groupWhy s (s.warp wid) g = none → throttled s (s.warp wid) = false →
    (s.focus.side = .A → (s.core core).stop = .no → parkNext s s.focus = none → blockRuns s (s.warp wid) = true → (s.quad core quad).a = some gid →
      step s = (match exec i { beginCycle s core quad wid with iss := some ⟨core, quad, .A, wid, gid, g.mask, f, .issued⟩ } with
        | .next t => .next (afterSlot t)
        | .fault r => .fault r
        | .refused r => .refused r)) ∧
    (s.focus.side = .B → (s.quad core quad).b = some gid →
      step s = (match exec i { s with iss := some ⟨core, quad, .B, wid, gid, g.mask, f, .issued⟩ } with
        | .next t => .next (afterSlot t)
        | .fault r => .fault r
        | .refused r => .refused r))

/-- Between the cycles of a core, when the schedule names an event, the step is that event, and an entry that names none
is passed over. With nothing scheduled, a quadrant that no warp holds arbitrates, unless lanes of its warps have just
stopped at run ends: they form one fault event first. As a quadrant's cycle ends, a run whose lines the core holds is
fetched by RUN_FETCH. The order of events is the model's own (log 1). (95_what_each_step_holds.md, What each step
holds; 11_issue_and_registers.md, Arbitration between runs) -/
def Obligations.StepRunsTheEvent : Prop :=
  (∀ (s : State) (e : Instr) (rest : List Instr), s.sched = e :: rest → s.between = true →
      step s = if isEvent e then exec e { s with sched := rest } else .next { s with sched := rest }) ∧
    (∀ s : State, s.sched = [] ∨ s.between = false → s.boot = .up → coreRuns s s.focus.core = true → (s.core s.focus.core).stop = .no →
      s.focus.side = .A → parkNext s s.focus = none → (s.quad s.focus.core s.focus.quad).hold = none →
      step s = exec (.quadrantArbitration s.focus.core s.focus.quad) s) ∧
    (∀ (s : State) (w : Nat), s.sched = [] ∨ s.between = false → s.boot = .up → coreRuns s s.focus.core = true →
      parkNext s s.focus = some w → step s = exec (.memPark w) s) ∧
    (∀ (s : State) (wid gid : Nat) (run : List Fetched), fetchRun s (s.warp wid) ((s.warp wid).group gid).pos.start = .got run →
      (run.flatMap (codeLines s (s.warp wid))).all ((heldCode s (s.warp wid)).map (·.line)).contains = true →
      exec (.runFetch wid gid) s = .next (fetchOrFill s (wid, gid)))

/-- From every state whose memory lists its bytes by rising address and no byte that an unlisted address reads as, a step
leads to such a state: equal memories stay equal data, whatever instruction or event runs. (14_memory_spaces.md, The
levels a program names) -/
def Obligations.MemoryStaysCanonical : Prop :=
  ∀ s t : State, s.Inv → step s = .next t → t.Inv

/-- The state after reset meets the invariant of MemoryStaysCanonical, lists no byte, and has no granule encrypted.
(23_dies_fabric_package.md, Bring-up) -/
def Obligations.ResetMemoryIsCanonical : Prop :=
  State.reset.Inv ∧ State.reset.mem = [] ∧ State.reset.seals = []

/-- From every state a step answers a next state, unless the schedule's event is MTU_WALK and it stops by the name
noSuchMemory, which only a leaf above the device's memory brings about. No instruction of a program ever stops the
machine, and nothing is refused. (02_encoding.md, The opcode map; 95_what_each_step_holds.md, What each step holds) -/
def Obligations.NothingIsRefused : Prop :=
  ∀ s : State, (∃ t, step s = .next t) ∨
    (step s = .fault .noSuchMemory ∧ ∃ ctx core ia rest, s.sched = .mtuWalk ctx core ia :: rest)

/-- From every state in which no two subgroups of a warp share a name and every warp's next name is fresh, a step leads to
such a state. The names are the model's own; the spec tells subgroups apart by their lanes.
(04_integer_and_control.md, Lanes, subgroups and the next PC) -/
def Obligations.SubgroupNamesStayDistinct : Prop :=
  ∀ s t : State, (∀ w ∈ s.warps, w.Named) → step s = .next t → ∀ w ∈ t.warps, w.Named

/-- An instruction row passes the gate when its port is free, it waits for no long-latency result, and, if some lane is
active, it names nothing that a load of its own run writes and nothing pending for its active lanes, every v register
that it reads is allocated, and the pool has a register for each that it newly writes. It then sees its warp, its
subgroup, its operands, and as active lanes those of the subgroup in which the guard holds. (01_thread_state.md,
Vector registers and renaming; 05_float_and_convert.md, Exceptions, traps and timing; 06_memory_instructions.md, Loads
and stores; 11_issue_and_registers.md, Sides A and B) -/
def Obligations.GateOpens : Prop :=
  ∀ (i : Instr) (s : State) (x : Iss) (p : Shape), s.iss = some x → shape i = some p →
    let w := (s.warp x.warp).seen x.side
    let c : Cx := ⟨x, w, w.group x.gid, p, w.view x.side, (w.group x.gid).mask &&& guardMask (w.view x.side) p.h⟩
    portBusy (s.core x.core) ((s.core x.core).quads.getD x.quad default) x.side (portOf x.f.word) = false →
    llrHold w c.g p = false →
    (c.act ≠ 0 → w.namesLoaded c.g p = false ∧ c.owed s = false ∧ ∀ r ∈ p.reads, c.rf.has r.1 = true) →
    (newRegs c).length ≤ ((s.core x.core).quads.getD x.quad default).avail →
    gate s i = .go c ∧ ∀ l, hasLane c.act l = (hasLane c.g.mask l && (hasLane (c.rf.pred p.h.g.toNat) l != p.h.gn))

/-- Any instruction row, with some lane active and nothing to hold it, that names a register or record which a load, an
atomic or an LDREC of its own run writes raises ILLEGAL in all its active lanes, whether or not the data has arrived,
and one that names nothing pending and reads an unallocated v register raises REG-UNDEF in all of them. It changes
nothing but what a precise trap leaves. (01_thread_state.md, Vector registers and renaming; 11_issue_and_registers.md,
Forwarding and pending bits; 19_traps_faults_preemption.md, Trap events) -/
def Obligations.TrapAtTheGate : Prop :=
  ∀ (i : Instr) (s : State) (x : Iss) (p : Shape), s.iss = some x → shape i = some p →
    let w := (s.warp x.warp).seen x.side
    let c : Cx := ⟨x, w, w.group x.gid, p, w.view x.side, (w.group x.gid).mask &&& guardMask (w.view x.side) p.h⟩
    x.warp < s.warps.length → (s.warp x.warp).thr.length = 32 →
    portBusy (s.core x.core) ((s.core x.core).quads.getD x.quad default) x.side (portOf x.f.word) = false →
    llrHold w c.g p = false → c.act ≠ 0 →
    (w.namesLoaded c.g p = true →
      ∃ t, exec i s = .next t ∧ Trapped c 0 (fun l => if hasLane c.act l then some .illegal else none) s t) ∧
    (w.namesLoaded c.g p = false → c.owed s = false → (∃ r ∈ p.reads, c.rf.has r.1 = false) →
      ∃ t, exec i s = .next t ∧ Trapped c 0 (fun l => if hasLane c.act l then some .regUndef else none) s t)

/-- Any instruction row whose port is held or that must wait for a long-latency result or for data pending for its lanes
leaves the machine as it was, but that the slot is marked as held. One that writes registers for which the pool has no
room suspends its subgroup, which has not issued: nothing else changes. But where it raises precise traps in all its
active lanes, it writes none and traps. (11_issue_and_registers.md, The physical register pool;
11_issue_and_registers.md, Arbitration between runs) -/
def Obligations.HeldOrSuspended : Prop :=
  ∀ (i : Instr) (s : State) (x : Iss) (p : Shape), s.iss = some x → shape i = some p →
    let w := (s.warp x.warp).seen x.side
    let c : Cx := ⟨x, w, w.group x.gid, p, w.view x.side, (w.group x.gid).mask &&& guardMask (w.view x.side) p.h⟩
    let q := (s.core x.core).quads.getD x.quad default
    (portBusy (s.core x.core) q x.side (portOf x.f.word) = true ∨ llrHold w c.g p = true ∨
        (c.act ≠ 0 ∧ w.namesLoaded c.g p = false ∧ c.owed s = true) →
      ∃ t why, exec i s = .next t ∧ t = { s with iss := some { x with out := .held why } }) ∧
    (portBusy (s.core x.core) q x.side (portOf x.f.word) = false → llrHold w c.g p = false → c.act ≠ 0 →
      w.namesLoaded c.g p = false → c.owed s = false → (∀ r ∈ p.reads, c.rf.has r.1 = true) →
      q.avail < (newRegs c).length →
      ∃ t, exec i s = .next t ∧ (t.iss = some { x with out := .trapped } ∨
        t = { s.modWarp x.warp (fun w => w.modGroup (w.group x.gid).gid (fun g => { g with wait := some (.unissued .regAlloc) }))
          with iss := some { x with out := .suspended .regAlloc .regAlloc } }))

/-- When some lanes of a warp of 32 lanes raise precise traps at an instruction, each with its kind, the lanes form one
trap event and park there with their records and their latches, the event waits to be vectored, and the registers,
memory and other warps stay. Without a handler, or with a lane already at trap depth 1, the block is marked to end.
(R438) -/
def Obligations.TakingATrap : Prop :=
  ∀ (s : State) (c : Cx) (code : BitVec 16) (ks : Nat → Option Kind),
    c.iss.warp < s.warps.length → (s.warp c.iss.warp).thr.length = 32 → c.w.core = (s.warp c.iss.warp).core → c.w.block = (s.warp c.iss.warp).block → (∃ l, l < 32 ∧ ks l ≠ none) →
    Trapped c code ks s
      (takeTrap s c.iss.warp c.g.pos c.iss.f code ((List.range 32).filterMap (fun l => (ks l).map (fun k => (l, k)))))

/-- An instruction that goes on (State.done) changes nothing but the places of its subgroup's lanes and the registers
whose last read it is. Inside a run the subgroup stands at the next instruction. At a run's end every lane stands at
the run start behind it, in a subgroup that stands there, or has stopped there for a fault that has been reported.
(02_encoding.md, Runs and fetch; 04_integer_and_control.md, Lanes, subgroups and the next PC; 01_thread_state.md,
Vector registers and renaming) -/
def Obligations.GoingOn : Prop :=
  ∀ (s : State) (c : Cx), c.iss.warp < s.warps.length → (s.warp c.iss.warp).thr.length = 32 → (s.warp c.iss.warp).Named →
    (s.warp c.iss.warp).group? c.iss.gid = some c.g → c.g.gid = c.iss.gid → After c s (s.done c) ∧ GoesOn c (s.done c)

/-- After reset no context, launch, block or warp exists; the PF's mailbox reads BUSY and no other interface does; every
queue block is disabled with its indexes and addresses at 0; the plane map is the identity; the matrix tiles are zero;
no plane is dead; the timebase counts from 0 and PERST is asserted. The last two are the model's choice (log 5).
(23_dies_fabric_package.md, Bring-up; 21_host_and_tenants.md, Queues; 21_host_and_tenants.md, The mailbox;
11_issue_and_registers.md, Seats and residency) -/
def Obligations.ResetState : Prop :=
  State.reset.warps = [] ∧ State.reset.blocks = [] ∧ State.reset.launches = [] ∧ State.reset.ctxs = [] ∧
    (∀ n, n < 64 → (State.reset.iface n).busy = (n == 0) ∧ (State.reset.iface n).tdisp = .unlocked ∧
      ∀ q ∈ (State.reset.iface n).queues, q.en = false ∧ q.err = false ∧ q.sqTail = 0 ∧ q.sqHead = 0 ∧ q.cqHead = 0 ∧ q.cqTail = 0) ∧
    (∀ p, p < 16 → State.reset.planemap.extractLsb' (4 * p) 4 = BitVec.ofNat 4 p) ∧ State.reset.deadmask = 0 ∧
    (∀ k, k < 64 → (State.reset.core k).ctx = none ∧ ∀ t ∈ (State.reset.core k).acc, t.cells = [] ∧ t.stat = 0) ∧
    State.reset.time = 0 ∧ State.reset.boot = .inReset

/-- Predicate q0 reads true in every lane whatever the register file holds, a write to it changes nothing, and an encoding
that names it as a destination is legal. (R24) -/
def Obligations.PredicateZero : Prop :=
  (∀ (rf : RegFile) (l : Nat), l < 32 → hasLane (rf.pred 0) l = true) ∧
    (∀ (rf : RegFile) (act val : LMask), rf.setPred 0 act val = rf) ∧ (Dst.q 0).ok = true

/-- A v source supplies in lane l the group of registers of lane m, the first lowest, where m is l, or the lane that the
permutation of the source names, or none, which supplies 0; a latch and a uniform register supply their low bits; the
constants 0 to 127 are those integers, and the others are (−1)^s × (1 + f/4) × 2^e exactly in FP32, FP16 and BF16, and
their FP32 patterns for an integer operand. (02_encoding.md, The source operand field; 01_thread_state.md, Predicates,
uniform registers and latches) -/
def Obligations.OperandForms : Prop :=
  (∀ (c : Cx) (ft : Option Ty) (n : Nat) (r : BitVec 8) (last : Bool) (p : Perm) (l : Nat), l < 32 →
      let m := match p with
        | .none => some l
        | .rot k => some ((l + k.toNat) % 32)
        | .bc k => some k.toNat
        | .bf k => some (l ^^^ k.toNat)
        | .mir => some (31 - l)
        | .shu k => if k.toNat ≤ l then some (l - k.toNat) else none
        | .shd k => if l + k.toNat < 32 then some (l + k.toNat) else none
      srcVal c ft n (.v r last p) l < 2 ^ (32 * n) ∧ (∀ x, m = some x → x < 32) ∧
        ∀ j, j < n → srcVal c ft n (.v r last p) l / 2 ^ (32 * j) % 2 ^ 32 =
          match m with
          | some x => (c.rf.vget (r.toNat + j) x).toNat
          | none => 0) ∧
    (∀ (c : Cx) (ft : Option Ty) (l : Nat),
      (∀ r, srcVal c ft 1 (.x r) l = (((c.w.thread l).lat.get r.toNat).setWidth 32).toNat ∧ srcVal c ft 2 (.x r) l = ((c.w.thread l).lat.get r.toNat).toNat) ∧
      (∀ r, srcVal c ft 1 (.s r) l = ((c.rf.sget r.toNat).setWidth 32).toNat ∧ srcVal c ft 2 (.s r) l = (c.rf.sget r.toNat).toNat)) ∧
    (∀ i, i < 128 → constVal none i = i ∧ ∀ t : Ty, t = .f32 ∨ t = .f16 ∨ t = .bf16 → Values.real (decode t (constVal (some t) i)) = (i : Rat)) ∧
    (∀ i, 128 ≤ i → i < 256 →
      let x : Rat := (if i < 192 then 1 else -1) * (1 + (i % 4 : Nat) / 4) * (2 : Rat) ^ ((i / 4 % 16 : Nat) - 8 : Int)
      Values.real (decode .f32 (constVal none i)) = x ∧
        ∀ t : Ty, t = .f32 ∨ t = .f16 ∨ t = .bf16 → Values.real (decode t (constVal (some t) i)) = x)

/-- Every integer instruction (ZADD, ZSUB, ZMUL, ZMAC, ZMIN, ZMAX, AADD, LTAB, SHL, SHR, SHF, BFE, BFI, POPC, CLZ, CTZ,
BREV, BYSEL, ZCMP, SEL, MOV and their immediate forms), well formed and past the gate, answers a next state in which
each active lane holds the value of its rule (Values.integer) in its destination or uniform register and in its latch,
and nothing else has changed: memory, other registers, flags and other warps. (04_integer_and_control.md, Integer and
address arithmetic; 04_integer_and_control.md, Logic, shifts and bit fields; 04_integer_and_control.md, Compares,
selects and moves; 01_thread_state.md, Predicates, uniform registers and latches) -/
def Obligations.IntegerLanes : Prop :=
  ∀ (i : Instr) (s : State) (c : Cx) (v : Values.LaneSpec), i.wellFormed = true → Goes i s c → Values.integer i = some v →
    ∃ t, exec i s = .next t ∧ Results c v.ty v.n (v.val s c) s t

/-- QTAB, QGET, POLL, PEERS, LXCH, LRED and LEAD, well formed and past the gate, answer a next state in which each active
lane holds the value of its rule (Values.predicate), and nothing else has changed. (04_integer_and_control.md,
Predicate logic and lane collectives) -/
def Obligations.PredicateLanes : Prop :=
  ∀ (i : Instr) (s : State) (c : Cx) (v : Values.LaneSpec), i.wellFormed = true → Goes i s c → Values.predicate i = some v →
    ∃ t, exec i s = .next t ∧ Results c v.ty v.n (v.val s c) s t

/-- QSET answers a next state in which, in each active lane, every predicate of the bank other than q0 whose bit in b is 1
takes its bit of a; every other predicate, and every predicate in an inactive lane, keeps its value; and nothing else
changes but the places of the lanes and the registers whose last read it is. (04_integer_and_control.md, Predicate
logic and lane collectives) -/
def Obligations.QsetWritesTheBank : Prop :=
  ∀ (h : Hd) (hi : Bool) (a b : Src) (s : State) (c : Cx), Goes (.qset h hi a b) s c →
    ∃ t, exec (.qset h hi a b) s = .next t ∧
      (∃ q, After c (s.modIss c (fun w => { w with rf := { w.rf with q := q } })) t) ∧
      ∀ k l, k < 256 → l < 32 →
        let j := if hi then k - 32 else k
        hasLane ((t.regs c).pred k) l =
          if k ≠ 0 ∧ (if hi then 32 ≤ k ∧ k < 48 else k < 32) ∧ hasLane c.act l ∧ (Values.w32 c b l).getLsbD j
          then (Values.w32 c a l).getLsbD j
          else hasLane ((s.regs c).pred k) l

/-- FADD, FSUB, FMUL, FMAC, FMIN, FMAX, FABS, FNEG, FCMP, FCLASS and the F2 forms, well formed and past the gate, with no
lane raising an enabled exception, answer a next state in which each active lane holds the value of its rule
(Values.float: the exact rational result, rounded once) and has the exceptions' sticky flags, and nothing else has
changed. (05_float_and_convert.md, Arithmetic and comparison; 05_float_and_convert.md, Operands and results;
03_number_formats.md, Rounding a result into a format) -/
def Obligations.FloatLanes : Prop :=
  ∀ (i : Instr) (s : State) (c : Cx) (v : Values.LaneSpec), i.wellFormed = true → Goes i s c → Values.float i = some v →
    (∀ l, hasLane c.act l → Values.firstExc (c.rf.fpctl.extractLsb' 6 5).toNat (v.val s c l).flags = none) →
    ∃ t, exec i s = .next t ∧ Results c v.ty v.n (v.val s c) s t

/-- CVT, PCVT, FMTW of an immediate, PACK, UNPK, FRND and FLDEX, well formed and past the gate, with no lane raising an
enabled exception, answer a next state in which each active lane holds the value of its rule (Values.convert) and has
the exceptions' sticky flags, and nothing else has changed. (05_float_and_convert.md, Scalar conversion;
05_float_and_convert.md, Packed conversion; 05_float_and_convert.md, Rounding, scaling and packing helpers) -/
def Obligations.ConvertLanes : Prop :=
  ∀ (i : Instr) (s : State) (c : Cx) (v : Values.LaneSpec), i.wellFormed = true → Goes i s c → Values.convert i = some v →
    (∀ l, hasLane c.act l → Values.firstExc (c.rf.fpctl.extractLsb' 6 5).toNat (v.val s c l).flags = none) →
    ∃ t, exec i s = .next t ∧ Results c v.ty v.n (v.val s c) s t

/-- When some active lane of a floating-point or conversion instruction raises an exception that FPCTL enables, every such
lane parks with a record whose kind is its first enabled exception in the order invalid, division by zero, overflow,
underflow, inexact; it writes no register that was allocated and no latch; and every active lane gets its sticky
flags, while the lanes without an enabled exception hold their results. Memory stays. (05_float_and_convert.md,
Exceptions, traps and timing; 01_thread_state.md, The floating-point control and status words) -/
def Obligations.EnabledExceptionsTrap : Prop :=
  ∀ (i : Instr) (s : State) (c : Cx) (v : Values.LaneSpec), i.wellFormed = true → Goes i s c → Values.float i = some v ∨ Values.convert i = some v →
    let ks : Nat → Option Kind := fun l =>
      if hasLane c.act l then Values.firstExc (c.rf.fpctl.extractLsb' 6 5).toNat (v.val s c l).flags else none
    (∃ l, l < 32 ∧ ks l ≠ none) →
    ∃ t, exec i s = .next t ∧ t.mem = s.mem ∧ t.seals = s.seals ∧
      (t.warp c.iss.warp).events = (s.warp c.iss.warp).events ++ [⟨takes ks, false⟩] ∧
      (∀ l, hasLane c.act l → (t.lane c l).fpstat = (s.lane c l).fpstat ||| BitVec.ofNat 5 (v.val s c l).flags) ∧
      (∀ l k, ks l = some k → l < 32 →
        (∃ rid, (t.lane c l).st = .parked c.g.pos rid) ∧ (t.lane c l).lat = (s.lane c l).lat ∧
          ((s.lane c l).depth = false → (t.lane c l).trec = some ⟨k, c.iss.f.pc, 0, c.iss.f.word, takes ks⟩) ∧
          ∀ r, (s.regs c).has r = true → (t.regs c).vget r l = (s.regs c).vget r l) ∧
      ∀ l, hasLane c.act l → ks l = none → c.p.d = false → Holds c t l (v.val s c l).val

/-- FMTW of a register whose words are legal in every active lane answers a next state with the words in the destination
and the latch, and nothing else changed. Where some active lane's word is illegal, those lanes take a precise ILLEGAL
trap and write no register that was allocated, and the others hold their words; memory stays. A word is legal when its
fields are those of the spec's rules (Values.LegalWord). (05_float_and_convert.md, Matrix format words;
02_encoding.md, How illegal encodings are taken) -/
def Obligations.FmtwChecksItsWord : Prop :=
  (∀ (h : Hd) (d : Du) (a : Src) (s : State) (c : Cx), Goes (.fmtw h d a) s c → (∀ l, hasLane c.act l → Values.LegalWord (Values.w32 c a l)) →
      ∃ t, exec (.fmtw h d a) s = .next t ∧ Results c (some .b32) 1 (fun l => ⟨(Values.w32 c a l).toNat, 0⟩) s t) ∧
    (∀ (h : Hd) (d : Du) (a : Src) (s : State) (c : Cx), Goes (.fmtw h d a) s c → (∃ l, hasLane c.act l ∧ ¬ Values.LegalWord (Values.w32 c a l)) →
      let ks : Nat → Option Kind := fun l => if hasLane c.act l && !decide (Values.LegalWord (Values.w32 c a l)) then some .illegal else none
      ∃ t, exec (.fmtw h d a) s = .next t ∧ t.mem = s.mem ∧ t.seals = s.seals ∧
        (t.warp c.iss.warp).events = (s.warp c.iss.warp).events ++ [⟨takes ks, false⟩] ∧
        (∀ l k, ks l = some k → (∃ rid, (t.lane c l).st = .parked c.g.pos rid) ∧ (t.lane c l).lat = (s.lane c l).lat ∧
          ((s.lane c l).depth = false → (t.lane c l).trec = some ⟨k, c.iss.f.pc, 0, c.iss.f.word, takes ks⟩) ∧
          ∀ r, (s.regs c).has r = true → (t.regs c).vget r l = (s.regs c).vget r l) ∧
        ∀ l, hasLane c.act l → ks l = none → c.p.d = false → Holds c t l (Values.w32 c a l).toNat)

/-- Rounding a positive value into a binary format without overflow gives a finite element of the value's sign that is the
nearest of all, with ties to the even fraction, under RN; the nearest of no greater magnitude under RZ; and the
nearest not above or not below under RD and RU. IX is set exactly when the element is not the value.
(03_number_formats.md, Rounding a result into a format) -/
def Obligations.RoundingSelects : Prop :=
  ∀ (t : Ty) (mode : RMode) (neg : Bool) (n d : Nat), tyBin t = true → 0 < n → 0 < d →
    let r := roundBin t mode false false neg n d
    r.2 / 4 % 2 = 0 →
    r.1 < 2 ^ tyBits t ∧ (r.1 / 2 ^ (tyBits t - 1) = 1 ↔ neg = true) ∧
      ∃ y, Values.magOf t r.1 = some y ∧ Values.Selects t mode neg ((n : Rat) / (d : Rat)) (r.1 % 2 ^ (tyBits t - 1)) y ∧
        (r.2 / 16 % 2 = 1 ↔ y ≠ (n : Rat) / (d : Rat))

/-- Rounding a positive value up to 10^6 into D8 gives the nearest decimal of the format, or zero, by the mode; on a tie
under RN the one with the even fraction field, and of two even ones the larger. A zero is always code 0x00. A value
above 10^6 overflows in every mode and sets OF and IX. (03_number_formats.md, The D8 decade format;
03_number_formats.md, Rounding a result into a format) -/
def Obligations.DecimalRoundingSelects : Prop :=
  ∀ (mode : RMode) (neg : Bool) (n d : Nat), 0 < n → 0 < d →
    let r := roundD8 mode false neg n d
    (n ≤ 1000000 * d → r.1 < 256 ∧ r.1 ≠ 0x80 ∧ (r.1 ≠ 0 → (128 ≤ r.1 ↔ neg = true)) ∧
      ∃ y, Values.magOf .d8 r.1 = some y ∧ Values.Selects .d8 mode neg ((n : Rat) / (d : Rat)) (r.1 % 128) y ∧
        (r.2 / 16 % 2 = 1 ↔ y ≠ (n : Rat) / (d : Rat))) ∧
    (1000000 * d < n → r.2 = 20 ∧ (r.1 = 0x80 ∨ r.1 = (if neg then 0x81 else 0x01)))

/-- Into each destination format a NaN gives the canonical NaN under DNAN and where the format has one NaN, and +0 or 0
with IV where it has none; an infinity stays one without a flag where the format has one, and else gives the format's
own result with IV, saturated under SATF; overflow sets OF and IX and gives ±max or an infinity by the mode.
(03_number_formats.md, Binary floating-point formats; 05_float_and_convert.md, Operands and results) -/
def Obligations.SpecialValuesRound : Prop :=
  (∀ (t : Ty) (mode : RMode) (satf ftz neg sig : Bool) (frac m : Nat),
      (tyBin t = true ∧ t ≠ .e2m1 ∨ t = .d8 → roundNum t mode satf ftz true (.nan neg sig frac m) = (canonNan t, if sig then 1 else 0)) ∧
      roundNum .e2m1 mode satf ftz true (.nan neg sig frac m) = (0, 1) ∧
      (tyInt t = true → roundNum t mode satf ftz true (.nan neg sig frac m) = (0, 1))) ∧
    (∀ (t : Ty) (mode : RMode) (ftz dnan neg : Bool),
      (t = .f32 ∨ t = .f16 ∨ t = .bf16 ∨ t = .e5m2 →
        roundNum t mode false ftz dnan (.inf neg) = (infBits t neg, 0) ∧ roundNum t mode true ftz dnan (.inf neg) = (maxBits t neg, 1)) ∧
      (t = .e4m3 ∨ t = .d8 →
        roundNum t mode false ftz dnan (.inf neg) = (canonNan t, 1) ∧ roundNum t mode true ftz dnan (.inf neg) = (maxBits t neg, 1)) ∧
      roundNum .e2m1 mode false ftz dnan (.inf neg) = (maxBits .e2m1 neg, 1)) ∧
    (∀ (t : Ty) (mode : RMode), t = .f32 ∨ t = .f16 ∨ t = .bf16 ∨ t = .e5m2 ∨ t = .e4m3 ∨ t = .d8 →
      (∀ neg, ovfBits t mode true neg = maxBits t neg) ∧
      ovfBits t .rn false true = (if t = .e4m3 ∨ t = .d8 then canonNan t else infBits t true) ∧
      (∀ neg, ovfBits t .rz false neg = maxBits t neg) ∧ ovfBits t .rd false false = maxBits t false ∧ ovfBits t .ru false true = maxBits t true) ∧
    canonNan .f32 = 0x7FC00000 ∧ canonNan .f16 = 0x7E00 ∧ canonNan .bf16 = 0x7FC0 ∧ canonNan .e5m2 = 0x7E ∧ canonNan .e4m3 = 0x7F ∧
    canonNan .d8 = 0x80 ∧ maxBits .f32 false = 0x7F7FFFFF ∧ maxBits .e4m3 false = 0x7E ∧ maxBits .e2m1 true = 0xF ∧ maxBits .d8 true = 0x81

/-- FDIV, FSQRT, FRCP, FRSQ, FEXP2, FLOG2, FSIN, FCOS and FTANH, well formed, past the gate and with some lane active,
answer a next state in which a record holds every active lane's value and exceptions (Values.long), the exceptions
then enabled, and the destination; the special-function unit is held for ceil(n/8) cycles, or twice that; and every
register that the instruction neither writes nor frees, FPSTAT and memory stay. (05_float_and_convert.md, Exceptions,
traps and timing; 05_float_and_convert.md, Special functions) -/
def Obligations.LongLatencyIssues : Prop :=
  ∀ (i : Instr) (s : State) (c : Cx) (per : Nat) (f : Cx → Nat → Res), i.wellFormed = true → Goes i s c → Values.long i = some (per, f) →
    c.act ≠ 0 → c.iss.core < s.cores.length → c.iss.quad < (s.core c.iss.core).quads.length →
    ∃ t r, exec i s = .next t ∧ t.mem = s.mem ∧ t.seals = s.seals ∧ (t.warp c.iss.warp).llr.getLast? = some r ∧
      (t.warp c.iss.warp).llr.length = (s.warp c.iss.warp).llr.length + 1 ∧
      r.act = c.act ∧ r.latch = c.act ∧ r.pos = c.g.pos ∧ r.f = c.iss.f ∧ r.d = c.p.d ∧ r.exc = c.rf.fpctl.extractLsb' 6 5 ∧
      (∀ q n, c.p.dst = .v q n → r.dst = q ∧ r.uni = false) ∧ (∀ q n, c.p.dst = .s q n → r.dst = q ∧ r.uni = !c.p.d) ∧
      (∀ l, hasLane c.act l → (l, BitVec.ofNat 32 (f c l).val, BitVec.ofNat 5 (f c l).flags) ∈ r.vals) ∧ r.vals.length = laneCount c.act ∧
      (t.quad c.iss.core c.iss.quad).sfuUntil = s.now c + (laneCount c.act + 7) / 8 * per ∧
      (∀ l, (t.lane c l).fpstat = (s.lane c l).fpstat) ∧
      ∀ k l, l < 32 → k ∉ c.p.writes → ¬ Frees c k → (t.regs c).vget k l = (s.regs c).vget k l

/-- For a positive finite FP32, FP16 or BF16 operand the result y of FSQRT is the element that the mode selects: under RZ
and RD the greatest with y² ≤ x, under RU the least with x ≤ y², and under RN one to which the root is no farther than
to any other element. (05_float_and_convert.md, Arithmetic and comparison; 03_number_formats.md, Rounding a result
into a format) -/
def Obligations.SqrtIsRounded : Prop :=
  ∀ (t : Ty) (mode : RMode) (b n d : Nat), t = .f32 ∨ t = .f16 ∨ t = .bf16 → decodeBin t b = .fin false n d → 0 < n →
    let x : Rat := (n : Rat) / (d : Rat)
    let r := (roundNum t mode false false true (sqrtNum n d)).1
    ∃ y, Values.magOf t r = some y ∧ r < 2 ^ (tyBits t - 1) ∧
      match mode with
      | .ru => x ≤ y * y ∧ ∀ k z, Values.magOf t k = some z → x ≤ z * z → y ≤ z
      | .rn => ∀ k z, Values.magOf t k = some z →
        (z < y → (y + z) * (y + z) ≤ 4 * x) ∧ (y < z → 4 * x ≤ (y + z) * (y + z))
      | _ => y * y ≤ x ∧ ∀ k z, Values.magOf t k = some z → z * z ≤ x → z ≤ y

/-- At zeros and infinities the seven special functions give the results and flags of the spec's table; a negative operand
of FRSQ or FLOG2 gives the canonical NaN with IV, FRCP of a power of two and FEXP2 of an integer from −126 to 127 are
exact without a flag, FTANH beyond ±10 is ±1, and FEXP2 from 128 up overflows. Elsewhere the value is free within its
bound (log 6). (05_float_and_convert.md, Special functions) -/
def Obligations.SpecialFunctionTable : Prop :=
  (∀ fp, nbits fp 2 2 = 0 →
      (sfuVal 0x110 fp 0, sfuVal 0x110 fp 0x80000000, sfuVal 0x110 fp 0x7F800000, sfuVal 0x110 fp 0xFF800000)
        = ((0x7F800000, 2), (0xFF800000, 2), (0, 0), (0x80000000, 0)) ∧
      (sfuVal 0x112 fp 0, sfuVal 0x112 fp 0x80000000, sfuVal 0x112 fp 0x7F800000, sfuVal 0x112 fp 0xFF800000)
        = ((0x7F800000, 2), (0xFF800000, 2), (0, 0), (0x7FC00000, 1)) ∧
      (sfuVal 0x113 fp 0, sfuVal 0x113 fp 0x80000000, sfuVal 0x113 fp 0x7F800000, sfuVal 0x113 fp 0xFF800000)
        = ((0x3F800000, 0), (0x3F800000, 0), (0x7F800000, 0), (0, 0)) ∧
      (sfuVal 0x114 fp 0, sfuVal 0x114 fp 0x80000000, sfuVal 0x114 fp 0x7F800000, sfuVal 0x114 fp 0xFF800000)
        = ((0xFF800000, 2), (0xFF800000, 2), (0x7F800000, 0), (0x7FC00000, 1)) ∧
      (sfuVal 0x115 fp 0, sfuVal 0x115 fp 0x80000000, sfuVal 0x115 fp 0x7F800000, sfuVal 0x115 fp 0xFF800000)
        = ((0, 0), (0x80000000, 0), (0x7FC00000, 1), (0x7FC00000, 1)) ∧
      (sfuVal 0x116 fp 0, sfuVal 0x116 fp 0x80000000, sfuVal 0x116 fp 0x7F800000, sfuVal 0x116 fp 0xFF800000)
        = ((0x3F800000, 0), (0x3F800000, 0), (0x7FC00000, 1), (0x7FC00000, 1)) ∧
      (sfuVal 0x117 fp 0, sfuVal 0x117 fp 0x80000000, sfuVal 0x117 fp 0x7F800000, sfuVal 0x117 fp 0xFF800000)
        = ((0, 0), (0x80000000, 0), (0x3F800000, 0), (0xBF800000, 0))) ∧
    (∀ fp x n d, x < 2 ^ 32 → decodeBin .f32 (flushIn .f32 fp x) = .fin true n d → 0 < n →
      sfuVal 0x112 fp x = (0x7FC00000, 1) ∧ sfuVal 0x114 fp x = (0x7FC00000, 1)) ∧
    (∀ fp (neg : Bool) (e : Nat), 1 ≤ e → e ≤ 253 →
      sfuVal 0x110 fp ((if neg then 2 ^ 31 else 0) + e * 2 ^ 23) = ((if neg then 2 ^ 31 else 0) + (254 - e) * 2 ^ 23, 0)) ∧
    (∀ fp x neg k d, x < 2 ^ 32 → decodeBin .f32 (flushIn .f32 fp x) = .fin neg (k * d) d → 0 < d → 0 < k → (if neg then k < 127 else k < 128) →
      sfuVal 0x113 fp x = ((if neg then 127 - k else 127 + k) * 2 ^ 23, 0)) ∧
    (∀ fp x n d, x < 2 ^ 32 → decodeBin .f32 (flushIn .f32 fp x) = .fin false n d → 128 * d ≤ n → sfuVal 0x113 fp x = (0x7F800000, 20)) ∧
    (∀ fp x neg n d, x < 2 ^ 32 → decodeBin .f32 (flushIn .f32 fp x) = .fin neg n d → 10 * d ≤ n → sfuVal 0x117 fp x = (if neg then 0xBF800000 else 0x3F800000, 0))

/-- ACVT in both directions, ATEST, FREC, SRD, ACCT and CNT, well formed and past the gate, answer a next state in which
each active lane holds the value of its rule (Values.system), and nothing else has changed. SRD of FPSTAT is not one
of these while a long-latency result of its lanes is outstanding: it is held then. (08_system_instructions.md, Reading
records with FREC; 08_system_instructions.md, Special registers; 08_system_instructions.md, Accounts, counters and
marks; 06_memory_instructions.md, Address conversion and tests) -/
def Obligations.SystemReads : Prop :=
  ∀ (i : Instr) (s : State) (c : Cx) (v : Values.LaneSpec), i.wellFormed = true → Goes i s c → Values.system i = some v →
    ((∀ h d, i ≠ .srd h d 15) ∨ (∀ r ∈ c.w.llr, r.act &&& c.act = 0)) → ∃ t, exec i s = .next t ∧ Results c v.ty v.n (v.val s c) s t

/-- Past the gate NOP changes nothing; YIELD marks its warp as having yielded; JOIN.ARM arms its barrier with the active
lanes expected and none arrived, or adds them where it is armed; JOIN.BREAK takes the active lanes from the expected
ones, and with none left disarms the barrier. With no active lane a barrier stays. Nothing else changes but the places
of the lanes. (04_integer_and_control.md, EXIT, NOP and YIELD; 04_integer_and_control.md, Join barriers) -/
def Obligations.ControlGoesOn : Prop :=
  (∀ (h : Hd) (s : State) (c : Cx), Goes (.nop h) s c → ∃ t, exec (.nop h) s = .next t ∧ After c s t) ∧
    (∀ (h : Hd) (s : State) (c : Cx), Goes (.yield h) s c →
      ∃ t, exec (.yield h) s = .next t ∧ After c (s.modIss c (fun w => { w with yielded := true })) t) ∧
    (∀ (h : Hd) (j : BitVec 4) (s : State) (c : Cx), Goes (.joinArm h j) s c →
      let b := c.w.joins.getD j.toNat default
      let b' : JoinB := if c.act = 0 then b else if b.armed then { b with expected := b.expected ||| c.act } else ⟨true, c.act, 0⟩
      ∃ t, exec (.joinArm h j) s = .next t ∧ After c (s.modIss c (fun w => { w with joins := w.joins.set j.toNat b' })) t) ∧
    (∀ (h : Hd) (j : BitVec 4) (s : State) (c : Cx), Goes (.joinBreak h j) s c →
      let b := c.w.joins.getD j.toNat default
      let e := b.expected &&& ~~~c.act
      let b' : JoinB := if c.act = 0 then b else if e = 0 then ⟨false, 0, 0⟩ else { b with expected := e }
      ∃ t, exec (.joinBreak h j) s = .next t ∧ After c (s.modIss c (fun w => { w with joins := w.joins.set j.toNat b' })) t)

/-- BRA, BRX, CALL, CALL.IND and RET, past the gate and at their run's end, send every active lane to its target and every
other lane of the subgroup on. CALL and CALL.IND write the address behind the instruction to their destination in
every active lane; nothing else changes. An active lane whose target is odd parks there with an ILLEGAL trap, and the
others go and, at a call, hold the return address. (R145) -/
def Obligations.BranchesGo : Prop :=
  ∀ (i : Instr) (s : State) (c : Cx) (tgt : Cx → Nat → W64), Goes i s c → Values.target i = some tgt → c.iss.f.ends = true →
    (s.warp c.iss.warp).Named →
    let dest := fun l => if hasLane c.act l then tgt c l else c.iss.f.next
    let bad := fun l => hasLane c.act l && (tgt c l).getLsbD 0
    ((∀ l, l < 32 → bad l = false) → ∃ t, exec i s = .next t ∧
      Results c none 2 (fun _ => ⟨c.iss.f.next.toNat, 0⟩) s t ∧
      ∀ l, hasLane c.g.mask l → (t.warp c.iss.warp).standsAt l (dest l)) ∧
    ((∃ l, l < 32 ∧ bad l = true) → ∃ u t, exec i s = .next t ∧ Frame c s u ∧
      Trapped c 0 (fun l => if bad l then some .illegal else none) u t ∧
      ∀ l, hasLane c.g.mask l → bad l = false → (t.warp c.iss.warp).standsAt l (dest l) ∧
        (hasLane c.act l → c.p.d = false → Holds c t l c.iss.f.next.toNat))

/-- JOIN.WAIT at a disarmed barrier goes on and changes nothing. At an armed one each active lane that the barrier expects
arrives and waits, or stops there for a reported fault; each active lane that it does not expect parks with an ILLEGAL
trap; and lanes whose guard is false go on. Registers, memory and other warps stay. As the cycle ends, an armed
barrier that misses no expected live lane is disarmed and its arrived lanes go on behind their own JOIN.WAIT, and
every other barrier stays. (04_integer_and_control.md, Join barriers) -/
def Obligations.JoinWaitWaits : Prop :=
  (∀ (h : Hd) (j : BitVec 4) (s : State) (c : Cx), Goes (.joinWait h j) s c →
    let b := c.w.joins.getD j.toNat default
    let w := s.warp c.iss.warp
    (b.armed = false → ∃ t, exec (.joinWait h j) s = .next t ∧ After c s t) ∧
    (b.armed = true → ∃ t, exec (.joinWait h j) s = .next t ∧
      let v := t.warp c.iss.warp
      t = { s with warps := t.warps, blocks := t.blocks, cores := t.cores, ctr := t.ctr, iss := t.iss } ∧
      (c.act &&& ~~~b.expected = 0 → t.blocks = s.blocks ∧ t.cores = s.cores) ∧
      (∀ k, k ≠ c.iss.warp → t.warps[k]? = s.warps[k]?) ∧ v.rf = w.rf ∧ v.live = w.live ∧
      (∀ k, k ≠ j.toNat → v.joins[k]? = w.joins[k]?) ∧
      v.joins.getD j.toNat default = { b with arrived := b.arrived ||| maskOf (fun l => hasLane c.act l && hasLane b.expected l && !(w.thread l).stop) } ∧
      (∀ l, hasLane c.act l → hasLane b.expected l → (w.thread l).stop = false → (v.thread l).st = .atJoin j.toNat c.iss.f.pc) ∧
      (∀ l, hasLane c.act l → hasLane b.expected l → (w.thread l).stop = true → (v.thread l).st = .memStopped c.iss.f.pc) ∧
      (∀ l, hasLane c.act l → hasLane b.expected l = false →
        (∃ rid, (v.thread l).st = .parked c.g.pos rid) ∧
          ((w.thread l).depth = false → ∃ r, (v.thread l).trec = some r ∧ r.kind = .illegal ∧ r.pc = c.iss.f.pc)) ∧
      (w.Named → c.iss.f.ends = true → ∀ l, hasLane c.g.mask l → hasLane c.act l = false → v.standsAt l c.iss.f.next))) ∧
    (∀ (w : Warp) (draw j : Nat), w.Named → w.joins.length = 16 → w.thr.length = 32 → j < 16 →
      let b := w.joins.getD j default
      let v := joinsComplete draw w
      (b.armed = true → b.expected &&& w.live &&& ~~~b.arrived = 0 → v.joins.getD j default = ⟨false, 0, 0⟩ ∧
        ∀ l k pc, hasLane b.arrived l → (w.thread l).st = .atJoin k pc → v.standsAt l (pc + 12)) ∧
      (b.armed = false ∨ b.expected &&& w.live &&& ~~~b.arrived ≠ 0 → v.joins.getD j default = b))

/-- EXIT with active lanes of which none is at trap depth 1 and nothing can still fault removes them from the live mask
and from every join barrier's expected lanes, but for those with a reported fault, which stop at it; a warp whose last
lane exits ends and frees its registers. While something may still fault the subgroup waits and nothing else changes.
At trap depth 1 the block is marked to end. Memory and other lanes' liveness stay. (04_integer_and_control.md, EXIT,
NOP and YIELD; 01_thread_state.md, Vector registers and renaming; 08_system_instructions.md, Trap depth) -/
def Obligations.ExitEndsItsLanes : Prop :=
  ∀ (h : Hd) (s : State) (c : Cx), Goes (.exit h) s c →
    let w := s.warp c.iss.warp
    let out := maskOf (fun l => hasLane c.act l && !(w.thread l).stop)
    (c.act = 0 → ∃ t, exec (.exit h) s = .next t ∧ After c s t) ∧
    (w.deep &&& c.act ≠ 0 → w.block < s.blocks.length → ∃ t, exec (.exit h) s = .next t ∧
      t = { s with blocks := t.blocks, iss := t.iss } ∧ (t.block w.block).kill ≠ none) ∧
    (c.act ≠ 0 → w.deep &&& c.act = 0 → mayFault w c.act = true →
      exec (.exit h) s = .next { s.modIss c (fun w => w.modGroup c.g.gid (fun g => { g with wait := some (.issued .memory c.act {}) }))
        with iss := some { c.iss with out := .suspended .memory .issued } }) ∧
    (c.act ≠ 0 → w.deep &&& c.act = 0 → mayFault w c.act = false → ∃ t, exec (.exit h) s = .next t ∧
      let v := t.warp c.iss.warp
      t.mem = s.mem ∧ t.seals = s.seals ∧ v.live = w.live &&& ~~~out ∧
      (∀ k, k ≠ c.iss.warp → (t.warp k).live = (s.warp k).live ∧ (t.warp k).rf = (s.warp k).rf) ∧
      (∀ j, j < w.joins.length → let b := w.joins.getD j default
        v.joins.getD j default = { b with expected := b.expected &&& ~~~out }) ∧
      (v.live = 0 → v.place = .ended ∧ v.rf.alloc = 0 ∧ v.mon.armed = false) ∧
      (v.live ≠ 0 → v.place = w.place ∧ v.rf = w.rf) ∧
      (w.Named → c.iss.f.ends = true → ∀ l, hasLane c.g.mask l → hasLane c.act l = false → (w.thread l).stop = false →
        ∃ g ∈ v.groups, hasLane g.mask l ∧ g.startsAt c.iss.f.next))

/-- VPOINT with active lanes traps with ILLEGAL in all of them where the running variant has no switch-point entry for its
number, where the rendezvous is open for another number, and at trap depth 1. Else it opens the rendezvous for its
number and its lanes wait there, or stop there for a reported fault; registers, memory, other warps and the rest of
the block stay. (04_integer_and_control.md, VPOINT) -/
def Obligations.VpointWaits : Prop :=
  ∀ (h : Hd) (n : BitVec 6) (s : State) (c : Cx), Goes (.vpoint h n) s c → c.act ≠ 0 → c.w.block < s.blocks.length →
    let w := s.warp c.iss.warp
    let b := s.block c.w.block
    let illegal := switchEntry (s.launch b.launch) b.variant n.toNat = none ∨ (∃ m, b.vp.num = some m ∧ m ≠ n.toNat) ∨ c.w.deep &&& c.act ≠ 0
    (illegal → ∃ t, exec (.vpoint h n) s = .next t ∧ Trapped c 0 (fun l => if hasLane c.act l then some .illegal else none) s t) ∧
    (¬ illegal → ∃ t, exec (.vpoint h n) s = .next t ∧
      let v := t.warp c.iss.warp
      t = { s with warps := t.warps, blocks := t.blocks, ctr := t.ctr, iss := t.iss } ∧
      (∀ k, k ≠ c.iss.warp → t.warps[k]? = s.warps[k]?) ∧ (∀ k, k ≠ c.w.block → t.blocks[k]? = s.blocks[k]?) ∧
      v.rf = w.rf ∧ v.live = w.live ∧ v.joins = w.joins ∧
      t.block c.w.block = { b with vp := if b.vp = .none then .opened n.toNat else b.vp } ∧
      (∀ l, hasLane c.act l → (v.thread l).st = if (w.thread l).stop then .memStopped c.iss.f.pc else .atVpoint n.toNat c.iss.f.pc))

/-- With no long-latency result outstanding for its lanes, SWR to FPSTAT answers a next state in which each active lane's
sticky flag is clear where the lane's own value has a 1 and unchanged where it has a 0. No other lane's flags, and
nothing else but the places of the lanes and the registers it frees, changes. (R43) -/
def Obligations.SwrFpstat : Prop :=
  ∀ (h : Hd) (a : Src) (s : State) (c : Cx), Goes (.swr h 15 a) s c → (∀ r ∈ c.w.llr, r.act &&& c.act = 0) →
    ∃ t, exec (.swr h 15 a) s = .next t ∧
      (∀ l k, l < 32 → k < 5 → (t.lane c l).fpstat.getLsbD k =
        ((s.lane c l).fpstat.getLsbD k && !(hasLane c.act l && (Values.w32 c a l).getLsbD k))) ∧
      ∃ thr, After c (s.modIss c (fun w => { w with thr := thr })) t ∧ ∀ l, l < 32 →
        thr.getD l default = { s.lane c l with fpstat := (thr.getD l default).fpstat }

/-- SWR to FPCTL answers a next state in which FPCTL holds the value of the lowest active lane and nothing else has
changed but the places of the lanes and the registers it frees; with a reserved bit set in that value all active lanes
trap with ILLEGAL instead and FPCTL stays. With no active lane an SWR changes nothing, and SWR of FPSTAT is held while
a long-latency result of its lanes is outstanding. ACCT.SNAP copies the 18 counts of the issuing context on the core
and the 18 on the warp's quadrant into the warp's snapshot. MARK emits one record with the code, the active mask, the
PC, the logical-thread name and the payload of the lowest active lane; with no trace ring it changes nothing. With no
active lane neither has an effect. Nothing else changes. (01_thread_state.md, The floating-point control and status
words; 08_system_instructions.md, Special registers; 08_system_instructions.md, Accounts, counters and marks;
12_slot_accounts_and_trace.md, Trace records) -/
def Obligations.SystemWrites : Prop :=
  (∀ (h : Hd) (a : Src) (s : State) (c : Cx),
    (Goes (.swr h 14 a) s c → c.act ≠ 0 →
      let v := Values.w32 c a (Values.lowest c.act)
      (v &&& 0xFFFFF820 = 0 → ∃ t, exec (.swr h 14 a) s = .next t ∧ After c (s.modIss c (fun w => { w with rf := { w.rf with fpctl := v } })) t) ∧
      (v &&& 0xFFFFF820 ≠ 0 → ∃ t, exec (.swr h 14 a) s = .next t ∧ Trapped c 0 (fun l => if hasLane c.act l then some .illegal else none) s t)) ∧
    (∀ n, n = 14 ∨ n = 15 → Goes (.swr h n a) s c → c.act = 0 → ∃ t, exec (.swr h n a) s = .next t ∧ After c s t) ∧
    (Goes (.swr h 15 a) s c → c.act ≠ 0 → (∃ r ∈ c.w.llr, r.act &&& c.act ≠ 0) →
      exec (.swr h 15 a) s = .next { s with iss := some { c.iss with out := .held .dependence } })) ∧
    (∀ (h : Hd) (s : State) (c : Cx), Goes (.acctSnap h) s c →
      let snap := (List.range 18).map (fun n => Values.acctOf s c 0 n + Values.acctOf s c 1 n + Values.acctOf s c 2 n + Values.acctOf s c 3 n)
        ++ (List.range 18).map (Values.acctOf s c c.w.quad)
      ∃ t, exec (.acctSnap h) s = .next t ∧ After c (s.modIss c (fun w => if c.act = 0 then w else { w with snap := snap })) t) ∧
    (∀ (h : Hd) (code : BitVec 16) (a : Src) (s : State) (c : Cx), Goes (.mark h code a) s c →
      let l := Values.lowest c.act
      let b := s.block c.w.block
      let name := (s.launch b.launch).lid.toNat + b.index * 2 ^ 64 + (c.w.index * 32 + l) * 2 ^ 104 + b.attempt * 2 ^ 114
      let rec_ : TraceRec := ⟨2, code.toNat, c.act, c.iss.f.pc, name, (Values.w32 c a l).toNat, 0⟩
      (c.act = 0 ∨ (Values.ctxOf s c).trace = none → ∃ t, exec (.mark h code a) s = .next t ∧ After c s t) ∧
      (c.act ≠ 0 → ∃ t, exec (.mark h code a) s = .next t ∧ After c (traceEmit s b.ctx c.iss.core c.iss.quad rec_) t))

/-- TRAP with active lanes takes a USER-TRAP trap in all of them with its code; with none it goes on. BPT changes nothing
where the context has no session or the id is not enabled. Else each active lane stops behind the BPT and the others
go on; registers and the rest of each lane's record stay, and memory stays where the context has no trace ring.
(08_system_instructions.md, TRAP and BPT; 19_traps_faults_preemption.md, Trap depth, halts and breakpoints) -/
def Obligations.TrapAndBreakpoint : Prop :=
  (∀ (h : Hd) (code : BitVec 16) (s : State) (c : Cx), Goes (.trap h code) s c →
      (c.act ≠ 0 → ∃ t, exec (.trap h code) s = .next t ∧ Trapped c code (fun l => if hasLane c.act l then some .userTrap else none) s t) ∧
      (c.act = 0 → ∃ t, exec (.trap h code) s = .next t ∧ After c s t)) ∧
    (∀ (h : Hd) (id : BitVec 16) (s : State) (c : Cx), Goes (.bpt h id) s c →
      let hit := ∃ m, (Values.ctxOf s c).dbg = some m ∧ m.testBit id.toNat = true
      (c.act = 0 ∨ ¬ hit → ∃ t, exec (.bpt h id) s = .next t ∧ After c s t) ∧
      (c.act ≠ 0 → hit → (s.warp c.iss.warp).Named → ∃ t, exec (.bpt h id) s = .next t ∧
        t.regs c = s.regs c ∧ ((Values.ctxOf s c).trace = none → t.mem = s.mem ∧ t.seals = s.seals) ∧
        (∀ l, l < 32 → (t.lane c l).halt = ((s.lane c l).halt || hasLane c.act l) ∧ (t.lane c l).depth = (s.lane c l).depth ∧
          (t.lane c l).fpstat = (s.lane c l).fpstat ∧ (t.lane c l).trec = (s.lane c l).trec) ∧
        ∀ l, hasLane c.g.mask l → if c.iss.f.ends then (t.warp c.iss.warp).standsAt l c.iss.f.next
          else ∃ g ∈ (t.warp c.iss.warp).groups, hasLane g.mask l ∧ g.pos = { c.g.pos with off := c.g.pos.off + 1 } ∧ g.wait = none))

/-- Every SVC with active lanes allocates its destination and waits: for Usxon's reply where every earlier access of its
subgroup's lanes has been performed, and else for those accesses first. The arguments are those of the lowest active
lane. Nothing else changes; with no active lane it goes on. (08_system_instructions.md, SVC; 21_host_and_tenants.md,
Service calls from kernels) -/
def Obligations.SvcPassesTheCall : Prop :=
  ∀ (i : Instr) (a b : Src) (s : State) (c : Cx), Goes i s c → Values.svc i = some (a, b) →
    let x : Args := { a := Values.w64 c a (Values.lowest c.act), b := Values.w64 c b (Values.lowest c.act) }
    (c.act = 0 → ∃ t, exec i s = .next t ∧ After c s t) ∧
    (c.act ≠ 0 → svcWait s c.w c.g.mask = [] → ∃ t n, exec i s = .next t ∧ Waits c (.usxon c.act { x with vals := [(0, n)] }) s t) ∧
    (c.act ≠ 0 → svcWait s c.w c.g.mask ≠ [] → ∃ t why, exec i s = .next t ∧ Waits c (.issued why c.act x) s t)

/-- RESUME and RESUME.NEXT in active lanes that are all in a handler, which holds no slot of the matrix engine and whose
faults are all disposed of, return each lane: depth 0, no trap record, inside a run its latches as they were, but for
a skipped instruction's, and its place the trapping instruction, the one behind it with .NEXT, or the stop PC of a
MEM-PARK stop. Registers, memory and the other lanes' depths stay. An active lane outside a handler makes all active
lanes trap with ILLEGAL; with no active lane it goes on. (08_system_instructions.md, RESUME;
19_traps_faults_preemption.md, Trap events; 01_thread_state.md, Predicates, uniform registers and latches) -/
def Obligations.ResumeReturns : Prop :=
  ∀ (i : Instr) (next : Bool) (s : State) (c : Cx), Goes i s c → Values.resumes i = some next →
    (c.act = 0 → ∃ t, exec i s = .next t ∧ After c s t) ∧
    (c.act ≠ 0 → c.act &&& ~~~c.w.deep ≠ 0 → ∃ t, exec i s = .next t ∧ Trapped c 0 (fun l => if hasLane c.act l then some .illegal else none) s t) ∧
    (c.act ≠ 0 → c.act &&& ~~~c.w.deep = 0 → (s.core c.iss.core).hslots.find? (·.owner.same (ownerOf s c.w c.act)) = none →
      recsOf c.w c.act = [] → (∀ x ∈ (s.core c.w.core).pfq, x.1 = c.iss.warp → x.2.txn.mask &&& c.act = 0) → (s.warp c.iss.warp).Named → (∀ l, hasLane c.g.mask l → (s.lane c l).depth = true) →
      ∃ t, exec i s = .next t ∧ t = { s with warps := t.warps, ctr := t.ctr, iss := t.iss } ∧ t.regs c = s.regs c ∧
        (∀ k, k ≠ c.iss.warp → t.warps[k]? = s.warps[k]?) ∧ (t.warp c.iss.warp).handler = (s.warp c.iss.warp).handler &&& ~~~c.act ∧
        (∀ l, hasLane c.act l = false → (t.lane c l).depth = (s.lane c l).depth ∧ (t.lane c l).trec = (s.lane c l).trec) ∧
        ∀ l iv, hasLane c.act l → (s.lane c l).intr = some iv →
          (t.lane c l).depth = false ∧ (t.lane c l).trec = none ∧ (t.lane c l).intr = none ∧ (t.lane c l).fpstat = (s.lane c l).fpstat ∧
          (t.warp c.iss.warp).backAt l (Values.back next iv) iv.runId ∧
          ((Values.back next iv).off ≠ 0 → ∀ k, k < 4 → Values.BackLatch (s.regs c) next iv l k ((t.lane c l).lat.get k)))

/-- In active lanes that are all in a handler: FFIX.MAP and FFIX.EMUL write 0 and change nothing else where the record
holds none of them or an older record shares a lane; else MAP waits for Usxon, but for deferred lanes. EMUL of a load
or ATOM writes the data to its registers, and SKIP writes 0 to them; both take the lanes out of the record without an
access, and EMUL writes 1 in them and 0 in the other active lanes. Outside a handler all active lanes trap with
ILLEGAL. (08_system_instructions.md, Disposing of fault records) -/
def Obligations.FaultFixing : Prop :=
  (∀ (i : Instr) (s : State) (c : Cx), Goes i s c → (match i with | .ffixMap .. | .ffixEmul .. | .ffixSkip .. => True | _ => False) →
      (c.act = 0 → ∃ t, exec i s = .next t ∧ After c s t) ∧
      (c.act &&& ~~~c.w.deep ≠ 0 → ∃ t, exec i s = .next t ∧ Trapped c 0 (fun l => if hasLane c.act l then some .illegal else none) s t)) ∧
    (∀ (h : Hd) (d : Dv) (n : BitVec 2) (s : State) (c : Cx), Goes (.ffixMap h d n) s c → c.act ≠ 0 → c.act &&& ~~~c.w.deep = 0 →
      (fixable c n.toNat = none → ∃ t, exec (.ffixMap h d n) s = .next t ∧ Results c none 1 (fun _ => ⟨0, 0⟩) s t) ∧
      (∀ r, fixable c n.toNat = some r → r.kind ≠ .deferred → ∃ t, exec (.ffixMap h d n) s = .next t ∧ Waits c (.usxon c.act {}) s t)) ∧
    (∀ (h : Hd) (d : Dv) (n : BitVec 2) (dat : Src) (s : State) (c : Cx), Goes (.ffixEmul h d n dat) s c → c.act ≠ 0 → c.act &&& ~~~c.w.deep = 0 →
      (fixable c n.toNat = none → ∃ t, exec (.ffixEmul h d n dat) s = .next t ∧ Results c none 1 (fun _ => ⟨0, 0⟩) s t) ∧
      (∀ r, fixable c n.toNat = some r →
        let m := r.txn.mask &&& c.act
        let k := max 1 r.txn.nregs
        (r.txn.kind.delivers = true → (Opd.grp dat k).ok = true ∧ (∀ v last p, dat = .v v last p → ∀ j, j < k → c.rf.has (v.toNat + j) = true) ∧
          llrHold c.w c.g (c.emul (.grp dat k)).p = false ∧ c.w.namesLoaded c.g (c.emul (.grp dat k)).p = false ∧ (c.emul (.grp dat k)).owed s = false) →
        ∃ t, exec (.ffixEmul h d n dat) s = .next t ∧ t.mem = s.mem ∧ t.seals = s.seals ∧
          (∀ l, hasLane c.act l → c.p.d = false → Holds c t l (if hasLane m l then 1 else 0)) ∧
          (r.txn.kind.delivers = true → Values.keepsGroup dat k r.txn.dst → r.txn.dst + r.txn.nregs ≤ 256 →
            ∀ l j, hasLane m l → j < r.txn.nregs → (t.regs c).vget (r.txn.dst + j) l =
              BitVec.ofNat 32 (srcVal c none k dat l % 256 ^ r.txn.size / 2 ^ (32 * j))) ∧
          (r.txn.mask &&& ~~~m ≠ 0 → n.toNat < c.w.fr.length → (t.warp c.iss.warp).frAt n.toNat = some { r with txn := { r.txn with mask := r.txn.mask &&& ~~~m } }))) ∧
    (∀ (h : Hd) (n : BitVec 2) (s : State) (c : Cx), Goes (.ffixSkip h n) s c → c.act ≠ 0 → c.act &&& ~~~c.w.deep = 0 →
      (c.w.frAt n.toNat = none → ∃ t, exec (.ffixSkip h n) s = .next t ∧ After c s t) ∧
      (∀ r, c.w.frAt n.toNat = some r →
        let m := r.txn.mask &&& c.act
        ∃ t, exec (.ffixSkip h n) s = .next t ∧ t.mem = s.mem ∧ t.seals = s.seals ∧
          (r.txn.kind.delivers = true → r.txn.dst + r.txn.nregs ≤ 256 →
            ∀ l j, hasLane m l → j < r.txn.nregs → (t.regs c).vget (r.txn.dst + j) l = 0) ∧
          (r.txn.kind = .monitor → m ≠ 0 → (t.warp c.iss.warp).mon.armed = false) ∧ (m = 0 → (t.warp c.iss.warp).mon = (s.warp c.iss.warp).mon) ∧
          (r.txn.mask &&& ~~~m ≠ 0 → n.toNat < c.w.fr.length → (t.warp c.iss.warp).frAt n.toNat = some { r with txn := { r.txn with mask := r.txn.mask &&& ~~~m } })))

/-- A load, store or atomic (LD, ST, LDX, STX, LDS, STS, LDCL, STCL, ATOM, RED) past the gate whose active lanes all pass
the checks, of whose accesses none is to be performed in the core, and which nothing holds, answers a next state in
which its transaction stands last in the warp's queue, with every lane's accesses at the addresses that the checks
formed and with its data, marked where it is a narrow RC release store with earlier writes of its warp under way, its
destination is allocated, and what it loads counts as loaded in its run. Memory, scratchpads, beads, other registers
and other warps stay. It then goes on, or waits behind an earlier access that must be performed first.
(06_memory_instructions.md, Loads and stores; 06_memory_instructions.md, Atomics and reductions; 15_consistency.md,
Order within one lane) -/
def Obligations.AccessesGoIntoFlight : Prop :=
  ∀ (i : Instr) (s : State) (c : Cx) (o : MemOp), Goes i s c → memOpOf i = some o → c.act ≠ 0 → o.kind.shared = false → o.bead = 0 →
    let sp := o.spots s c
    let as := o.accs c sp
    (∀ l k, (l, Spot.trap k) ∉ sp) → as ≠ [] → (∀ a ∈ as, a.local c.w.core = true → a.st ≠ .issued) → memBlock s c o = none →
    let dst : Nat × Nat := match c.p.dst with | .v r n => (r, n) | _ => (0, 0)
    let holds := o.kind.isStore && o.ask.dom == .rc && ordRel o.ord && narrow o.ask.scope &&
      c.w.txns.any (fun u => u.kind.writes && u.accs.any (fun a => a.st != .done))
    let tx : Txn := ⟨s.ctr, o.kind, c.iss.f, c.g.runId, c.act, dst.1, dst.2, o.ask.n, o.ask.dom, o.ask.scope, o.ord, o.pol c, as, false, false, holds, false⟩
    ∃ u t, exec i s = .next t ∧ u = { s with warps := u.warps, cores := u.cores, ctr := u.ctr } ∧
      (∀ k, k ≠ c.iss.warp → u.warps[k]? = s.warps[k]?) ∧
      u.warp c.iss.warp = { (s.warp c.iss.warp).loaded c.g.mask tx with rf := (newRegs c).foldl RegFile.take (s.regs c), txns := (s.warp c.iss.warp).txns ++ [tx] } ∧
      (∀ k, (u.core k).scr = (s.core k).scr ∧ (u.core k).beads = (s.core k).beads ∧ (u.core k).l1 = (s.core k).l1 ∧ (u.core k).acc = (s.core k).acc) ∧
      (txnWaits u c.w tx = false → After c u t) ∧
      (txnWaits u c.w tx = true → ∃ wt, Waits c wt u t)

/-- A load, store or atomic past the gate whose active lanes all pass the checks with accesses to the core's own
scratchpad or to lane-private memory alone, of which none is deferred behind a fault, and whose beads allow it,
answers a next state and goes on. A store's bytes hold its data and an atomic's the operation's result, where no two
accesses overlap; every byte outside the accesses, and all of them for a load, reads as before, as do memory and other
cores' scratchpads. A load's or ATOM's transaction holds the bytes as they stood. TAKE clears the touched beads, FILL
sets them, and every other bead stays. Lane memory is cached: its accesses touch the tags of the die's caches.
(06_memory_instructions.md, Loads and stores; 06_memory_instructions.md, Beads; 14_memory_spaces.md, The levels a
program names) -/
def Obligations.LocalAccesses : Prop :=
  ∀ (i : Instr) (s : State) (c : Cx) (o : MemOp), Goes i s c → memOpOf i = some o → c.act ≠ 0 → o.kind.shared = false →
    c.w.core < s.cores.length →
    let sp := o.spots s c
    let as := o.accs c sp
    let gs := accGranules as
    (∀ l k, (l, Spot.trap k) ∉ sp) → as ≠ [] → (∀ a ∈ as, a.local c.w.core = true ∧ a.st = .issued) → memBlock s c o = none →
    lateLanes s c (o.txn c s c.act as) = 0 →
    (o.bead = 1 ∨ o.bead = 2 → ∀ g ∈ gs, beadGet (s.core c.w.core) g = true) →
    ∃ u t, exec i s = .next t ∧ After c u t ∧ t.mem = s.mem ∧ t.seals = s.seals ∧ u = { s with warps := u.warps, cores := u.cores, dies := u.dies, ctr := u.ctr } ∧
      ((∀ x ∈ as, x.sp ≠ .lane) → u.dies = s.dies) ∧ (∀ k, k ≠ c.iss.warp → u.warps[k]? = s.warps[k]?) ∧
      (∀ k a, (∀ x ∈ as, o.kind.writes = true → x.sp = .scratch k → a < x.key ∨ x.key + x.n ≤ a) → scrGet (t.core k) a = scrGet (s.core k) a) ∧
      (∀ a, (∀ x ∈ as, o.kind.writes = true → x.sp = .lane → a < x.key ∨ x.key + x.n ≤ a) →
        laneGet (t.warp c.iss.warp) a = laneGet (s.warp c.iss.warp) a) ∧
      (as.Pairwise (fun x y => x.overlaps y = false) → ∀ x ∈ as,
        (o.kind = .store → homeRead t c.iss.warp x = x.data % 256 ^ x.n) ∧
        (∀ op wd rd, o.kind = .atomic op wd rd →
          homeRead t c.iss.warp x = atomVal op wd (homeRead s c.iss.warp x) x.data x.cmp % 256 ^ x.n)) ∧
      (as.Pairwise (fun x y => x.overlaps y = false) → (o.kind = .load ∨ ∃ op wd, o.kind = .atomic op wd false) →
        ∃ tx, (t.warp c.iss.warp).txns = (s.warp c.iss.warp).txns ++ [tx] ∧ tx.kind = o.kind ∧ tx.mask = c.act ∧
          tx.accs = as.map (fun x => { x with got := homeRead s c.iss.warp x, xl := .loc 0, st := .performed })) ∧
      ((o.kind = .store ∨ ∃ op wd, o.kind = .atomic op wd true) → (t.warp c.iss.warp).txns = (s.warp c.iss.warp).txns) ∧
      (∀ g, beadGet (t.core c.w.core) g = if o.bead = 2 ∧ g ∈ gs then false else if o.bead = 3 ∧ g ∈ gs then true else beadGet (s.core c.w.core) g)

/-- A generic address that is not canonical, or in no window or in one without the permission, raises RANGE, and a
misaligned one MISALIGN; one that passes is translated by its window. A record's offset is bounded by its mode. A
scratchpad offset outside the block's window raises RANGE, a domain or scope that the scratchpad does not take
ILLEGAL, and a misaligned one MISALIGN. A failing lane of a load, store or atomic parks with its trap and makes no
access. (06_memory_instructions.md, Writing and forming addresses; 14_memory_spaces.md, Buffer records;
19_traps_faults_preemption.md, Windows and the intermediate address) -/
def Obligations.AddressChecks : Prop :=
  (∀ (s : State) (w : Warp) (l a : Nat) (q : Ask), 0 < q.n → a < 2 ^ 64 → nbits a 63 56 ≠ 0xFE →
      let ws := (s.ctx (s.block w.block).ctx).win
      (canonical a = false → spotOf s w l q (.generic a) = .trap .range) ∧
      (canonical a = true → a % q.n ≠ 0 → spotOf s w l q (.generic a) = .trap .misalign) ∧
      (canonical a = true → a % q.n = 0 → findWindow ws a = none → spotOf s w l q (.generic a) = .trap .range) ∧
      (∀ k, canonical a = true → a % q.n = 0 → findWindow ws a = some k →
        let x := ws.getD k 0
        if (q.r = true ∧ winR x = false) ∨ (q.w = true ∧ winW x = false) then spotOf s w l q (.generic a) = .trap .range
        else spotOf s w l q (.generic a) = .at (halves ⟨0, q.n, .global, windowIa x a, winUser x⟩))) ∧
    (∀ (s : State) (w : Warp) (l : Nat) (q : Ask) (o : Int), 0 < q.n →
      let b := s.block w.block
      spotOf s w l q (.scratch o) =
        if o < 0 ∨ (b.size : Int) < o + q.n then .trap .range
        else if ¬ ((q.dom = .rc ∨ q.dom = .bulk) ∧ scopeCode q.scope ≤ 2) then .trap .illegal
        else if o.toNat % q.n ≠ 0 then .trap .misalign
        else .at (halves ⟨0, q.n, .scratch b.core, b.base + o.toNat, false⟩)) ∧
    (∀ (r : BitVec 256) (o : Int) (n : Nat), 0 < n →
      let x := (r.extractLsb' 64 40).toNat
      let inside := 0 ≤ o ∧ o + n ≤ x
      let m := (r.extractLsb' 176 3).toNat
      (m = 0 → bounds r o n = .use o) ∧ (m = 1 → bounds r o n = if inside then .use o else .trap .range) ∧
      (m = 2 → n ≤ x → bounds r o n = .use (max 0 (min o (x - n)))) ∧ (m = 3 → bounds r o n = if inside then .use o else .zero) ∧
      (m = 4 → 0 < x → bounds r o n =
        let k := (o.emod x).toNat
        if k + n ≤ x then .use k else .cross k x)) ∧
    (∀ (i : Instr) (s : State) (c : Cx) (o : MemOp), Goes i s c → memOpOf i = some o → c.act ≠ 0 → o.kind.shared = false → o.bead = 0 →
      memBlock s c o = none → ∃ t, exec i s = .next t ∧ ∀ l k, (l, Spot.trap k) ∈ o.spots s c →
        (∃ rid, (t.lane c l).st = .parked c.g.pos rid) ∧
        ((s.lane c l).depth = false → ∃ r, (t.lane c l).trec = some r ∧ r.kind = k ∧ r.pc = c.iss.f.pc) ∧
        ∀ tx ∈ (t.warp c.iss.warp).txns, tx ∈ (s.warp c.iss.warp).txns ∨ ∀ a ∈ tx.accs, a.lane ≠ l)

/-- BSET and BCLR put the beads that the active lanes name and BTEST reads them; BSET waits first while its lanes have
scratchpad stores that are not performed; a lane outside the window traps with RANGE. PREF starts a prefetch of its
record's range and PREF.DEMOTE changes only the caches' priorities. FENCE and BRIDGE change nothing while an access
that they order is outstanding, but that the subgroup waits; then they go on, and an acquire invalidates the domain's
filter; behind a faulted access they take a fault record, marked as deferred. LDREC and MONITOR issue one access and
wait for it. MWAIT writes 0 without a monitor and 1 when its line has changed, disarming it, and else waits to its
deadline. Memory and registers stay in all of them but for a destination. (06_memory_instructions.md, Beads;
06_memory_instructions.md, Prefetch; 06_memory_instructions.md, Fences and bridges; 06_memory_instructions.md,
Monitors; 06_memory_instructions.md, Loading buffer records) -/
def Obligations.OtherMemoryInstructions : Prop :=
  (∀ (i : Instr) (v : Bool) (off : Src) (imm : BitVec 12) (s : State) (c : Cx),
      (∃ h, (i = .bset h off imm ∧ v = true) ∨ (i = .bclr h off imm ∧ v = false)) → Goes i s c → c.w.core < s.cores.length →
      (∀ l, hasLane c.act l → beadOf s c off imm l ≠ none) →
      (v = false ∨ storesAway s c.w c.act = false → ∃ u t, exec i s = .next t ∧ After c u t ∧ u = { s with cores := u.cores } ∧
        (∀ k, (u.core k).scr = (s.core k).scr) ∧
        ∀ g, beadGet (u.core c.w.core) g = if (lanesOf c.act).any (fun l => beadOf s c off imm l == some g) then v else beadGet (s.core c.w.core) g) ∧
      (v = true → storesAway s c.w c.act = true → ∃ a, exec i s = .next (suspendKeep (takePort s c (0, 0)) c .memory a))) ∧
    (∀ (i : Instr) (off : Src) (imm : BitVec 12) (s : State) (c : Cx),
      (∃ h d, i = .bset h off imm ∨ i = .bclr h off imm ∨ i = .btest h d off imm) → Goes i s c →
      (∃ l, hasLane c.act l ∧ beadOf s c off imm l = none) →
      ∃ t, exec i s = .next t ∧ t.mem = s.mem ∧ t.seals = s.seals ∧ ∀ l, hasLane c.act l → beadOf s c off imm l = none →
        (∃ rid, (t.lane c l).st = .parked c.g.pos rid) ∧ ((s.lane c l).depth = false → ∃ r, (t.lane c l).trec = some r ∧ r.kind = .range)) ∧
    (∀ (h : Hd) (d : Dv) (off : Src) (imm : BitVec 12) (s : State) (c : Cx), Goes (.btest h d off imm) s c →
      (∀ l, hasLane c.act l → beadOf s c off imm l ≠ none) →
      ∃ t, exec (.btest h d off imm) s = .next t ∧
        Results c none 1 (fun l => ⟨((beadOf s c off imm l).any (beadGet (s.core c.w.core))).toNat, 0⟩) (takePort s c (0, 0)) t) ∧
    (∀ (h : Hd) (mlc : Bool) (pol : Pol) (b : BitVec 4) (bar : Option Src) (s : State) (c : Cx), Goes (.pref h mlc pol b bar) s c →
      let r := c.rf.brec b.toNat
      let left := (r.extractLsb' 64 40).toNat
      let p : Pref := ⟨(s.block c.w.block).ctx, c.w.core / 16, mlc, recPol pol r, (r.extractLsb' 0 64).toNat, left, c.w.block,
        bar.map (fun o => (Values.w32 c o (Values.lowest c.act)).toNat), 0⟩
      (c.act = 0 ∨ (prefTrap s c b bar = none ∧ left = 0) → ∃ t, exec (.pref h mlc pol b bar) s = .next t ∧ After c (takePort s c (0, 0)) t) ∧
      (c.act ≠ 0 → prefTrap s c b bar = none → left ≠ 0 → ∃ t, exec (.pref h mlc pol b bar) s = .next t ∧
        After c ((takePort s c (0, 0)).modCore c.w.core (fun k => { k with prefs := k.prefs ++ [p] })) t) ∧
      (∀ k, c.act ≠ 0 → prefTrap s c b bar = some k → ∃ t, exec (.pref h mlc pol b bar) s = .next t ∧
        Trapped c 0 (fun l => if hasLane c.act l then some k else none) (takePort s c (0, 0)) t)) ∧
    (∀ (h : Hd) (b : BitVec 4) (s : State) (c : Cx), Goes (.prefDemote h b) s c →
      ∃ t dies, exec (.prefDemote h b) s = .next t ∧ After c { takePort s c (0, 0) with dies := dies } t ∧
        ∀ k, ((dies.getD k default).l2.lines.map (·.line) = (s.die k).l2.lines.map (·.line)) ∧
          (dies.getD k default).mlc.lines.map (·.line) = (s.die k).mlc.lines.map (·.line) ∧ (dies.getD k default).tlb = (s.die k).tlb) ∧
    (∀ (i : Instr) (rel acq inv : Option Dom) (dst : Dom) (scope : Scope) (s : State) (c : Cx),
      ((∃ h d ord, i = .fence h d scope ord ∧ rel = (if ord = .release ∨ ord = .acqRel then some d else none) ∧
          acq = (if ord = .acquire ∨ ord = .acqRel then some d else none) ∧ inv = acq ∧ dst = d) ∨
        ∃ h d1 d2, i = .bridge h d1 d2 scope ∧ rel = some d1 ∧ acq = none ∧ inv = some d2 ∧ dst = d2) → Goes i s c →
      (c.act = 0 → ∃ t, exec i s = .next t ∧ After c (takePort s c (0, 0)) t) ∧
      (∀ why, c.act ≠ 0 → fenceBlock s c rel acq dst scope = some why → exec i s = .next (s.paused c why)) ∧
      (c.act ≠ 0 → fenceBlock s c rel acq dst scope = none → fenceLate s c rel acq ≠ 0 → (s.warp c.iss.warp).fr.length = 4 →
        ∃ u t, exec i s = .next t ∧ After c u t ∧ (u.warp c.iss.warp).rf = (s.warp c.iss.warp).rf ∧
        ∀ n, n < 4 → (s.warp c.iss.warp).frAt n = none → (∀ k, k < n → (s.warp c.iss.warp).frAt k ≠ none) →
          ∃ r, (u.warp c.iss.warp).frAt n = some r ∧ r.kind = .deferred ∧ r.txn.mask = fenceLate s c rel acq) ∧
      (c.act ≠ 0 → fenceBlock s c rel acq dst scope = none → fenceLate s c rel acq = 0 → ∃ u t, exec i s = .next t ∧ After c u t ∧
        u = { s with warps := u.warps, cores := u.cores } ∧ (∀ k, (u.warp k).rf = (s.warp k).rf ∧ (u.warp k).groups = (s.warp k).groups) ∧
        (∀ k, (u.core k).scr = (s.core k).scr ∧ (u.core k).beads = (s.core k).beads) ∧
        ((inv = some .rc → ∀ x ∈ (u.core c.w.core).l1, x.rc = false) ∧ (inv = some .bulk → ∀ x ∈ (u.core c.w.core).l1, x.bulk = false)) ∧
        (inv = none → (u.core c.w.core).l1 = (s.core c.w.core).l1))) ∧
    (∀ (i : Instr) (s : State) (c : Cx) (o : MemOp), Goes i s c → memOpOf i = some o → o.kind.shared = true → c.act ≠ 0 →
      memBlock s c o = none → o.traps c (o.spots s c) = [] → lateLanes s c (o.txn c s c.act (o.accs c (o.spots s c))) = 0 →
      ∃ u t wt tx, exec i s = .next t ∧ Waits c wt u t ∧ t.mem = s.mem ∧ t.seals = s.seals ∧
        (u.warp c.iss.warp).txns = (s.warp c.iss.warp).txns ++ [tx] ∧ tx.kind = o.kind ∧ tx.mask = c.act ∧ tx.dom = o.ask.dom ∧
        (∀ a ∈ tx.accs, a.lane = Values.lowest c.act) ∧ (∀ k, (u.core k).scr = (s.core k).scr)) ∧
    (∀ (i : Instr) (s : State) (c : Cx) (o : MemOp), Goes i s c → memOpOf i = some o → o.kind.shared = true → c.act ≠ 0 →
      (∃ l k, (l, Spot.trap k) ∈ o.spots s c) → ∃ t k, exec i s = .next t ∧
        Trapped c 0 (fun l => if hasLane c.act l then some k else none) (takePort s c (0, 0)) t) ∧
    (∀ (h : Hd) (d : Dv) (lim : Src) (s : State) (c : Cx), Goes (.mwait h d lim) s c →
      (c.w.mon.armed = false → ∃ t, exec (.mwait h d lim) s = .next t ∧ Results c none 1 (fun _ => ⟨0, 0⟩) (takePort s c (0, 0)) t) ∧
      (c.act ≠ 0 → c.w.mon.armed = true → c.w.mon.hit = true → ∃ t, exec (.mwait h d lim) s = .next t ∧
        Results c none 1 (fun _ => ⟨1, 0⟩)
          ((takePort s c (0, 0)).modIss c (fun w => { w with mon := { w.mon with armed := false, hit := false } })) t) ∧
      (c.act ≠ 0 → c.w.mon.armed = true → c.w.mon.hit = false →
        let n := (Values.w32 c lim (Values.lowest c.act)).toNat
        ∃ t, exec (.mwait h d lim) s = .next t ∧ Waits c (.mwait c.act (if n = 0 then 0 else s.time + n)) (takePort s c (0, 0)) t))

/-- A count of d on a barrier object does what the loop of the spec does. A lane whose offset leaves the window traps with
RANGE and a misaligned one with MISALIGN. With all lanes' offsets good: BARINIT sets COUNT and INIT and clears PHASE
and ERR, or traps with ILLEGAL for a count of 0; ARRIVE writes the old PHASE and counts, and waits first while its
lanes have scratchpad stores that are not performed; TRYWAIT writes whether each lane's phase has ended; WAIT goes on
when all have and else waits. Only the object's bytes change. (07_matrix_and_engine_instructions.md, Barrier objects
and block barriers) -/
def Obligations.BarrierObjects : Prop :=
  (∀ x d, d < 2 ^ 32 →
      let y := barDown x d
      let r := Values.countOff (d + 2) (x % 2 ^ 32) (x / 2 ^ 32 % 2 ^ 32) (x / 2 ^ 64 % 2 ^ 16) d
      y % 2 ^ 32 = r.1 ∧ y / 2 ^ 32 % 2 ^ 32 = x / 2 ^ 32 % 2 ^ 32 ∧ y / 2 ^ 64 % 2 ^ 16 = r.2 % 2 ^ 16 ∧ y / 2 ^ 80 = x / 2 ^ 80) ∧
    (∀ (s : State) (c : Cx) (off : Src) (imm : BitVec 12) (l : Nat),
      let b := s.block c.w.block
      let o : Int := (Values.w32 c off l).toNat + imm.toInt * 16
      barAt s c off imm l = if o < 0 ∨ (b.size : Int) < o + 16 then .error .range
        else if o.toNat % 16 ≠ 0 then .error .misalign else .ok (b.base + o.toNat)) ∧
    (∀ (i : Instr) (off : Src) (imm : BitVec 12) (s : State) (c : Cx), Goes i s c →
      ((∃ h n, i = .barinit h off n imm ∧ ∀ l, hasLane c.act l → Values.w32 c n l ≠ 0) ∨ (∃ h d n, i = .arrive h d off n imm) ∨
        (∃ h d k, i = .trywait h d off k imm) ∨ ∃ h k, i = .wait h off k imm) →
      (c.act = 0 → ∃ t, exec i s = .next t ∧ After c (takePort s c (0, 0)) t) ∧
      ((∃ l k, hasLane c.act l ∧ barAt s c off imm l = .error k) → ∃ t, exec i s = .next t ∧ t.mem = s.mem ∧ t.seals = s.seals ∧
        ∀ l k, hasLane c.act l → barAt s c off imm l = .error k →
          (∃ rid, (t.lane c l).st = .parked c.g.pos rid) ∧ ((s.lane c l).depth = false → ∃ r, (t.lane c l).trec = some r ∧ r.kind = k))) ∧
    (∀ (h : Hd) (off n : Src) (imm : BitVec 12) (s : State) (c : Cx) (at_ : Nat → Nat), Goes (.barinit h off n imm) s c → c.act ≠ 0 →
      c.w.core < s.cores.length → (∀ l, hasLane c.act l → barAt s c off imm l = .ok (at_ l)) →
      let a := at_ (Values.lowest c.act)
      let x := (Values.w32 c n (Values.lowest c.act)).toNat
      (x ≠ 0 → ∃ u t, exec (.barinit h off n imm) s = .next t ∧ After c u t ∧ u = { s with cores := u.cores } ∧
        scrRead (u.core c.w.core) a 16 = x + x * 2 ^ 32 ∧
        ∀ k b, (k ≠ c.w.core ∨ b < a ∨ a + 16 ≤ b) → scrGet (u.core k) b = scrGet (s.core k) b) ∧
      (x = 0 → ∃ t, exec (.barinit h off n imm) s = .next t ∧
        Trapped c 0 (fun l => if hasLane c.act l then some .illegal else none) (takePort s c (0, 0)) t)) ∧
    (∀ (h : Hd) (d : Dv) (off n : Src) (imm : BitVec 12) (s : State) (c : Cx) (at_ : Nat → Nat), Goes (.arrive h d off n imm) s c → c.act ≠ 0 →
      c.w.core < s.cores.length → (∀ l, hasLane c.act l → barAt s c off imm l = .ok (at_ l)) →
      let a := at_ (Values.lowest c.act)
      let x := scrRead (s.core c.w.core) a 16
      (storesAway s c.w c.act = false → ∃ u t, exec (.arrive h d off n imm) s = .next t ∧ u = { s with cores := u.cores } ∧
        Results c none 1 (fun _ => ⟨x / 2 ^ 64 % 2 ^ 16, 0⟩) u t ∧
        scrRead (u.core c.w.core) a 16 = barDown x (Values.w32 c n (Values.lowest c.act)).toNat ∧
        ∀ k b, (k ≠ c.w.core ∨ b < a ∨ a + 16 ≤ b) → scrGet (u.core k) b = scrGet (s.core k) b) ∧
      (storesAway s c.w c.act = true → ∃ y, exec (.arrive h d off n imm) s = .next (suspendKeep ((takePort s c (0, 0)).allocate c) c .memory y))) ∧
    (∀ (h : Hd) (d : Dv) (off k : Src) (imm : BitVec 12) (s : State) (c : Cx) (at_ : Nat → Nat), Goes (.trywait h d off k imm) s c → c.act ≠ 0 →
      (∀ l, hasLane c.act l → barAt s c off imm l = .ok (at_ l)) →
      let over_ := fun l => scrRead (s.core c.w.core) (at_ l) 16 / 2 ^ 64 % 2 ^ 16 ≠ (Values.w32 c k l).toNat % 2 ^ 16
      ∃ u t, exec (.trywait h d off k imm) s = .next t ∧ u = { s with warps := u.warps, cores := u.cores } ∧
        (∀ j, (u.warp j).rf = (s.warp j).rf ∧ (u.warp j).groups = (s.warp j).groups ∧ (u.core j).scr = (s.core j).scr) ∧
        Results c none 1 (fun l => ⟨if over_ l then 1 else 0, 0⟩) u t ∧
        ((∃ l, hasLane c.act l ∧ over_ l) → ∀ x ∈ (u.core c.w.core).l1, x.rc = false ∧ x.bulk = false)) ∧
    (∀ (h : Hd) (off k : Src) (imm : BitVec 12) (s : State) (c : Cx) (at_ : Nat → Nat), Goes (.wait h off k imm) s c → c.act ≠ 0 →
      (∀ l, hasLane c.act l → barAt s c off imm l = .ok (at_ l)) →
      let over_ := fun l => scrRead (s.core c.w.core) (at_ l) 16 / 2 ^ 64 % 2 ^ 16 ≠ (Values.w32 c k l).toNat % 2 ^ 16
      ((∀ l, hasLane c.act l → over_ l) → ∃ u t, exec (.wait h off k imm) s = .next t ∧ After c u t ∧
        u = { s with warps := u.warps, cores := u.cores } ∧
        (∀ j, (u.warp j).rf = (s.warp j).rf ∧ (u.warp j).groups = (s.warp j).groups ∧ (u.core j).scr = (s.core j).scr) ∧
        ∀ x ∈ (u.core c.w.core).l1, x.rc = false ∧ x.bulk = false) ∧
      ((∃ l, hasLane c.act l ∧ ¬ over_ l) → ∃ t vs, exec (.wait h off k imm) s = .next t ∧ Waits c (.lanes c.act vs) (takePort s c (0, 0)) t))

/-- RALLY, RALLY.GO, CRALLY, CRALLY.GO and CRALLY.HOLD answer a next state that keeps memory and the warp's registers,
where their lanes have no scratchpad store that is not performed, which the arrivals wait for, and a RALLY's count is
that of the phase's first arrival, without which it traps with ILLEGAL. A RALLY's lanes arrive, each warp with the
count that it asked for; the first warp to arrive fixes the phase's count, 0 being all that have not ended, and the
phase ends exactly when that many warps have all their live lanes there; RALLY waits until then and RALLY.GO goes on.
CRALLY and CRALLY.GO arrive for the block, which has arrived once all its living warps have, and without a cluster
level the phase then ends. CRALLY.HOLD goes on where the block has not arrived, and else waits. With no active lane
none has an effect. (07_matrix_and_engine_instructions.md, Barrier objects and block barriers) -/
def Obligations.RallyPoints : Prop :=
  (∀ (i : Instr) (s : State) (c : Cx), Goes i s c →
      (match i with
        | .rally _ id n | .rallyGo _ id n => storesAway s c.w c.act = false ∧
            ∀ x, ((s.block c.w.block).rally.getD id.toNat default).first = some x → x.1 = n.toNat
        | .crally .. | .crallyGo .. => storesAway s c.w c.act = false
        | .crallyHold .. => True
        | _ => False) →
      ∃ t, exec i s = .next t ∧ t.mem = s.mem ∧ t.seals = s.seals ∧ t.regs c = s.regs c ∧ (c.act = 0 → After c (takePort s c (0, 0)) t)) ∧
    (∀ (i : Instr) (go : Bool) (id : BitVec 4) (count : BitVec 6) (s : State) (c : Cx), Goes i s c →
      (∃ h, (i = .rally h id count ∧ go = false) ∨ (i = .rallyGo h id count ∧ go = true)) → c.act ≠ 0 →
      c.g.cur = some c.iss.f → decodeWord c.iss.f.word = .ok i → c.w.block < s.blocks.length → c.iss.warp ∈ (s.block c.w.block).warps →
      id.toNat < (s.block c.w.block).rally.length →
      let b := s.block c.w.block
      let r := b.rally.getD id.toNat default
      let differs := ∃ x, r.first = some x ∧ x.1 ≠ count.toNat
      let lanes := cset r.lanes 0 c.w.index (cget r.lanes 0 c.w.index ||| c.act)
      let asks := cset r.asks 0 c.w.index count.toNat
      let here := Values.arrived s b lanes
      let first := r.first.or (here.head?.map (fun k =>
        let n := cget asks 0 (s.warp k).index
        (n, if n = 0 then (aliveWarps s b).length else n)))
      let full := ∃ x, first = some x ∧ x.2 ≤ here.length
      (differs → ∃ t, exec i s = .next t ∧ Trapped c 0 (fun l => if hasLane c.act l then some .illegal else none) (takePort s c (0, 0)) t) ∧
      (¬ differs → storesAway s c.w c.act = true → ∃ a, exec i s = .next (suspendKeep (takePort s c (0, 0)) c .barrier a)) ∧
      (¬ differs → storesAway s c.w c.act = false → ∃ t, exec i s = .next t ∧
        (full → (t.block c.w.block).rally.getD id.toNat default = ⟨none, [], [], r.phase + 1⟩) ∧
        (¬ full → (t.block c.w.block).rally.getD id.toNat default = ⟨first, lanes, asks, r.phase⟩) ∧
        (go = true ∨ full → Values.onTheWay c s t) ∧
        (go = false → ¬ full → (s.warp c.iss.warp).Named →
          ∃ g, (t.warp c.iss.warp).group? c.iss.gid = some g ∧ g.mask = c.g.mask ∧ g.wait = some (.rally r.phase)))) ∧
    (∀ (i : Instr) (go : Bool) (s : State) (c : Cx), Goes i s c → (∃ h, (i = .crally h ∧ go = false) ∨ (i = .crallyGo h ∧ go = true)) → c.act ≠ 0 →
      c.g.cur = some c.iss.f → decodeWord c.iss.f.word = .ok i → c.w.block < s.blocks.length → (s.block c.w.block).id = c.w.block →
      c.iss.warp ∈ (s.block c.w.block).warps →
      let b := s.block c.w.block
      let lanes := cset b.crLanes 0 c.w.index (cget b.crLanes 0 c.w.index ||| c.act)
      let all := ∀ k ∈ b.warps, (s.warp k).live ≠ 0 → (s.warp k).live &&& ~~~cget lanes 0 (s.warp k).index = 0
      (storesAway s c.w c.act = true → ∃ a, exec i s = .next (suspendKeep (takePort s c (0, 0)) c .barrier a)) ∧
      (storesAway s c.w c.act = false → (s.launch b.launch).level 3 = none → b.crArr = b.crPhase → b.ended = false →
        (∃ k ∈ b.warps, (s.warp k).live ≠ 0) → ∃ t, exec i s = .next t ∧
          (all → (t.block c.w.block).crPhase = b.crPhase + 1 ∧ (t.block c.w.block).crArr = b.crPhase + 1 ∧ (t.block c.w.block).crLanes = []) ∧
          (¬ all → (t.block c.w.block).crPhase = b.crPhase ∧ (t.block c.w.block).crArr = b.crPhase ∧ (t.block c.w.block).crLanes = lanes) ∧
          (go = true ∨ all → Values.onTheWay c s t) ∧
          (go = false → ¬ all → (s.warp c.iss.warp).Named → ∃ g, (t.warp c.iss.warp).group? c.iss.gid = some g ∧ g.mask = c.g.mask ∧ g.wait = some (.rally b.crArr)))) ∧
    (∀ (h : Hd) (s : State) (c : Cx), Goes (.crallyHold h) s c → c.act ≠ 0 →
      let b := s.block c.w.block
      (b.crArr = b.crPhase → ∃ u t, exec (.crallyHold h) s = .next t ∧ After c u t ∧ u = { s with warps := u.warps, cores := u.cores } ∧
        ∀ j, (u.warp j).rf = (s.warp j).rf ∧ (u.warp j).groups = (s.warp j).groups ∧ (u.core j).scr = (s.core j).scr) ∧
      (b.crArr ≠ b.crPhase → ∃ t, exec (.crallyHold h) s = .next t ∧ Waits c (.rally b.crPhase) (takePort s c (0, 0)) t))

/-- MMA, MXRUN, ACCRD, ACCWR and ACCCVT of a group that does not own the engine trap with ILLEGAL, and so does a handler
that names a tile outside its mask. Else the subgroup waits while an operation uses the register or all its active
lanes have signed the open collection; traps with FMT-DIVERGE where its lanes' values differ among themselves or from
the open collection's; traps with the kind of the first failing check; and else its lanes that have not signed the
open collection sign, with the parameters recorded by the first signature and the rounding mode of the last, while its
other active lanes wait on apart. Where no active lane has signed yet, each of the five completes: its signature
stands in the collection, and the subgroup goes on. The collection stays open while an expected lane is missing, and
else the operation enters engine order last and the register is busy. Memory, tiles and registers stay.
(07_matrix_and_engine_instructions.md, Owning the engine; 07_matrix_and_engine_instructions.md, Engine order and
signing; 07_matrix_and_engine_instructions.md, MMA) -/
def Obligations.SigningCollects : Prop :=
  (∀ (i : Instr) (g : Sig) (f a : Src) (wide : Bool) (s : State) (c : Cx), Goes i s c → sigOf i = some (g, f, a, wide) →
      let b := s.block c.w.block
      let o := ownerOf s c.w c.act
      let v := Values.convOf g s c
      let owns := (s.core c.iss.core).owner.any (·.same o) = true
      let m := Values.unsigned g s c
      let taken := v.busy = true ∨ m = 0
      let traps := fun k => ∃ t, exec i s = .next t ∧ Trapped c 0 (fun l => if hasLane c.act l then some k else none) s t
      (c.act = 0 → ∃ t, exec i s = .next t ∧ After c s t) ∧
      (c.act ≠ 0 → ¬ owns → b.ecol = false ∨ o.hand ≠ none → traps .illegal) ∧
      (c.act ≠ 0 → ¬ owns → b.ecol = true → o.hand = none → ∃ t x, exec i s = .next t ∧ Waits c (.issued .engine c.act x) s t) ∧
      (c.act ≠ 0 → owns → tileOk s c g.acc = false → traps .illegal) ∧
      (c.act ≠ 0 → Values.ownsTile g s c →
        (taken → ∃ t x, exec i s = .next t ∧ Waits c (.issued .engine c.act x) s t) ∧
        (¬ taken → ¬ Values.agree f a wide c → traps .fmtDiverge) ∧
        (¬ taken → Values.agree f a wide c → ¬ Values.asOpened g f a wide s c → traps .fmtDiverge) ∧
        (¬ taken → Values.agree f a wide c → Values.asOpened g f a wide s c → ∀ k, Values.signFault g f a wide s c = some k → traps k)) ∧
      (c.act ≠ 0 → Values.MaySign g f a wide s c → m ≠ 0 → m ≠ c.act → (s.warp c.iss.warp).Named →
        let u := Values.signedState g f a wide s c
        ∃ t, exec i s = .next t ∧ t = { u with warps := t.warps, ctr := u.ctr + 1, iss := some { c.iss with out := .issued } } ∧
          (∀ k, k ≠ c.iss.warp → t.warps[k]? = u.warps[k]?) ∧ t.regs c = s.regs c ∧
          (∃ x k, k ∈ (t.warp c.iss.warp).groups ∧ k.mask = c.act &&& ~~~m ∧ k.pos = c.g.pos ∧ k.wait = some (.issued .engine (c.act &&& ~~~m) x) ∧
            x.a = Values.sfmt c f (Values.lowest c.act) ∧ x.b = Values.sads c a wide (Values.lowest c.act)) ∧
          ∀ l, hasLane (c.g.mask &&& ~~~(c.act &&& ~~~m)) l → if c.iss.f.ends then (t.warp c.iss.warp).standsAt l c.iss.f.next
            else ∃ k ∈ (t.warp c.iss.warp).groups, hasLane k.mask l ∧ k.pos = { c.g.pos with off := c.g.pos.off + 1 } ∧ k.wait = none)) ∧
    (∀ (h : Hd) (acc cv : BitVec 3) (fmt ads : Src) (dh : BitVec 4) (rows : BitVec 7) (ovw : Bool) (s : State) (c : Cx), c.act ≠ 0 →
      let mma : Sig := ⟨0x302, acc.toNat, cv.toNat, dh.toNat, rows.toNat, ovw⟩
      let mxrun : Sig := ⟨0x303, acc.toNat, cv.toNat, dh.toNat, rows.toNat, ovw⟩
      (Goes (.mma h acc cv fmt ads dh rows ovw) s c → Values.MaySign mma fmt ads true s c → Values.unsigned mma s c = c.act →
        ∃ t, exec (.mma h acc cv fmt ads dh rows ovw) s = .next t ∧ After c (Values.signedState mma fmt ads true s c) t) ∧
      (Goes (.mxrun h acc cv fmt ads dh rows ovw) s c → Values.MaySign mxrun fmt ads false s c → Values.unsigned mxrun s c = c.act →
        ∃ t, exec (.mxrun h acc cv fmt ads dh rows ovw) s = .next t ∧ After c (Values.signedState mxrun fmt ads false s c) t)) ∧
    (∀ (h : Hd) (acc cv : BitVec 3) (row off : Src) (rows : BitVec 7) (s : State) (c : Cx), c.act ≠ 0 →
      let sig := fun opc => (⟨opc, acc.toNat, cv.toNat, 0, rows.toNat, false⟩ : Sig)
      (Goes (.accrd h acc cv row off rows) s c → Values.MaySign (sig 0x308) row off false s c → Values.unsigned (sig 0x308) s c = c.act →
        ∃ t, exec (.accrd h acc cv row off rows) s = .next t ∧ After c (Values.signedState (sig 0x308) row off false s c) t) ∧
      (Goes (.accwr h acc cv row off rows) s c → Values.MaySign (sig 0x309) row off false s c → Values.unsigned (sig 0x309) s c = c.act →
        ∃ t, exec (.accwr h acc cv row off rows) s = .next t ∧ After c (Values.signedState (sig 0x309) row off false s c) t) ∧
      (Goes (.acccvt h acc cv row off rows) s c → Values.MaySign (sig 0x30A) row off false s c → Values.unsigned (sig 0x30A) s c = c.act →
        ∃ t, exec (.acccvt h acc cv row off rows) s = .next t ∧ After c (Values.signedState (sig 0x30A) row off false s c) t))

/-- MXACQ marks its warp, and goes on where its group owns the engine or the engine is free, which it then owns, or else
queues the group once and waits. MXREL unmarks, and the last mark of the owner frees the engine. MXWAIT writes the
error of the register's last operation once it is free, DKFREE invalidates a valid handle and traps with ILLEGAL on
another, DKLD writes its handle and starts a fill, once a fill from global memory has a place in the warp's fault
queue, ACCZ enters engine order, ACCSTAT reads the tile's flags and clears them with CLR, and OPFENCE moves the
operand generation on once the lanes' earlier scratchpad stores are performed; those wait while an operation still
uses what they name. All but MXACQ and MXREL trap with ILLEGAL where the group does not own the engine. With no active
lane they change nothing. (07_matrix_and_engine_instructions.md, Owning the engine;
07_matrix_and_engine_instructions.md, The deck; 07_matrix_and_engine_instructions.md, Accumulator instructions;
07_matrix_and_engine_instructions.md, Engine order and signing; 19_traps_faults_preemption.md, Matrix instructions in
a handler) -/
def Obligations.MatrixInstructions : Prop :=
  (∀ (i : Instr) (s : State) (c : Cx), Goes i s c →
      (match i with | .mxwait .. | .dkld .. | .dkfree .. | .accz .. | .accstat .. | .opfence .. | .mxacq .. | .mxrel .. => True | _ => False) →
      (c.act = 0 → ∃ t, exec i s = .next t ∧ After c s t) ∧
      ((∀ h, i ≠ .mxacq h ∧ i ≠ .mxrel h) → c.act ≠ 0 → ownership s c = .no → ∃ t, exec i s = .next t ∧
        Trapped c 0 (fun l => if hasLane c.act l then some .illegal else none) s t)) ∧
    (∀ (s : State) (c : Cx),
      let o := ownerOf s c.w c.act
      ownership s c = if (s.core c.iss.core).owner.any (·.same o) then .yes else if (s.block c.w.block).ecol = true ∧ o.hand = none then .wait else .no) ∧
    (∀ (h : Hd) (s : State) (c : Cx), Goes (.mxacq h) s c → c.act ≠ 0 → c.w.deep &&& c.act = 0 →
      let o := ownerOf s c.w c.act
      let k := s.core c.iss.core
      let u := s.modIss c (fun w => { w with holding := true })
      ((s.block c.w.block).ecol = true → ∃ t, exec (.mxacq h) s = .next t ∧ After c s t) ∧
      ((s.block c.w.block).ecol = false → k.owner.any (·.same o) = true → ∃ t, exec (.mxacq h) s = .next t ∧ After c u t) ∧
      ((s.block c.w.block).ecol = false → k.owner = none → k.fifo = [] → k.eng = [] →
        ∃ t, exec (.mxacq h) s = .next t ∧ After c (u.modCore c.iss.core (fun k => { k with owner := some o })) t) ∧
      ((s.block c.w.block).ecol = false → k.owner.any (·.same o) = false → ¬ (k.owner = none ∧ k.fifo = [] ∧ k.eng = []) →
        ∃ t, exec (.mxacq h) s = .next t ∧ Waits c (.issued .engine c.act { whole := c.g.mask == c.w.live })
          (u.modCore c.iss.core (fun k => if k.fifo.any (·.same o) then k else { k with fifo := k.fifo ++ [o] })) t)) ∧
    (∀ (h : Hd) (s : State) (c : Cx), Goes (.mxacq h) s c → c.act ≠ 0 → c.w.deep &&& c.act ≠ 0 →
      let o := ownerOf s c.w c.act
      let k := s.core c.iss.core
      let m := (s.launch (s.block c.w.block).launch).htile
      k.hslots.find? (·.owner.same o) = none → busyFor s c.iss.core o.group = false → k.hslots.length < 8 → k.owner.any (·.same o.group) = true →
        ∃ u t, exec (.mxacq h) s = .next t ∧ After c u t ∧ u = { s with blocks := u.blocks, cores := u.cores } ∧
          (c.iss.core < s.cores.length → (u.core c.iss.core).owner = some o ∧
            (u.core c.iss.core).hslots = k.hslots ++ [⟨o, ((List.range 8).filter (fun j => m.testBit j)).map (fun j => (j, k.acc.getD j default)), some o.group⟩])) ∧
    (∀ (h : Hd) (s : State) (c : Cx), Goes (.mxrel h) s c → c.act ≠ 0 →
      let o := ownerOf s c.w c.act
      let own := c.w.deep &&& c.act = 0 ∧ (s.block c.w.block).ecol = false ∧ (s.core c.iss.core).owner.any (·.same o) = true
      (¬ own → ∃ t, exec (.mxrel h) s = .next t ∧ After c s t) ∧
      (own → c.iss.core = c.w.core → c.w.core < s.cores.length →
        (s.launch (s.block c.w.block).launch).team ≠ some 0 →
        let s1 := s.modIss c (fun w => { w with holding := false })
        let others := holders s1 (s.block c.w.block) &&& o.warps
        ∃ u t, exec (.mxrel h) s = .next t ∧ After c u t ∧ (u.warp c.iss.warp).holding = false ∧ u.mem = s.mem ∧ u.seals = s.seals ∧
          (others ≠ 0 → u = s1) ∧
          (others = 0 → (u.core c.w.core).owner = none ∧ ∀ v ∈ (u.block c.w.block).cv, v.opened = true → v.owner ≠ o.tag))) ∧
    (∀ (h : Hd) (d : Dv) (cv : BitVec 3) (s : State) (c : Cx), Goes (.mxwait h d cv) s c → c.act ≠ 0 → ownership s c = .yes →
      let v := (s.block c.w.block).cv.getD cv.toNat default
      let taken := v.busy = true ∨ (v.opened = true ∧ cget v.signed 0 c.w.index &&& c.act ≠ 0)
      (taken → ∃ t, exec (.mxwait h d cv) s = .next t ∧ Waits c (.issued .engine c.act { whole := c.g.mask == c.w.live }) s t) ∧
      (¬ taken → ∃ u t, exec (.mxwait h d cv) s = .next t ∧ Results c none 1 (fun _ => ⟨v.err.toNat, 0⟩) u t ∧
        u = { s with warps := u.warps, cores := u.cores } ∧ (∀ j, (u.warp j).rf = (s.warp j).rf ∧ (u.warp j).groups = (s.warp j).groups) ∧
        ∀ x ∈ (u.core c.w.core).l1, x.rc = false ∧ x.bulk = false)) ∧
    (∀ (h : Hd) (dh : BitVec 4) (s : State) (c : Cx), Goes (.dkfree h dh) s c → c.act ≠ 0 → ownership s c = .yes →
      let valid := ((s.block c.w.block).dh.getD dh.toNat default).valid = true
      (¬ valid → ∃ t, exec (.dkfree h dh) s = .next t ∧ Trapped c 0 (fun l => if hasLane c.act l then some .illegal else none) s t) ∧
      (valid → handleBusy (s.block c.w.block) dh.toNat = true → ∃ t, exec (.dkfree h dh) s = .next t ∧ Waits c (.issued .engine c.act { whole := c.g.mask == c.w.live }) s t) ∧
      (valid → handleBusy (s.block c.w.block) dh.toNat = false → ∃ t, exec (.dkfree h dh) s = .next t ∧
        After c (s.modBlock c.w.block (fun b => { b with dh := b.dh.modify dh.toNat (fun x => { x with valid := false }) })) t)) ∧
    (∀ (h : Hd) (fmt addr : Src) (dh : BitVec 4) (slot : BitVec 7) (isRef : Bool) (s : State) (c : Cx),
      Goes (.dkld h fmt addr dh slot isRef) s c → c.act ≠ 0 → ownership s c = .yes →
      let fw := (Values.w32 c fmt (Values.lowest c.act)).toNat
      let a := Values.w64 c addr (Values.lowest c.act)
      let b := s.block c.w.block
      let e := fw / 16 % 16
      let scb := fw.testBit 11
      let traps := fun k => ∃ t, exec (.dkld h fmt addr dh slot isRef) s = .next t ∧ Trapped c 0 (fun l => if hasLane c.act l then some k else none) s t
      (fmtLegal fw = false ∨ slotOk e scb slot.toNat = false → traps .illegal) ∧
      (fmtLegal fw = true → slotOk e scb slot.toNat = true → ¬ (nbits a.toNat 63 56 = 0xFE ∧ nbits a.toNat 55 52 ≠ 1) → a.toNat % 128 ≠ 0 → traps .misalign) ∧
      (fmtLegal fw = true → slotOk e scb slot.toNat = true → a.toNat % 128 = 0 → nbits a.toNat 63 52 = 0xFE1 →
        let inside := nbits a.toNat 51 21 = 0 ∧ a.toNat % 2 ^ 21 + srcBytes e scb ≤ b.size
        (¬ inside → traps .range) ∧
        (inside → handleBusy b dh.toNat = false → ∃ u t, exec (.dkld h fmt addr dh slot isRef) s = .next t ∧ After c u t ∧
          u = { s with blocks := u.blocks, cores := u.cores, ctr := s.ctr + 1 } ∧
          u.blocks = (s.modBlock c.w.block (fun b => { b with dh := b.dh.set dh.toNat ⟨true, e, scb, slot.toNat, slotsOf e scb, isRef, a⟩ })).blocks ∧
          u.cores = (s.modCore c.iss.core (fun k => { k with fills := k.fills ++
            [⟨s.ctr, c.w.block, dh.toNat, ⟨true, e, scb, slot.toNat, slotsOf e scb, isRef, a⟩, none, c.iss.warp⟩] })).cores)) ∧
      (∀ p x, dkldPlan dh.toNat slot.toNat isRef c (sigArgs fmt addr true c s) s = .ok (p, some x) → pfqRoom s c.w = false →
        exec (.dkld h fmt addr dh slot isRef) s = .next (s.paused c .memory))) ∧
    (∀ (h : Hd) (acc : BitVec 3) (s : State) (c : Cx), Goes (.accz h acc) s c → c.act ≠ 0 → ownership s c = .yes →
      (tileOk s c acc.toNat = false → ∃ t, exec (.accz h acc) s = .next t ∧ Trapped c 0 (fun l => if hasLane c.act l then some .illegal else none) s t) ∧
      (tileOk s c acc.toNat = true → ∃ t op, exec (.accz h acc) s = .next t ∧
        After c { s.modCore c.iss.core (fun k => { k with eng := k.eng ++ [op] }) with ctr := s.ctr + 1 } t ∧
        op.kind = .accz ∧ op.seq = s.ctr ∧ op.acc = acc.toNat ∧ op.block = c.w.block ∧ op.group = (ownerOf s c.w c.act).tag)) ∧
    (∀ (h : Hd) (d : Dv) (acc : BitVec 3) (clr : Bool) (s : State) (c : Cx), Goes (.accstat h d acc clr) s c → c.act ≠ 0 → ownership s c = .yes →
      tileOk s c acc.toNat = true → s.ctr < 2 ^ 64 →
      let k := s.core c.iss.core
      let busy := ∃ e ∈ k.eng, e.seq < s.ctr ∧ (e.acc = acc.toNat ∨ e.kind = .mxrun)
      (busy → ∃ t x, exec (.accstat h d acc clr) s = .next t ∧ Waits c (.issued .engine c.act x) s t) ∧
      (¬ busy → ∃ t, exec (.accstat h d acc clr) s = .next t ∧
        Results c none 1 (fun _ => ⟨(k.acc.getD acc.toNat default).stat.toNat, 0⟩)
          (if clr then s.modCore c.iss.core (fun k => { k with acc := k.acc.modify acc.toNat (fun x => { x with stat := 0 }) }) else s) t)) ∧
    (∀ (h : Hd) (s : State) (c : Cx), Goes (.opfence h) s c → c.act ≠ 0 → ownership s c = .yes →
      let u := s.modCore c.iss.core (fun k => { k with gen := k.gen + 1, opc := if k.gen + 1 = 0 then [] else k.opc })
      (storesAway s c.w c.act = false → ∃ t, exec (.opfence h) s = .next t ∧ After c u t) ∧
      (storesAway s c.w c.act = true → ∃ t x, exec (.opfence h) s = .next t ∧ Waits c (.issued .memory c.act x) s t))

/-- XPOST of n records traps with MISALIGN and RANGE on its lowest active lane's offset; waits while the core's queue has
no room for all n, and while earlier accesses of its lanes in a record's domain, or stores of the block that a narrow
scope holds in the core, are outstanding; and else writes the first id to every active lane and appends the n records
of the window, in order, to the block's requests and to the core's queue. XQUERY answers the state, the outcome and
the count of each lane's request among the last 256, and 3 for another id. XCANCEL answers 1 in a lane whose request
was queued or running and nothing cancelled before, and such requests are then done and cancelled, or, where the
engine is inside a 16-byte granule, marked to end with it; another request may start in their place. Memory and the
tiles stay. (07_matrix_and_engine_instructions.md, Transfer requests) -/
def Obligations.TransferRequests : Prop :=
  (∀ (h : Hd) (d : Dv) (off : Src) (n : BitVec 4) (s : State) (c : Cx), Goes (.xpost h d off n) s c → c.w.block < s.blocks.length →
      let i : Instr := .xpost h d off n
      let b := s.block c.w.block
      let o := (Values.w32 c off (Values.lowest c.act)).toNat
      let k := n.toNat + 1
      let rs := (List.range k).map (fun j => scrRead (s.core b.core) (b.base + o + 64 * j) 64)
      let ids := (List.range k).map (fun j => b.nextReq + BitVec.ofNat 32 j)
      let qs := (ids.zip rs).map (fun x => ({ id := x.1, st := .queued, outcome := 0, record := BitVec.ofNat 512 x.2, count := 0, goff := 0, counted := 0, entry := 0, claims := [], launch := b.launch } : Req))
      let traps := fun e => ∃ t, exec i s = .next t ∧ Trapped c 0 (fun l => if hasLane c.act l then some e else none) s t
      (c.act = 0 → ∃ t, exec i s = .next t ∧ After c s t) ∧
      (c.act ≠ 0 → o % 64 ≠ 0 → traps .misalign) ∧
      (c.act ≠ 0 → o % 64 = 0 → b.size < o + 64 * k → traps .range) ∧
      (c.act ≠ 0 → o % 64 = 0 → o + 64 * k ≤ b.size →
        (64 < (s.core c.iss.core).reqq.length + k ∨ forkWait s c rs ≠ [] → ∃ t wt, exec i s = .next t ∧ Waits c wt s t) ∧
        ((s.core c.iss.core).reqq.length + k ≤ 64 → forkWait s c rs = [] → ∃ u t, exec i s = .next t ∧
          Results c none 1 (fun _ => ⟨b.nextReq.toNat, 0⟩) u t ∧ u = { s with blocks := u.blocks, cores := u.cores } ∧
          (∀ j, j ≠ c.w.block → u.blocks[j]? = s.blocks[j]?) ∧
          (u.block c.w.block) = { b with nextReq := b.nextReq + BitVec.ofNat 32 k, reqs := (u.block c.w.block).reqs } ∧
          (∀ q, q ∈ (u.block c.w.block).reqs ↔ q ∈ b.reqs ++ qs ∧ (q.st ≠ .done ∨ { b with nextReq := b.nextReq + BitVec.ofNat 32 k }.recent q.id = true)) ∧
          (∀ j, (u.core j).scr = (s.core j).scr ∧ (u.core j).acc = (s.core j).acc) ∧
          (c.iss.core < s.cores.length → (u.core c.iss.core).reqq = (s.core c.iss.core).reqq ++ ids.map (fun x => (c.w.block, x)))))) ∧
    (∀ (h : Hd) (d : Dv) (a : Src) (s : State) (c : Cx), Goes (.xquery h d a) s c →
      let b := s.block c.w.block
      ∃ t, exec (.xquery h d a) s = .next t ∧
        Results c none 2 (fun l =>
          let id := Values.w32 c a l
          match (if b.recent id then b.reqs.find? (fun q => q.id == id) else none) with
          | none => ⟨3, 0⟩
          | some q => ⟨(match q.st with | .queued => 0 | .running => 1 | .done => 2) + 4 * q.outcome + 16 * (q.count / 2 ^ 32 % 256)
              + 2 ^ 32 * (q.count % 2 ^ 32), 0⟩) s t) ∧
    (∀ (h : Hd) (d : Dv) (a : Src) (s : State) (c : Cx), Goes (.xcancel h d a) s c → c.w.block < s.blocks.length →
      let b := s.block c.w.block
      b.reqs.Pairwise (fun p q => p.id ≠ q.id) →
      let live := fun (x : W32) => b.recent x = true ∧ ∃ q ∈ b.reqs, q.id = x ∧ q.st ≠ .done ∧ q.cancel = false
      ∃ (u t : State) (val : Nat → Nat), exec (.xcancel h d a) s = .next t ∧ Results c none 1 (fun l => ⟨val l, 0⟩) u t ∧
        u = { s with blocks := u.blocks, cores := u.cores, engines := u.engines } ∧
        (∀ l, hasLane c.act l → (val l = 1 ∨ val l = 0) ∧
          (val l = 1 ↔ live (Values.w32 c a l) ∧ ∀ m, m < l → hasLane c.act m → Values.w32 c a m ≠ Values.w32 c a l)) ∧
        (u.block c.w.block).reqs.map (·.id) = b.reqs.map (·.id) ∧
        ∀ q ∈ b.reqs, ∃ q' ∈ (u.block c.w.block).reqs, q'.id = q.id ∧ q'.record = q.record ∧
          (if q.st ≠ .done ∧ q.cancel = false ∧ b.recent q.id = true ∧ (lanesOf c.act).any (fun l => Values.w32 c a l == q.id) = true
            then (atGranule q = true → q'.st = .done ∧ q'.outcome = 1) ∧ (atGranule q = false → q.st = .running → q' = { q with cancel := true })
            else ∃ st, q' = { q with st := st } ∧ (st = q.st ∨ (q.st = .queued ∧ st = .running))))

/-- A run is fetched whole, from its start to its first instruction with E set, at most 24 of them, each byte memory's or
the one in the line that the core holds for the image; one without an end traps with ILLEGAL, one outside the
executable windows with RANGE, a fault parks the subgroup at the run start, all of these once nothing of its last run
can still trap, and a run whose bytes are on their way is fetched later. Arbitration gives an idle quadrant to the
winner of its warps that can issue: the oldest, then the greatest weight, then the lowest seat. A long-latency result
reaches its lanes' registers and flags, and frees the last reads that waited for it unless a lane traps. A swap moves
a victim with a stall age above 4,096 out and the first ready warp in. A bead load whose beads are full gets its data,
a changed monitored line ends every waiting MWAIT of its warp with 1 and a passed deadline with 0, and a prefetch
counts its bytes down, once the host pages among them have been answered for. (02_encoding.md, Runs and fetch;
11_issue_and_registers.md, Arbitration between runs; 11_issue_and_registers.md, Swapping; 05_float_and_convert.md,
Exceptions, traps and timing; 06_memory_instructions.md, Beads; 06_memory_instructions.md, Monitors;
06_memory_instructions.md, Prefetch) -/
def Obligations.IssueStageEvents : Prop :=
  (∀ (s : State) (wid gid : Nat) (g : Sys2Proof.Machine.Group), (s.warp wid).group? gid = some g → g.unfetched = true → blockRuns s (s.warp wid) = true →
      (∀ l, fetchRun s (s.warp wid) g.pos.start = .got l →
        exec (.runFetch wid gid) s = .next ((holdCode s (s.warp wid) l).modWarp wid (fun w => w.modGroup gid (fun g => { g with pos := { g.pos with run := l } }))).bump ∧
        1 ≤ l.length ∧ l.length ≤ 24 ∧ (∀ f, l.getLast? = some f → f.ends = true) ∧ (∀ f ∈ l.dropLast, f.ends = false) ∧
        (∀ f, l.head? = some f → f.pc = g.pos.start) ∧ ∀ k f h, l[k]? = some f → l[k + 1]? = some h → h.pc = f.next) ∧
      (∀ (held : List CodeLine) (x va l : Nat), codeByte s held x va l = seenByte s x l ∨
        ∃ h ∈ held, h.line = l / 128 ∧ codeByte s held x va l = BitVec.ofNat 8 (h.data.toNat / 256 ^ (l % 128))) ∧
      (∀ l, fetchRun s (s.warp wid) g.pos.start = .got l → (s.warp wid).core < s.cores.length → ∀ f ∈ l, ∀ n ∈ codeLines s (s.warp wid) f,
        ∃ h ∈ heldCode (holdCode s (s.warp wid) l) (s.warp wid), h.line = n) ∧
      (fetchRun s (s.warp wid) g.pos.start = .wait ∨ (∃ l x, fetchRun s (s.warp wid) g.pos.start = .peer l x) → exec (.runFetch wid gid) s = .next s) ∧
      (∀ x, fetchRun s (s.warp wid) g.pos.start = .fault x → g.after = [] → wid < s.warps.length → (s.warp wid).thr.length = 32 →
        ∃ t, exec (.runFetch wid gid) s = .next t ∧ t.mem = s.mem ∧ t.seals = s.seals ∧ (t.warp wid).rf = (s.warp wid).rf ∧
          ∀ l, hasLane g.mask l → ((t.warp wid).thread l).st = .fetchStopped g.pos.start x) ∧
      (∀ f k, fetchRun s (s.warp wid) g.pos.start = .long f ∧ k = .illegal ∨ (∃ pc, fetchRun s (s.warp wid) g.pos.start = .range pc) ∧ k = Kind.range →
        g.after = [] → wid < s.warps.length → (s.warp wid).thr.length = 32 →
        ∃ t, exec (.runFetch wid gid) s = .next t ∧ t.mem = s.mem ∧ t.seals = s.seals ∧ (t.warp wid).rf = (s.warp wid).rf ∧
          ∀ l, hasLane g.mask l → (∃ rid, ((t.warp wid).thread l).st = .parked { g.pos with run := [firstAt s (s.warp wid) g.pos.start] } rid) ∧
            (((s.warp wid).thread l).depth = false → ∃ r, ((t.warp wid).thread l).trec = some r ∧ r.kind = k))) ∧
    (∀ (s : State) (core quad : Nat), s.focus = ⟨core, quad, .A⟩ → (s.quad core quad).hold = none → coreRuns s core = true → (s.core core).stop = .no →
      core < s.cores.length → quad < (s.core core).quads.length →
      let s0 := wakeQuad s core quad
      let can := (seated s0 core quad).filter (fun x => canIssue s0 x.2)
      let part := if can.any (fun x => !x.2.yielded) then can.filter (fun x => !x.2.yielded) else can
      (∃ t, exec (.quadrantArbitration core quad) s = .next t ∧ (t.quad core quad).hold = (winner s0 part).map (·.2.id)) ∧
        ∀ x, winner s0 part = some x → x ∈ part ∧ ∀ y ∈ part, y.2.age ≤ x.2.age ∧ (y.2.age = x.2.age →
          launchWeight s0 y.2 ≤ launchWeight s0 x.2 ∧ (launchWeight s0 y.2 = launchWeight s0 x.2 → x.1 ≤ y.1))) ∧
    (∀ (s : State) (wid id : Nat) (r : Llr), (s.warp wid).llr.find? (fun r => r.id == id) = some r → wid < s.warps.length →
      (s.warp wid).thr.length = 32 → (r.vals.map (·.1)).Nodup →
      ((∀ x ∈ r.vals, x.2.2 &&& r.exc = 0) → ∃ t, exec (.longLatencyResult wid id) s = .next t ∧ t = { s with warps := t.warps, ctr := t.ctr } ∧
        (t.warp wid).llr.map (fun x => { x with lats := [] }) = ((s.warp wid).llr.filter (fun x => x.id != id)).map (fun x => { x with lats := [] }) ∧ (t.warp wid).rf.q = (s.warp wid).rf.q ∧
        (∀ x ∈ r.vals, x.1 < 32 → ((t.warp wid).thread x.1).fpstat = ((s.warp wid).thread x.1).fpstat ||| x.2.2) ∧
        (∀ q ∈ r.frees, (t.warp wid).rf.has q = false) ∧
        (r.d = false → r.uni = false → (s.warp wid).rf.has r.dst = true → r.dst ∉ r.frees → ∀ x ∈ r.vals, x.1 < 32 → (t.warp wid).rf.vget r.dst x.1 = x.2.1) ∧
        (r.d = false → r.uni = true → ∀ x, r.vals.head? = some x → (t.warp wid).rf.sget r.dst = x.2.1.setWidth 64)) ∧
      (∃ t, exec (.longLatencyResult wid id) s = .next t ∧ t.mem = s.mem ∧ t.seals = s.seals ∧ ∀ x ∈ r.vals, x.1 < 32 → x.2.2 &&& r.exc ≠ 0 →
        ((t.warp wid).thread x.1).st = .parked r.pos r.runId)) ∧
    (∀ (s : State) (core quad a seat : Nat) (w : Warp), (swapAsks s core quad).findSome? (victim s core quad) = some (a, seat, w) →
      exec (.swapOut core quad) s =
        .next ((s.modWarp w.id (fun w => { w with place := .movingOut seat a, image := some (imageFor s w) })).count core 32 1) ∧
      4096 < w.stall ∧ a ∈ swapAsks s core quad ∧ w.id ≠ a ∧
        ∀ y ∈ seated s core quad, 4096 < y.2.stall → y.2.id ≠ a → vpMoving (s.block y.2.block) = false → y.2.stall ≤ w.stall) ∧
    (∀ (s : State) (core quad seat : Nat) (w : Warp),
      firstBy (fun (a b : Warp) => a.ready.getD 0 < b.ready.getD 0) ((quadWarps s core quad).filter (·.ready.isSome)) = some w →
      freeSeat s core quad = some seat → w.rf.footprint ≤ s.poolFree core quad → blockRuns s w = true →
      exec (.swapIn core quad) s = .next (((s.modWarp w.id (fun w => { w with place := .movingIn seat, ready := none, stall := 0 })).modQuad core quad
        (fun q => { q with seats := q.seats.set seat (some w.id) })).count core 33 1)) ∧
    (∀ (s : State) (wid seat asks : Nat),
      ((s.warp wid).place = .movingOut seat asks → exec (.swapMoveComplete wid) s =
        .next { (s.modWarp wid (fun w => { w with place := .swapped s.ctr, ready := none })).modQuad (s.warp wid).core (s.warp wid).quad
          (fun q => { q with seats := q.seats.set seat none }) with ctr := s.ctr + 1 }) ∧
      ((s.warp wid).place = .movingIn seat → exec (.swapMoveComplete wid) s =
        .next (s.modWarp wid (fun w => { w with place := .seated seat, image := none, age := 0, lastCause := .issued })))) ∧
    (∀ (s : State) (wid gid : Nat) (g : Sys2Proof.Machine.Group) (act : LMask) (vals : List (Nat × Nat)) (f : Fetched) (h : Hd) (r : BitVec 8)
        (z : Size) (q : MemQ) (bd : BeadL) (off : Src) (imm : BitVec 12),
      (s.warp wid).group? gid = some g → g.wait = some (.lanes act vals) → g.cur = some f → decodeWord f.word = .ok (.lds h r z q bd off imm) →
      (s.warp wid).halted &&& g.mask = 0 → wid < s.warps.length → (s.warp wid).core < s.cores.length →
      let core := (s.warp wid).core
      let as := beadAccs core (s.block (s.warp wid).block).base (sizeBytes z) vals
      (∀ k ∈ accGranules as, beadGet (s.core core) k = true) →
      ∃ t tx, exec (.beadWaitEnd wid gid) s = .next t ∧ t.mem = s.mem ∧ t.seals = s.seals ∧ tx ∈ (t.warp wid).txns ∧ tx.id = s.ctr ∧ tx.dst = r.toNat ∧ tx.mask = act ∧
        tx.accs = as.map (fun a => { a with got := homeRead s wid a }) ∧
        ∀ k, beadGet (t.core core) k = (beadGet (s.core core) k && !(bd == .take && (accGranules as).contains k))) ∧
    (∀ (i : Instr) (s : State) (wid : Nat) (g : Sys2Proof.Machine.Group) (act : LMask) (dl : Nat) (f : Fetched) (h : Hd) (d : Dv) (lim : Src) (v : Bool),
      g.cur = some f → g.wait = some (.mwait act dl) → decodeWord f.word = .ok (.mwait h d lim) → (s.warp wid).halted &&& g.mask = 0 → wid < s.warps.length →
      ((i = .monitorCompare wid ∨ i = .monitorPoll wid) ∧ v = true ∧
          g ∈ (s.warp wid).groups ∧
          (s.warp wid).mon.armed = true ∧ ((s.warp wid).mon.hit = true ∨
            ∃ l, monPlace s (s.warp wid) = .loc l ∧ lineNow s (s.block (s.warp wid).block).ctx (128 * (s.warp wid).mon.line) l ≠ (s.warp wid).mon.snap)) ∨
        (i = .mwaitDeadline wid g.gid ∧ v = false ∧ (s.warp wid).group? g.gid = some g ∧ dl ≠ 0 ∧ dl ≤ s.time) →
      ∃ t, exec i s = .next t ∧ t.mem = s.mem ∧ t.seals = s.seals ∧ (t.warp wid).mon.armed = false ∧
        (d.d = false → d.r.toNat ≠ 0 → ∀ l, hasLane act l → hasLane ((t.warp wid).rf.pred d.r.toNat) l = v)) ∧
    (∀ (s : State) (core idx bytes : Nat) (p : Pref), (s.core core).prefs[idx]? = some p → bytes ≠ 0 → p.left ≠ 0 → core < s.cores.length →
      let n := min bytes p.left
      let b := s.block p.block
      (∀ va ia, prefAsks s p (p.lines n) = some (va, ia) → exec (.prefetchProgress core idx bytes) s = .next (askAts s p.die (s.ctx p.ctx) ia)) ∧
      (prefAsks s p (p.lines n) = none → ∃ t, exec (.prefetchProgress core idx bytes) s = .next t ∧ t.mem = s.mem ∧ t.seals = s.seals ∧
        (t.core core).prefs = (if p.left = n then (s.core core).prefs.eraseIdx idx else (s.core core).prefs.set idx { p with va := p.va + n, left := p.left - n }) ∧
        ∀ o, p.bar = some o → b.ended = false → scrRead (t.core core) (b.base + o) 16 = barDown (scrRead (s.core core) (b.base + o) 16) n))

/-- Of the accesses at a core's port the one of the lowest class goes first, but one that has lost 256 times before those
that have not; one that does not go waits. A load that is ready delivers the value that it reads to its lane's
registers; a store or an atomic that is ready writes its home, and no other byte of memory, but for a CAUSAL store,
which waits in its die's list; an acknowledgement ends a store; the coherent level performs a die's oldest CAUSAL
update; a publish demand, where an access of another core waits, covers the stores up to the release. A walk
translates an access or gives it its fault, and stops by the name noSuchMemory at a leaf above the device memory. An
ATS answer that was asked for is cached, or gives every access of the die that waits for the page its fault, and one
that was not asked for changes nothing; an invalidation takes every cached translation of its range, and completes
with the acknowledgement of the last die; a floor change and a page migration rewrite the page's leaf, and the
migration's bytes are copied granule by granule by a hub copy engine, once MIG is set and nothing uses the page.
(15_consistency.md, Coherence; 15_consistency.md, The domains; 14_memory_spaces.md, The cached levels;
19_traps_faults_preemption.md, Page tables and walks; 19_traps_faults_preemption.md, Invalidation;
19_traps_faults_preemption.md, Migration and poison; 15_consistency.md, Domain floors) -/
def Obligations.MemorySideEvents : Prop :=
  (∀ (s : State) (wid tid i : Nat),
      let same := fun (w : Sys2Proof.Machine.Warp) => { w with txns := w.txns.map (fun (t : Txn) => { t with accs := t.accs.map (fun (a : Acc) => { a with lost := 0 }) }) }
      (portTurn s wid tid i = none → ∀ e ∈ [Instr.loadDataArrival wid tid i, .storeDrain wid tid i, .storeAcknowledge wid tid i], exec e s = .next s.bump) ∧
      (∀ p, portTurn s wid tid i = some p → p = { s with warps := p.warps } ∧ p.warps.map same = s.warps.map same) ∧
      (∀ t a c, s.acc? wid tid i = some (t, a) → portClass s (s.warp wid) t a = some c →
        (portTurn s wid tid i = none ↔ ∃ x ∈ portRivals s (s.warp wid).core (wid, tid, a.name),
          256 ≤ x.2.1.lost ∧ a.lost < 256 ∨ (256 ≤ x.2.1.lost ↔ 256 ≤ a.lost) ∧ x.2.2 < c))) ∧
    (∀ (s0 s : State) (wid tid i : Nat) (t : Txn) (a : Acc), portTurn s0 wid tid i = some s → s.acc? wid tid i = some (t, a) → wid < s.warps.length →
      let w := s.warp wid
      (t.kind = .load → a.st = .issued → loadReady s w t a = true → (a.sp = .global → l1Hit s w t a = false → poisoned s a.place a.n = false) →
        t.of a.lane = [a] → granuleFault s w t a = none → a.part = 0 → w.live ≠ 0 → t.dst + t.nregs ≤ 256 → a.lane < 32 →
        ∃ u, exec (.loadDataArrival wid tid i) s0 = .next u ∧ u.mem = s.mem ∧ u.seals = s.seals ∧ ∀ k, k < t.nregs →
          (u.warp wid).rf.vget (t.dst + k) a.lane = BitVec.ofNat 32 (loadVal s w t a (usesL1 t a) / 2 ^ (32 * k))) ∧
      (let k := if a.sp = .global ∨ a.sp = .diescr then resealN s (a.sealBy s wid) a.place a.n else s;
        writeReady s w t a = true → granuleFault s w t a = none → (a.sp = .global → poisoned s a.place a.n = false) → (∀ k, a.sp = .scratch k → k < s.cores.length) →
        (t.kind = .store → ¬ (t.dom = .causal ∧ a.sp = .global) → ∃ u, exec (.storeDrain wid tid i) s0 = .next u ∧
          homeRead u wid a = a.data % 256 ^ a.n ∧
          (∀ l, (a.sp = .global ∨ a.sp = .diescr → l < a.place ∨ a.place + a.n ≤ l) → memGet u.mem l = memGet k.mem l) ∧ u.seals = k.seals ∧
          (∀ k b, (a.sp = .scratch k → b < a.key ∨ a.key + a.n ≤ b) → scrGet (u.core k) b = scrGet (s.core k) b)) ∧
        (∀ op wd rd, t.kind = .atomic op wd rd → ∃ u, exec (.storeDrain wid tid i) s0 = .next u ∧
          homeRead u wid a = atomVal op wd (homeRead s wid a) a.data a.cmp % 256 ^ a.n ∧
          (∀ l, (a.sp = .global ∨ a.sp = .diescr → l < a.place ∨ a.place + a.n ≤ l) → memGet u.mem l = memGet k.mem l) ∧ u.seals = k.seals ∧
          (∀ k b, (a.sp = .scratch k → b < a.key ∨ a.key + a.n ≤ b) → scrGet (u.core k) b = scrGet (s.core k) b)) ∧
        (t.kind = .store → t.dom = .causal → a.sp = .global → dieOf w.core < s.dies.length → ∃ u, exec (.storeDrain wid tid i) s0 = .next u ∧
          u.mem = s.mem ∧ u.seals = s.seals ∧ (u.die (dieOf w.core)).upd = (s.die (dieOf w.core)).upd ++ [⟨.lane wid t.id a.name, a.key, a.place, a.n, a.data⟩])) ∧
      (t.kind = .store ∨ (∃ op wd, t.kind = .atomic op wd true) → a.st = .performed → ackInOrder s w t a = true → ∃ u, exec (.storeAcknowledge wid tid i) s0 = .next u ∧
        u.mem = s.mem ∧ u.seals = s.seals ∧ (∀ k, (u.core k).scr = (s.core k).scr) ∧ (u.warp wid).rf = w.rf ∧ ∀ x, u.acc? wid tid i = some x → x.1.id = tid → x.2.st = .done)) ∧
    (∀ (s : State) (wid tid i : Nat) (t : Txn) (a : Acc), s.acc? wid tid i = some (t, a) → wid < s.warps.length →
      let w := s.warp wid
      (a.sp = .global → a.st = .issued → a.xl = .none ∨ a.xl = .wait ∨ a.xl = .asked → deferredBy s w t a.lane = false → granuleWaits w t a (untranslated s w) = false → granuleFault s w t a = none →
        let x := translate s (dieOf w.core) (s.ctx (s.block w.block).ctx) a.key (accNeed t)
        (∀ l, x = .loc l → Config.deviceBytes ≤ l → l < peerBase → exec (.mtuWalk wid tid i) s = .fault .noSuchMemory) ∧
        (∀ l, x = .loc l → l < Config.deviceBytes ∨ peerBase ≤ l → ∃ u, exec (.mtuWalk wid tid i) s = .next u ∧ u.mem = s.mem ∧ u.seals = s.seals ∧
          u.warps = (s.putAcc wid t i { a with xl := if poisoned s l a.n then .fault .poison 0 else .loc l }).warps) ∧
        (∀ k v, x = .fault k v → ∃ u, exec (.mtuWalk wid tid i) s = .next u ∧ u.mem = s.mem ∧ u.seals = s.seals ∧
          u.warps = (s.putAcc wid t i { a with xl := .fault k v }).warps) ∧
        (x = .asked → ∃ u, exec (.mtuWalk wid tid i) s = .next u ∧ u.mem = s.mem ∧ u.seals = s.seals ∧ u.warps = (s.putAcc wid t i { a with xl := .asked }).warps))) ∧
    (∀ (s : State) (d : Nat) (x : CUpd) (r : List CUpd), (s.die d).upd = x :: r → (linesOf x.loc x.n).all (fun l => peerOk s l true && dirOk s l true) = true →
      updateHeld s x = false → d < s.dies.length →
      ∃ u, exec (.causalUpdate d) s = .next u ∧ (u.die d).upd = r ∧ seenN u (x.sealBy s) x.loc x.n = x.data % 256 ^ x.n ∧
        let k := resealN s (x.sealBy s) x.loc x.n
        u.seals = k.seals ∧ ∀ l, l < x.loc ∨ x.loc + x.n ≤ l → memGet u.mem l = memGet k.mem l) ∧
    (∀ (s : State) (wid tid : Nat) (t : Txn), (s.warp wid).txn? tid = some t → t.holds = true → t.demanded = false →
      (outsideWants s (s.warp wid) t = false → exec (.publishDemand wid tid) s = .next s) ∧
      (outsideWants s (s.warp wid) t = true →
        exec (.publishDemand wid tid) s = .next ((s.modWarp wid (fun w => { w with txns := w.txns.map (fun x =>
          if x.id ≤ tid ∧ x.kind.writes = true then { x with publish := true, demanded := x.demanded || x.id == tid } else x) })).count
          (s.warp wid).core 37 1))) ∧
    (∀ (s : State) (i pasid page frame : Nat) (r w : Bool), pasid ≤ 2 ^ 20 →
      let p := if pasid < 2 ^ 20 then some pasid else none
      ((i, p, page) ∉ s.hubAsks → exec (.atsReply 4 (i * 2 ^ 21 + pasid) page (.grant frame r w)) s = .next s) ∧
      ((i, p, page) ∈ s.hubAsks →
        exec (.atsReply 4 (i * 2 ^ 21 + pasid) page (.grant frame r w)) s = .next { s with
          hubAsks := s.hubAsks.filter (fun x => x != (i, p, page)), hubAts := ⟨i, p, page, frame, r, w⟩ :: s.hubAts } ∧
        exec (.atsReply 4 (i * 2 ^ 21 + pasid) page .denied) s = .next { s with
          hubAsks := s.hubAsks.filter (fun x => x != (i, p, page)), hubAts := ⟨i, p, page, 0, false, false⟩ :: s.hubAts })) ∧
    (∀ (s : State) (d ctx page f : Nat) (r w : Bool), d ≠ 4 →
      ((ctx, page) ∉ (s.die d).asks → ∀ ans, exec (.atsReply d ctx page ans) s = .next s) ∧
      ((ctx, page) ∈ (s.die d).asks →
        (r = true ∨ w = true → exec (.atsReply d ctx page (.grant f r w)) s = .next (s.modDie d (fun x => { x with
          asks := x.asks.filter (fun y => y != (ctx, page)), ats := ⟨ctx, page, f, r, w⟩ :: x.ats }))) ∧
        (d < s.dies.length → ∃ u, exec (.atsReply d ctx page .denied) s = .next u ∧ u.mem = s.mem ∧ u.seals = s.seals ∧ (ctx, page) ∉ (u.die d).asks ∧
          ∀ wid v, wid < s.warps.length → s.warp wid = v → v.id = wid → dieOf v.core = d → (s.block v.block).ctx = ctx →
            (u.warp wid).txns = v.txns.map (fun t => { t with accs := t.accs.map (Acc.deny page) })))) ∧
    (∀ (s : State) (ctx page : Nat) (ok : Bool), (ctx, page) ∈ s.pri → ∃ u, exec (.priResponse ctx page ok) s = .next u ∧
      u.pri = s.pri.filter (fun x => x != (ctx, page))) ∧
    (∀ (s : State) (ctx lo hi : Nat), s.dies.length ≤ 4 → ∃ u, exec (.invalidation ctx lo hi) s = .next u ∧ u.mem = s.mem ∧ u.seals = s.seals ∧
      (∃ waits, u.invs = s.invs ++ [⟨ctx, lo, hi, waits, List.range 4⟩]) ∧
      ∀ d, d < s.dies.length → (∀ e ∈ (u.die d).tlb, e.1 = ctx → hi ≤ e.2.1 * 2 ^ e.2.2.2 ∨ (e.2.1 + 1) * 2 ^ e.2.2.2 ≤ lo) ∧
        (∀ e ∈ (u.die d).ats, e.ctx = ctx → hi ≤ e.page * 4096 ∨ (e.page + 1) * 4096 ≤ lo)) ∧
    (∀ (s : State) (d k : Nat) (x : Inv), s.invs[k]? = some x → d ∈ x.left → (∀ y ∈ x.waits.getD d [], underWay s y = false) →
      ((∃ e ∈ x.left, e ≠ d) → exec (.invalidationAck d k) s = .next { s with invs := s.invs.set k { x with left := x.left.filter (fun y => y != d) } }) ∧
      ((∀ e ∈ x.left, e = d) → exec (.invalidationAck d k) s = .next { s with invs := s.invs.eraseIdx k })) ∧
    (∀ (s : State) (ctx ia : Nat) (floor : Dom) (f : Leaf), inHost (s.ctx ctx) ia = false → walk s (s.ctx ctx).root ia = .leaf f →
      ∃ u, exec (.domainFloorChange ctx ia floor) s = .next u ∧ nbits (memReadN u.mem f.at_ 8) 6 4 = domCode floor ∧
        memReadN u.mem f.at_ 8 / 2 ^ 7 = f.pte / 2 ^ 7 ∧ memReadN u.mem f.at_ 8 % 2 ^ 4 = f.pte % 2 ^ 4 ∧
        ∀ l, l < f.at_ ∨ f.at_ + 8 ≤ l → memGet u.mem l = memGet s.mem l) ∧
    (∀ (s : State) (ctx ia dst : Nat) (f : Leaf), s.Inv → inHost (s.ctx ctx) ia = false → walk s (s.ctx ctx).root ia = .leaf f →
      let n := 2 ^ f.bits
      let src := pteAddr f.pte
      nbits f.pte 11 11 = 0 → dst % n = 0 → 16 ≤ f.bits → dst + n ≤ Config.deviceBytes → dst + n ≤ src ∨ src + n ≤ dst →
      (nbits f.pte 9 9 = 0 → ∃ u, exec (.pageMigration ctx ia dst true) s = .next u ∧ nbits (memReadN u.mem f.at_ 8) 9 9 = 1 ∧
        memReadN u.mem f.at_ 8 % 2 ^ 9 = f.pte % 2 ^ 9 ∧ memReadN u.mem f.at_ 8 / 2 ^ 10 = f.pte / 2 ^ 10 ∧
        ∀ l, l < f.at_ ∨ f.at_ + 8 ≤ l → memGet u.mem l = memGet s.mem l) ∧
      (nbits f.pte 9 9 = 1 → quietRange s ctx (ia / n * n) (ia / n * n + n) = true → (∀ m ∈ s.migs, m.ctx = ctx → m.lo ≠ ia / n * n) →
        ∀ e, leastQueued s (List.range 16) = some e → e < s.engines.length →
        ∃ u, exec (.pageMigration ctx ia dst true) s = .next u ∧ u.mem = s.mem ∧ u.seals = s.seals ∧ u.migs = s.migs ++ [⟨ctx, ia / n * n, f.bits, src, dst, 0, false⟩] ∧
          u.engines.getD e [] = s.engines.getD e [] ++ [{ core := 64, block := 2 ^ 64, req := 0, page := some (ctx, ia / n * n) }]) ∧
      (∀ m, nbits f.pte 9 9 = 1 → s.migs.find? (fun m => m.ctx == ctx && m.lo == ia / n * n) = some m →
        (m.bad = false → n ≤ m.pos → m.dst % 4096 = 0 → m.dst < 2 ^ 56 → ∃ u, exec (.pageMigration ctx ia dst true) s = .next u ∧
          pteAddr (memReadN u.mem f.at_ 8) = m.dst ∧ nbits (memReadN u.mem f.at_ 8) 9 9 = 0 ∧ (∀ x ∈ u.migs, x.ctx = ctx → x.lo ≠ ia / n * n) ∧
          ∀ l, l < f.at_ ∨ f.at_ + 8 ≤ l → memGet u.mem l = memGet s.mem l) ∧
        (m.bad = true → ∃ u, exec (.pageMigration ctx ia dst true) s = .next u ∧ u.log = .aborted ctx (ia / n * n) :: s.log ∧
          memReadN u.mem f.at_ 8 % 2 ^ 9 = f.pte % 2 ^ 9 ∧ memReadN u.mem f.at_ 8 / 2 ^ 10 = f.pte / 2 ^ 10 ∧
          nbits (memReadN u.mem f.at_ 8) 9 9 = 0 ∧ ∀ l, l < f.at_ ∨ f.at_ + 8 ≤ l → memGet u.mem l = memGet s.mem l))) ∧
    (∀ (s : State) (e : Nat) (j : Job) (m : Mig), nextCopy s e = none → nextPage s e = some (j, m) →
      poisoned s (m.src + m.pos) 16 = false → dirOk s (m.src + m.pos) false = true →
      ∃ u, exec (.copyGranule e) s = .next u ∧ (∀ k, k < 16 → memGet u.mem (m.dst + m.pos + k) = memGet s.mem (m.src + m.pos + k)) ∧
        sealAt u (m.dst + m.pos) = sealAt s (m.src + m.pos) ∧
        ∀ l, l < m.dst + m.pos ∨ m.dst + m.pos + 16 ≤ l → memGet u.mem l = memGet s.mem l)

/-- A report gives an instruction's faulting lanes one record with its kind, or kills the block at trap depth 1, and stops
the lanes. MEM-PARK makes one event of the stopped lanes that a record holds, and lets the others go on. The oldest
trap event, once its lanes' earlier accesses can fault no more (the model's choice, log 19), enters the handler at
HVEC, bit 0 of its address taken as 0 (the model's choice, log 72), as one subgroup, each lane keeping its interrupted
state; with no handler it ends the block. A resolution writes the entries, asks the host for the page, reports to the
host's driver, which may answer later, or declines; with nothing in its way a record's load delivers and its store
writes its home, a CAUSAL one its die's causal home. FFIX.MAP asks the host for its pages first, and writes 1 in the
lanes whose accesses were performed. SVC's reply reaches every active lane's destination pair, saved or not, once
earlier calls are answered. The debugger's halt stops the live lanes that it names, and its release lets them go.
(19_traps_faults_preemption.md, Memory-side faults; 19_traps_faults_preemption.md, Trap events;
19_traps_faults_preemption.md, Trap depth, halts and breakpoints; 08_system_instructions.md, Trap depth;
08_system_instructions.md, Disposing of fault records; 08_system_instructions.md, SVC; 21_host_and_tenants.md, Service
calls from kernels) -/
def Obligations.FaultSideEvents : Prop :=
  (∀ (s : State) (wid tid : Nat) (t : Txn), (s.warp wid).txn? tid = some t → reportLanes s (s.warp wid) t ≠ 0 → wid < s.warps.length →
      (s.warp wid).thr.length = 32 → (s.warp wid).fr.length = 4 →
      let w := s.warp wid
      let m := reportLanes s w t
      let f := if t.kind.shared = true ∧ t.faulty ≠ 0 then t.mask else t.faulty
      ∃ u, exec (.memorySideFaultReport wid tid) s = .next u ∧ (u.warp wid).rf = w.rf ∧ (∀ k, (u.core k).scr = (s.core k).scr) ∧
        ((s.ctx (s.block w.block).ctx).trace = none → u.mem = s.mem ∧ u.seals = s.seals) ∧
        (∀ n, n < 4 → w.frAt n = none → (∀ k, k < n → w.frAt k ≠ none) →
          (t.faulty ≠ 0 → (u.warp wid).frAt n = some ⟨t.part f, (t.faultAt (lowLane f)).1, (t.faultAt (lowLane f)).2, s.ctr, t.userLanes f⟩) ∧
          (t.faulty = 0 → ∃ r, (u.warp wid).frAt n = some r ∧ r.kind = .deferred ∧ r.txn = t.part m)) ∧
        (w.deep &&& m ≠ 0 → w.block < s.blocks.length → (u.block w.block).kill ≠ none) ∧
        (w.deep = 0 → ∀ l g, hasLane m l → (w.thread l).st = .live → w.groups.find? (fun g => hasLane g.mask l) = some g →
          let idle := g.pos.off = 0 ∧ g.wait = none ∧ g.after = []
          (idle → ((u.warp wid).thread l).st = .memStopped g.pos.start) ∧ (¬ idle → ((u.warp wid).thread l).stop = true))) ∧
    (∀ (s : State) (wid : Nat), wid < s.warps.length → (s.warp wid).thr.length = 32 → (s.warp wid).Named →
      let w := s.warp wid
      let m := w.memStopped &&& ~~~w.inEvents
      (w.parkDue = false → exec (.memPark wid) s = .next s) ∧
      (w.parkDue = true → (∀ l, hasLane w.memStopped l → (w.thread l).stop = false) → ∃ u, exec (.memPark wid) s = .next u ∧
        u = { s with warps := u.warps, ctr := u.ctr } ∧ (u.warp wid).rf = w.rf ∧ (u.warp wid).parkDue = false ∧
        ∀ l pc, hasLane m l → (w.thread l).st = .memStopped pc →
          if hasLane (heldLanes s w) l then ((u.warp wid).thread l).st = .memStopped pc ∧ ((u.warp wid).thread l).trec = some ⟨.memPark, pc, 0, 0, m⟩ ∧
            hasLane (u.warp wid).inEvents l
          else (u.warp wid).standsAt l pc)) ∧
    (∀ (s : State) (wid : Nat) (e : TrapEv) (rest : List TrapEv), (s.warp wid).events = e :: rest → (s.warp wid).handler = 0 →
      (s.warp wid).halted &&& e.mask = 0 → mayFault (s.warp wid) e.mask = false → autoClear (s.warp wid) e.mask = true → blockRuns s (s.warp wid) = true →
      wid < s.warps.length → (s.warp wid).thr.length = 32 → (s.warp wid).Named →
      let w := s.warp wid
      let x := s.launch (s.block w.block).launch
      (x.hen = false → w.block < s.blocks.length → ∃ u, exec (.trapVector wid) s = .next u ∧ u = { s with blocks := u.blocks } ∧ (u.block w.block).kill ≠ none) ∧
      (x.hen = true → ∃ u, exec (.trapVector wid) s = .next u ∧ (u.warp wid).rf = w.rf ∧ (u.warp wid).handler = e.mask ∧ (u.warp wid).events = rest ∧
        ((s.ctx (s.block w.block).ctx).trace = none → u.mem = s.mem ∧ u.seals = s.seals) ∧
        ∀ l, hasLane e.mask l →
          (∃ g ∈ (u.warp wid).groups, hasLane g.mask l ∧ g.startsAt (BitVec.ofNat 64 (x.field 63 0 + x.field 319 288) &&& ~~~1#64) = true) ∧
          ((u.warp wid).thread l).depth = true ∧ ((u.warp wid).thread l).fpstat = (w.thread l).fpstat ∧ ((u.warp wid).thread l).trec = (w.thread l).trec ∧
          (∀ p rid r, (w.thread l).st = .parked p rid → (w.thread l).trec = some r → ((u.warp wid).thread l).intr = some ⟨p, rid, (w.thread l).lat, r.kind⟩) ∧
          (∀ pc, (w.thread l).st = .memStopped pc → ((u.warp wid).thread l).intr = some ⟨⟨pc, [], 0⟩, 0, (w.thread l).lat, .memPark⟩))) ∧
    (∀ (s : State) (a n : Nat) (ans : FixAnswer),
      (faultAt s a n = none → exec (.autoResolution a n ans) s = .next (retryAt s a n) ∧ exec (.hostFaultAnswer a n ans) s = .next s) ∧
      (∀ k ctx ia, faultAt s a n = some (k, ctx, ia) →
        (k = .notPresent ∨ k = .walk → (∀ p, ans = .fix p → exec (.autoResolution a n ans) s = .next (retryAt (writePtes s ctx p) a n)) ∧
          (ans = .decline → exec (.autoResolution a n ans) s = .next (declineAt s a n k))) ∧
        (k = .hostPage → exec (.autoResolution a n ans) s = .next (askPage s ctx (ia / 4096))) ∧
        (k = .poison → exec (.autoResolution a n ans) s = .next (declineAt s a n k)) ∧
        (k ≠ .readDenied → k ≠ .writeDenied → k ≠ .domainFloor → exec (.hostFaultAnswer a n ans) s = .next s) ∧
        (k = .readDenied ∨ k = .writeDenied ∨ k = .domainFloor → exec (.autoResolution a n ans) s = .next { s with log := .host k ctx ia :: s.log } ∧
          (∀ p, ans = .fix p → exec (.hostFaultAnswer a n ans) s = .next (retryAt (writePtes s ctx p) a n)) ∧
          (ans = .decline → exec (.hostFaultAnswer a n ans) s = .next (declineAt s a n k))))) ∧
    (∀ (s : State) (wid n l : Nat) (r : FaultRec) (x y : Acc) (ans : FixAnswer), n < 4 → (s.warp wid).frAt n = some r → autoLanes (s.warp wid) n = [l] → r.txn.mask = laneBit l → r.txn.of l = [x] → r.txn.kind.shared = false → accFault s (s.warp wid) r x = none →
      x.st = .issued → x.part = 0 → tryAcc s (s.warp wid) r.txn x = .go y → replayReady s (s.warp wid) r.txn y = true → wid < s.warps.length →
      ∃ u, exec (.autoResolution wid n ans) s = .next u ∧
        (r.txn.kind = .load → r.txn.dst + r.txn.nregs ≤ 256 → u.mem = s.mem ∧ u.seals = s.seals ∧ ∀ k, k < r.txn.nregs →
          (u.warp wid).rf.vget (r.txn.dst + k) l = BitVec.ofNat 32 (loadVal s (s.warp wid) r.txn y (usesL1 r.txn y) / 2 ^ (32 * k))) ∧
        (r.txn.kind = .store → r.txn.dom = .causal → x.sp = .global → dieOf (s.warp wid).core < s.dies.length → u.mem = s.mem ∧ u.seals = s.seals ∧
          (u.die (dieOf (s.warp wid).core)).upd = (s.die (dieOf (s.warp wid).core)).upd ++ [⟨.lane wid r.txn.id y.name, y.key, y.place, y.n, y.data⟩]) ∧
        (r.txn.kind = .store → r.txn.dom ≠ .causal → x.sp = .global → (u.warp wid).rf = (s.warp wid).rf ∧ homeRead u wid y = y.data % 256 ^ y.n ∧
          let k := resealN s (y.sealBy s wid) y.place y.n
          u.seals = k.seals ∧ ∀ p, p < y.place ∨ y.place + y.n ≤ p → memGet u.mem p = memGet k.mem p)) ∧
    (∀ (s : State) (wid gid : Nat) (g : Sys2Proof.Machine.Group) (n : Nat) (r : FaultRec) (m : LMask) (x : Args) (f : Fetched) (h : Hd) (d : Dv) (n2 : BitVec 2) (act : LMask),
      (s.warp wid).group? gid = some g → g.wait = some (.usxon act x) → g.cur = some f → decodeWord f.word = .ok (.ffixMap h d n2) → (s.warp wid).Named →
      mapWait (s.warp wid) g = some (n, r, m, x) → (s.warp wid).halted &&& g.mask = 0 → wid < s.warps.length →
      let pages := hostPages r (m &&& ~~~x.declined)
      (pages ≠ [] → ∀ ans, ∃ u, exec (.usxonMappingAnswer wid gid ans) s = .next u ∧ u = { s with pri := u.pri } ∧
        (s.pri.length + pages.length ≤ 512 → ∀ p ∈ pages, ((s.block (s.warp wid).block).ctx, p) ∈ u.pri)) ∧
      (pages = [] →
        (r.kind ≠ .hostPage → ∃ u, exec (.usxonMappingAnswer wid gid .decline) s = .next u ∧ u.mem = s.mem ∧ u.seals = s.seals ∧
          (d.d = false → d.r.toNat ≠ 0 → ∀ l, hasLane act l → hasLane ((u.warp wid).rf.pred d.r.toNat) l = false)) ∧
        ∀ ans base, (r.kind = .hostPage ∧ base = s) ∨ (r.kind ≠ .hostPage ∧ ∃ p, ans = .fix p ∧ base = writePtes s (s.block (s.warp wid).block).ctx p) →
          let s1 := base.modWarp wid (fun w => w.modGroup gid (fun g =>
            { g with wait := some (.issued .translation act { x with b := BitVec.ofNat 64 x.declined.toNat }) }))
          ∀ s2 m2, olderOf (s.warp wid) r = 0 → m ≠ 0 → replayRec s1 wid n (lanesOf (m &&& ~~~x.declined)) = some (s2, m2) →
            ∃ u, exec (.usxonMappingAnswer wid gid ans) s = .next u ∧ u.mem = s2.mem ∧ u.seals = s2.seals ∧
              (d.d = false → d.r.toNat ≠ 0 → ∀ l, hasLane act l → hasLane ((u.warp wid).rf.pred d.r.toNat) l = hasLane m2 l))) ∧
    (∀ (s : State) (wid gid resident : Nat) (g : Sys2Proof.Machine.Group) (act : LMask) (x : Args) (f : Fetched) (i : Instr) (h : Hd) (d : Dv) (a b : Src),
      (s.warp wid).group? gid = some g → g.wait = some (.usxon act x) → g.cur = some f → decodeWord f.word = .ok i → act ≠ 0 →
      svcBefore s x = false → (s.warp wid).place ≠ .ended → (s.block (s.warp wid).block).kill = none → wid < s.warps.length →
      let c := s.ctx (s.block (s.warp wid).block).ctx
      let lch := s.launch (s.block (s.warp wid).block).launch
      let gives := fun (R : Nat → Prop) => ∃ u v, exec (.svcReply wid gid resident) s = .next u ∧ R v ∧
        (d.d = false → ∀ l k, hasLane act l → k < 2 → (u.warp wid).rf.vget (d.r.toNat + k) l = BitVec.ofNat 32 (v / 2 ^ (32 * k)))
      (i = .svcInfo h d a b → gives (fun v =>
        if x.b ≠ 0 then v = 0xFFFFFFFFFFFFFFF1
        else if x.a = 0 then v = Config.usxonVersion.toNat
        else if x.a = 1 then v = c.id
        else if x.a = 2 ∧ c.hostLen = 0 then v = 0xFFFFFFFFFFFFFFF2
        else if x.a = 2 then c.pasid = some v ∨ (c.pasid = none ∧ v = 0xFFFFFFFFFFFFFFF2)
        else if x.a = 3 then v = c.iface
        else if x.a = 4 then v = c.ways * 2 ^ 23
        else if x.a = 5 then v = c.conf.toNat
        else v = 0xFFFFFFFFFFFFFFF1)) ∧
      (i = .svcReside h d a b → gives (fun v =>
        if 2 ^ 30 < x.b.toNat ∨ canonical x.a.toNat = false ∨ apAddr x.a.toNat = true then v = 0xFFFFFFFFFFFFFFF1 else v ≤ x.b.toNat) ∨
        changing s c ((x.a.toNat + x.b.toNat + 65535) / 65536 - x.a.toNat / 65536) x.a.toNat = true) ∧
      (i = .svcNotify h d a b → x.b ≠ 0 → gives (fun v => v = 0xFFFFFFFFFFFFFFF1)) ∧
      (i = .svcNotify h d a b → x.b = 0 → cqRoom s lch.iface lch.queue = false → gives (fun v => v = 0xFFFFFFFFFFFFFFF0)) ∧
      (i = .svcBias h d a b → tdiFixed s c.iface = true → gives (fun v => v = 0xFFFFFFFFFFFFFFF2)) ∧
      (i = .svcBias h d a b → tdiFixed s c.iface = false → (x.b ≠ 1 ∧ x.b ≠ 2) ∨ canonical x.a.toNat = false ∨ findWindow c.win x.a.toNat = none →
        gives (fun v => v = 0xFFFFFFFFFFFFFFF1)) ∧
      (∀ w f, i = .svcBias h d a b → tdiFixed s c.iface = false → x.b = 1 ∨ x.b = 2 → canonical x.a.toNat = true → findWindow c.win x.a.toNat = some w →
        let ia := windowIa (c.win.getD w 0) x.a.toNat
        inHost c ia = false → walk s c.root ia = .leaf f → (biasLeaves s c.id x.b.toNat [(ia, f)]).2 = true → gives (fun v => v = 0)) ∧
      (∀ n, i = .svcUndefined h d n a b → 4 ≤ n.toNat → gives (fun v => v = 0xFFFFFFFFFFFFFFFF))) ∧
    (∀ (s : State) (wid : Nat) (lanes : LMask), wid < s.warps.length → (s.warp wid).thr.length = 32 → (s.ctx (s.block (s.warp wid).block).ctx).dbg ≠ none →
      ∃ u, exec (.debugHalt wid lanes) s = .next u ∧ (u.warp wid).rf = (s.warp wid).rf ∧
        ((s.ctx (s.block (s.warp wid).block).ctx).trace = none → u.mem = s.mem ∧ u.seals = s.seals) ∧
        ∀ l, l < 32 → (u.warp wid).thread l = { (s.warp wid).thread l with
          halt := ((s.warp wid).thread l).halt || hasLane (lanes &&& (s.warp wid).live) l }) ∧
    (∀ (s : State) (wid : Nat) (lanes : LMask), wid < s.warps.length → (s.warp wid).thr.length = 32 →
      ∃ u, exec (.debugRelease wid lanes) s = .next u ∧ u = { s with warps := u.warps } ∧
        u.warp wid = { s.warp wid with thr := (u.warp wid).thr } ∧
        ∀ l, l < 32 → (u.warp wid).thread l = { (s.warp wid).thread l with halt := ((s.warp wid).thread l).halt && !hasLane lanes l })

/-- A free engine passes to the first group that waits. The operation at the head of engine order is performed and its
register freed: an MMA gives every element the accumulator step of its row and column, an MXRUN reads its record, ends
in error where that is malformed and else does one step of it at a time, ACCZ zeroes its tile, ACCRD writes the tile's
rows to the window, ACCWR reads them, and ACCCVT writes them converted. A corrected event on an operand that is being
read has the pass repeated. A fill writes its handle's slots. A handed-out request goes to the engine with the fewest
bytes queued, or is done in error where its record is malformed. A copy takes a granule that it writes whole in one
piece and any other byte by byte, and counts the bytes. A route takes its entries; a claim raises its counter by 1 and
has the slot written, tries the second choice, or drops the entry; a claimed slot gets its header and then its token,
an order that is the model's own (log 39). (07_matrix_and_engine_instructions.md, MMA;
07_matrix_and_engine_instructions.md, MXRUN; 07_matrix_and_engine_instructions.md, Accumulator instructions;
07_matrix_and_engine_instructions.md, The deck; 07_matrix_and_engine_instructions.md, Transfer requests;
17_matrix_and_copy_machinery.md, Rods and the deck; 17_matrix_and_copy_machinery.md, Accumulator twins;
17_matrix_and_copy_machinery.md, The request engine and the copy engines; 17_matrix_and_copy_machinery.md, Route
commands) -/
def Obligations.EngineEvents : Prop :=
  (∀ (s : State) (core : Nat) (o : Owner) (rest : List Owner), (s.core core).owner = none → (s.core core).eng = [] → (s.core core).fifo = o :: rest →
      exec (.engineGrant core) s = .next (s.modCore core (fun k => { k with owner := some o, fifo := rest }))) ∧
    (∀ (s : State) (core : Nat) (e : EngOp), headOp s core e.kind = some e → core < s.cores.length → e.block < s.blocks.length → e.acc < (s.core core).acc.length →
      let k := s.core core
      let b := s.block e.block
      let i : Instr := match e.kind with
        | .mma => .mmaExecute core | .mxrun => .mxrunStep core | .accz => .acczExecute core
        | .accrd => .accrdExecute core | .accwr => .accwrExecute core | .acccvt => .acccvtExecute core
      let o := b.base + e.ads.toNat
      let t := k.acc.getD e.acc default
      let freed := fun (u : State) (err : Bool) => (u.core core).eng = k.eng.tail ∧
        (e.kind ≠ .accz → e.cv < b.cv.length → (u.block e.block).cv.getD e.cv default = { b.cv.getD e.cv default with busy := false, err := err })
      let same := fun (u : State) (j : Nat) => ((u.core core).acc.getD j default).cells = (k.acc.getD j default).cells ∧
        (statWaiters s core = [] → ((u.core core).acc.getD j default).stat = (k.acc.getD j default).stat)
      (e.kind = .mxrun ∨ ∃ u, exec i s = .next u ∧ u.mem = s.mem ∧ u.seals = s.seals ∧ freed u false ∧
        (∀ j, j ≠ e.acc → same u j) ∧
        (e.kind = .mma → (u.core core).scr = k.scr ∧ (k.opc = [] → ∀ r n, r ≤ e.rows → n < 512 →
          let fw := e.fmt.toNat
          let x := scrRead k (b.base + adOff e.ads.toNat + r * adStr e.ads.toNat) (rowBytes (nbits fw 3 0))
          let sc := scrRead k (b.base + adScale e.ads.toNat + 8 * r) 8
          let col := deckColumn k (nbits fw 7 4) (fw.testBit 11) e.hdl.slot n
          cget ((u.core core).acc.getD e.acc default).cells 0 (r * 512 + n) = BitVec.ofNat 32 (macElem fw e.ovw (cget t.cells 0 (r * 512 + n)).toNat
            (elems (nbits fw 3 0) x (if fw.testBit 10 then some sc else none)) (elems (nbits fw 7 4) col.1 col.2)).1)) ∧
        (e.kind = .accz → (u.core core).acc.getD e.acc default = .zero) ∧
        (e.kind = .accrd → same u e.acc ∧ (∀ r n, r ≤ e.rows → n < 512 →
          scrRead (u.core core) (o + 4 * (r * 512 + n)) 4 = (cget t.cells 0 ((e.fmt.toNat + r) * 512 + n)).toNat) ∧
          ∀ a, a < o ∨ o + 2048 * (e.rows + 1) ≤ a → scrGet (u.core core) a = scrGet k a) ∧
        (e.kind = .accwr → (u.core core).scr = k.scr ∧ (statWaiters s core = [] → ((u.core core).acc.getD e.acc default).stat = t.stat) ∧ (∀ r n, r ≤ e.rows → n < 512 →
          cget ((u.core core).acc.getD e.acc default).cells 0 ((e.fmt.toNat + r) * 512 + n) = BitVec.ofNat 32 (scrRead k (o + 4 * (r * 512 + n)) 4)) ∧
          ∀ key, key < e.fmt.toNat * 512 ∨ (e.fmt.toNat + e.rows + 1) * 512 ≤ key →
            cget ((u.core core).acc.getD e.acc default).cells 0 key = cget t.cells 0 key) ∧
        (e.kind = .acccvt → same u e.acc ∧
          let w := tyBits (cwTy e.fmt.toNat) / 8
          (∀ r n, r ≤ e.rows → n < 512 → scrRead (u.core core) (o + w * (r * 512 + n)) w =
            accConv e.fmt.toNat e.rm (cget t.cells 0 ((nbits e.fmt.toNat 15 9 + r) * 512 + n)).toNat % 256 ^ w) ∧
          ∀ a, a < o ∨ o + w * 512 * (e.rows + 1) ≤ a → scrGet (u.core core) a = scrGet k a)) ∧
      (e.kind = .mxrun → e.record = none →
        let r := scrRead k (b.base + e.ads.toNat) 64
        ∃ u, exec i s = .next u ∧ u.mem = s.mem ∧ u.seals = s.seals ∧ (∀ j, same u j) ∧
          (mxOk r = true → (u.core core).eng.head? = some { e with record := some (BitVec.ofNat 512 r) }) ∧ (mxOk r = false → freed u true)) ∧
      (∀ v rows, e.kind = .mxrun → e.record = some v → e.fault = none → mxRows s core e v.toNat = .rows rows →
        let r := v.toNat
        let slot := (e.hdl.slot : Int) + mxSum r e.vec (fun l => sextN (nbits l 53 48) 6)
        let tile := (e.acc + (mxSum r e.vec (fun l => nbits l 56 54)).toNat) % 8
        slotOk e.hdl.fmt e.hdl.scb slot = true →
        fillsBefore k e.seq ((List.range e.hdl.count).map (slot.toNat + ·)) = false →
        ∃ u, exec i s = .next u ∧ u.mem = s.mem ∧ u.seals = s.seals ∧ (u.core core).scr = k.scr ∧
          (∀ j, j ≠ tile → same u j) ∧
          (e.vec + 1 < mxSteps r → (u.core core).eng.head? = some { e with redo := false, vec := e.vec + 1 }) ∧ (mxSteps r ≤ e.vec + 1 → freed u false))) ∧
    (∀ (s : State) (core : Nat), (atWork s core = none → exec (.eccReplay core) s = .next s) ∧
      ∀ e, atWork s core = some e → ∃ n, n ≤ macClocks e.rows e.fmt.toNat ∧ exec (.eccReplay core) s =
        .next ((((if e.redo then (s.modHead core (fun x => { x with redo := false })).count core 26 1 else s).modHead core
          (fun x => { x with redo := true })).count core 24 n).bump)) ∧
    (∀ (s : State) (core idx : Nat) (f : Fill) (src : Nat → Nat), (s.core core).fills[idx]? = some f → fillWaits (s.core core) f = false → core < s.cores.length →
      f.hdl.slot + f.hdl.count ≤ 64 →
      (f.txn = none ∧ src = (fun i => (scrGet (s.core core) ((s.block f.block).base + f.hdl.src.toNat % 2 ^ 21 + i)).toNat) ∨
        ∃ id t, f.txn = some id ∧ (s.warp f.warp).txn? id = some t ∧ (∀ a ∈ t.accs, a.st = .done ∨
          (loadReady s (s.warp f.warp) t a = true ∧ (l1Hit s (s.warp f.warp) t a = true ∨ poisoned s a.place a.n = false))) ∧
          src = fillByte (((((t.accs.foldl (fillRead f.warp t) s).warp f.warp).txn? id).map (·.accs)).getD []) ∧ f.warp < s.warps.length) →
      ∃ u, exec (.deckFillComplete core idx) s = .next u ∧ u.mem = s.mem ∧ u.seals = s.seals ∧ (u.core core).fills = (s.core core).fills.filter (fun x => x != f) ∧
        (∀ n h j, n < 512 → h < f.hdl.count → j < 256 →
          cget (u.core core).deck 0 ((n * 64 + f.hdl.slot + h) * 256 + j) = BitVec.ofNat 8 (deckByte f.hdl.fmt f.hdl.scb src n h j)) ∧
        ∀ key, key / 256 % 64 < f.hdl.slot ∨ f.hdl.slot + f.hdl.count ≤ key / 256 % 64 → cget (u.core core).deck 0 key = cget (s.core core).deck 0 key) ∧
    (∀ (s : State) (core bid : Nat) (id : W32) (rest : List (Nat × W32)) (q : Req), (s.core core).reqq = (bid, id) :: rest → (s.core core).stop = .no → (s.block bid).req? id = some q →
      core < s.cores.length → bid < s.blocks.length →
      let r := q.record.toNat
      let b := s.block bid
      ∃ u, exec (.requestHandoff core) s = .next u ∧ u.mem = s.mem ∧ u.seals = s.seals ∧ (u.core core).reqq = rest ∧
        (recOk b.size r = false → (u.block bid).req? id = some { q with st := .done, outcome := 2, counted := reqUnits r } ∧ u.engines = s.engines) ∧
        (recOk b.size r = true → reqUnits r = 0 → (u.block bid).req? id = some { q with st := .done } ∧ u.engines = s.engines) ∧
        (recOk b.size r = true → reqUnits r ≠ 0 → ∃ e ∈ enginesFor s b r, u.engines = s.engines.modify e (fun js => js ++ [{ core := core, block := bid, req := id }]) ∧
          ∀ e2 ∈ enginesFor s b r, bytesQueued s e < bytesQueued s e2 ∨ (bytesQueued s e = bytesQueued s e2 ∧ e ≤ e2))) ∧
    (∀ (s : State) (e p : Nat) (g : Nat → Nat) (j : Job) (q : Req) (xs : List EByte), nextCopy s e = some (j, q) → reqKind q.record.toNat = 1 →
      j.block < s.blocks.length → q.moved < reqLen q.record.toNat → reqDomain q.record.toNat ≠ .causal → q.cancel = false → q.st ≠ .done →
      let r := q.record.toNat
      let b := s.block j.block
      let o := (reqDst r + q.moved) % 16
      let n := if o = 0 ∧ q.moved + 16 ≤ reqLen r then 16 else 1
      let m := if atGranule q then min (16 - o) (reqLen r - q.moved) else n
      engRefs s b (reqDomain r) (reqSc r) .read (reqSrc r + q.moved) m = (xs, none) →
      engRefs s b (reqDomain r) (reqSc r) .write (reqDst r + q.moved) m = ((List.range m).map (fun i => (Space.global, p + i, g i)), none) →
      ∃ u q2, exec (.copyGranule e) s = .next u ∧
        (∀ i, i < n → memGet u.mem (p + i) = BitVec.ofNat 8 (engGet s b (reqDomain r) (reqSc r) (xs.getD i default))) ∧
        (let k := engSeal s b ((List.range n).map (fun i => (Space.global, p + i, g i)));
          u.seals = k.seals ∧ ∀ l, l < p ∨ p + n ≤ l → memGet u.mem l = memGet k.mem l) ∧
        (u.block j.block).req? j.req = some q2 ∧ q2.count = q.count + n ∧ q2.moved = q.moved + n ∧ q2.counted = q.counted + n ∧
        (q.counted + n = reqUnits r → q2.st = .done)) ∧
    (∀ (s s1 : State) (e x : Nat) (j : Job) (q : Req), nextRoute s e = some (j, q) → staying s j q = false → entriesAt s e < 16 →
      q.entry < reqNent q.record.toNat → j.block < s.blocks.length → readEntry s (s.block j.block) q.record.toNat q.entry = .ok (x, s1) →
      entExpert x 0 < reqNexp q.record.toNat →
      ∃ u, exec (.routeEntry e) s = .next u ∧ u.mem = s.mem ∧ u.seals = s.seals ∧
        (u.block j.block).req? j.req = some { q with entry := q.entry + 1, claims := q.claims ++ [⟨q.entry, 0, entExpert x 0, x, 0, none, 0⟩] }) ∧
    (∀ (s : State) (e idx p : Nat) (g : Nat → Nat) (j : Job) (q : Req) (c : Claim), nextRoute s e = some (j, q) → q.claims[idx]? = some c →
      j.block < s.blocks.length → q.cancel = false → q.st ≠ .done → (staying s j q = false ∨ c.atGranule q.record.toNat = false) →
      let r := q.record.toNat
      let b := s.block j.block
      let d := reqDomain r
      let places := fun (n : Nat) => (List.range n).map (fun i => (Space.global, p + i, g i))
      let size := 16 + 16 * reqToklen r
      (∀ dest s1, c.old = none → readDest s b r c.expert = .ok (dest, s1) → claimTurn s b r (q.claims.take idx) (nbits dest 127 64) = true →
        engRefs s1 (s1.block j.block) .rc (reqSc r) .both (nbits dest 127 64) 4 = (places 4, none) →
        let old := (places 4).foldr (fun x n => engGet s b .rc .device x + 256 * n) 0
        old < 2 ^ 32 - 1 →
        ∃ u, exec (.routeClaimReturn e idx) s = .next u ∧
          memReadN u.mem p 4 = old + 1 ∧ u.seals = (engSeal s b (places 4)).seals ∧
          (∀ l, l < p ∨ p + 4 ≤ l → memGet u.mem l = memGet (engSeal s b (places 4)).mem l) ∧
          (old < nbits dest 143 128 → (u.block j.block).req? j.req = some { q with claims := q.claims.set idx { c with dest := dest, old := some old } }) ∧
          (nbits dest 143 128 ≤ old → c.choice = 1 ∨ entExpert c.ent 1 = 0xFF →
            ∃ q2, (u.block j.block).req? j.req = some q2 ∧ q2.counted = q.counted + 1 ∧ q2.count = q.count + 1) ∧
          (nbits dest 143 128 ≤ old → c.choice ≠ 1 → entExpert c.ent 1 ≠ 0xFF → entExpert c.ent 1 < reqNexp r →
            (u.block j.block).req? j.req = some { q with claims := q.claims.set idx ⟨c.entry, 1, entExpert c.ent 1, c.ent, 0, none, 0⟩ }) ∧
          (nbits dest 143 128 ≤ old → c.choice ≠ 1 → entExpert c.ent 1 ≠ 0xFF → reqNexp r ≤ entExpert c.ent 1 →
            ∃ q2, (u.block j.block).req? j.req = some q2 ∧ q2.st = .done ∧ q2.outcome = 2)) ∧
      (∀ old xs, c.old = some old → c.pos < size → d ≠ .causal →
        let to_ := nbits c.dest 63 0 + old * size + c.pos
        let n := if to_ % 16 = 0 ∧ c.pos + 16 ≤ size then 16 else 1
        let h := min n (16 - c.pos)
        engRefs s b d (reqSc r) .read (reqTok r + entTok c.ent * (16 * reqToklen r) + (c.pos + h - 16)) (n - h) = (xs, none) →
        engRefs s b d (reqSc r) .write to_ n = (places n, none) →
        ∃ u q2, exec (.routeClaimReturn e idx) s = .next u ∧ u.seals = (engSeal s b (places n)).seals ∧
          (∀ l, l < p ∨ p + n ≤ l → memGet u.mem l = memGet (engSeal s b (places n)).mem l) ∧
          (∀ i, i < n → memGet u.mem (p + i) = BitVec.ofNat 8
            (if c.pos + i < 16 then routeHeader s r c.entry c.ent c.choice / 256 ^ (c.pos + i) else engGet s b d (reqSc r) (xs.getD (i - h) default))) ∧
          (u.block j.block).req? j.req = some q2 ∧ q2.count = q.count ∧
          (c.pos + n = size → q2.counted = q.counted + 1) ∧ (c.pos + n ≠ size → q2 = { q with claims := q.claims.set idx { c with pos := c.pos + n } })))

/-- A submission entry is taken in order: a marker, a record, or a malformed entry that ends with MALFORMED. A launch
whose dependences are satisfied is cut into ticket counters, and the cores discard the instruction lines of its image;
it ends at once when empty, and ends with BAD-COUNT when it cannot be cut. A claimed index starts as a block on its
core with its warps at the variant's entry and its registers as preloaded. A cluster starts whole on an aligned group
of cores, the next in turn or, once it is held, any whose resources are free, or its reservation backs off. At a
VPOINT the lanes go on or the block moves, keeping the live registers and the live window, and goes on at the matching
offset. An ended block is counted, a killed one returns its index or counts as killed. A complete launch leaves one
completion entry. A slice that has lasted its time passes to the queue with the least core-time for its weight, a core
is asked to stop, its state is saved when all is at rest, and comes back on a core of the die where it fits.
(10_launch_and_dispatch.md, The launch record; 10_launch_and_dispatch.md, Completion and malformed records;
10_launch_and_dispatch.md, Cutting the grid across dies; 10_launch_and_dispatch.md, Choosing a variant;
10_launch_and_dispatch.md, Gang placement; 10_launch_and_dispatch.md, Block end and relaunch;
10_launch_and_dispatch.md, Queues, classes and budgets; 19_traps_faults_preemption.md, Pre-emption;
19_traps_faults_preemption.md, The save area; 21_host_and_tenants.md, Queues) -/
def Obligations.LaunchEvents : Prop :=
  (∀ (s : State) (i q : Nat), canTake s i q = true → i < s.ifaces.length → q < (s.iface i).queues.length →
      let b := (s.iface i).q q
      (∀ x, headEntry s i q = .error x → exec (.submissionEntryTake i q) s =
        .next (if x.waits then s.hubMeet x else (s.hubMeet x).queueErr i q 2)) ∧
      ∀ e, headEntry s i q = .ok e →
        let op := nbits e 71 64
        let a := nbits e 63 0
        let good := nbits e 511 192 = 0 ∧ nbits e 127 72 = 0 ∧ (op = 1 ∨ op = 2 ∧ a = 0)
        let takes := fun (P : Launch → Prop) => ∃ u l, exec (.submissionEntryTake i q) s = .next u ∧ u.launches = s.launches ++ [l] ∧ u.mem = s.mem ∧ u.seals = s.seals ∧
          ((u.iface i).q q).sqHead = b.sqHead + 1 ∧ l.id = s.launches.length ∧ l.iface = i ∧ l.queue = q ∧ l.tag.toNat = nbits e 191 128 ∧ P l
        (¬ good → takes (fun l => l.st = .ending 1)) ∧
        (good → (s.iface i).tdisp = .error → takes (fun l => l.st = .ending 5)) ∧
        (good → (s.iface i).tdisp ≠ .error → op = 2 → takes (fun l => l.marker = true ∧ l.st = .waiting)) ∧
        (good → (s.iface i).tdisp ≠ .error → op = 1 → b.bound = none → takes (fun l => l.st = .ending 6)) ∧
        (∀ x, good → (s.iface i).tdisp ≠ .error → op = 1 → b.bound = some x →
          ((s.ctx x).dying = true → takes (fun l => l.st = .ending 5)) ∧
          ((s.ctx x).dying = false → a % 256 ≠ 0 → takes (fun l => l.st = .ending 1)) ∧
          ((s.ctx x).dying = false → a % 256 = 0 → hubRead s (s.ctx x) a 512 = .error .miss → takes (fun l => l.st = .ending 6)) ∧
          (∀ r, (s.ctx x).dying = false → a % 256 = 0 → hubRead s (s.ctx x) a 512 = .ok r → takes (fun l => l.marker = false ∧ l.ctx = x ∧
            l.lid = BitVec.ofNat 64 (s.iface i).nextLid ∧ l.record = BitVec.ofNat 4096 r ∧
            (recordFine r = false → l.st = .ending 1) ∧ (recordFine r = true → l.st = .waiting ∨ l.st = .ending 2))))) ∧
    (∀ (s : State) (lid : Nat), lid < s.launches.length → (s.launch lid).id = lid → (s.launch lid).st = .waiting → (s.launch lid).marker = false →
      (s.launch lid).stuck = none →
      depsDone s (s.launch lid) = true →
      let l := s.launch lid
      ∀ g, (l.field 168 168 = 1 ∧ hubRead s (s.ctx l.ctx) (l.field 255 192) 8 = .ok g ∨ l.field 168 168 = 0 ∧ g = l.field 167 128) →
        let cut := g ≠ 0 ∧ g < 2 ^ 40 ∧ cutGrid l g l.csize ≠ none
        ∃ u, exec (.dependencesSatisfied lid) s = .next u ∧ u = { s with launches := u.launches, cores := u.cores } ∧
          (g = 0 → (u.launch lid).st = .ending 0) ∧ (g ≠ 0 → ¬ cut → (u.launch lid).st = .ending 3) ∧
          (cut → (∀ k ∈ u.cores, ∀ h ∈ k.code, h.ctx ≠ l.ctx ∨ h.image ≠ l.image) ∧ (u.launch lid).st = .running ∧ (u.launch lid).count = g ∧ cutGrid l g l.csize = some (u.launch lid).tickets ∧
            (l.field 1023 512 = 0 → ∃ n, 16 * l.csize ∣ n ∧ g ≤ 4 * n ∧ ∀ d, d < 4 →
              ((u.launch lid).tickets.getD d default).lo = min (d * n) g ∧ ((u.launch lid).tickets.getD d default).hi = min ((d + 1) * n) g))) ∧
    (∀ (s : State) (core lid k base : Nat) (idx : List Nat) (ts : List Ticket), core < 64 → s.cores.length = 64 → dispatching s lid false = true →
      (s.launch lid).id = lid → (s.launch lid).tables ≠ none → claim s (s.launch lid) (dieOf core) = some (idx, ts) →
      let l := s.launch lid
      inBudget s l.iface (if (s.core core).ctx.isNone then 1 else 0) = true → canStart s l core = true → firstFit s l core = some (k, base) →
      ((s.core core).ctx = none → ∀ c, c < core → dieOf c = dieOf core → (s.core c).ctx = none → canStart s l c = false) →
      ∃ u, exec (.blockDispatch core lid) s = .next u ∧ u.mem = s.mem ∧ u.seals = s.seals ∧ (u.launch lid).tickets = ts ∧ (u.core core).ctx = some l.ctx ∧
        u.blocks.length = s.blocks.length + 1 ∧ u.warps.length = s.warps.length + l.nwarps ∧
        let b := u.block s.blocks.length
        b.launch = lid ∧ b.index = idx.headD 0 ∧ b.variant = k ∧ b.core = core ∧ b.base = base ∧ b.size = max (l.scrKb k) 1 * 1024 ∧
          b.warps = (List.range l.nwarps).map (s.warps.length + ·) ∧
        ∀ i, i < l.nwarps →
          let w := u.warp (s.warps.length + i)
          w.block = s.blocks.length ∧ w.index = i ∧ w.core = core ∧ w.quad = i % 4 ∧ w.live = BitVec.allOnes 32 ∧ w.rf.alloc = 0 ∧ w.rf.q = [] ∧
          w.rf.fpctl = BitVec.ofNat 32 (l.field 127 96) ∧
          (∃ g, w.groups = [g] ∧ g.mask = BitVec.allOnes 32 ∧ g.startsAt (BitVec.ofNat 64 (l.field 63 0 + l.entryOff k)) = true) ∧
          ∀ n, w.rf.sget n = if n < 16 ∧ l.field (272 + n) (272 + n) = 1 then BitVec.ofNat 64 (l.field (64 * n + 2111) (64 * n + 2048)) else 0) ∧
    (∀ (s s1 : State) (lid die : Nat) (i : Instr) (r : Resv), dispatching s lid true = true → die < 4 → (s.launch lid).id = lid → (s.launch lid).tables ≠ none →
      (i = .clusterReservation lid die ∧ (s.launch lid).resv.any (fun r => r.die == die) = false ∧
          (∃ idx ts, claim s (s.launch lid) die = some (idx, ts) ∧ r = ⟨die, idx, 0, 0, 0, false, groupCores die (s.launch lid).csize 0, s.ctr⟩ ∧
            s1 = (s.modLaunch lid (fun x => { x with tickets := ts })).bump) ∨
        i = .reservationBackoffExpiry lid die ∧ (s.launch lid).resv.find? (fun r => r.die == die) = some r ∧ s1 = s ∧ (r.held = true ∨ r.until_ ≤ s.time)) →
      let l := s.launch lid
      let c := l.csize
      (∀ cores k bases, resvPlace s1 l r = some (cores, k, bases) →
        (∃ g, cores = groupCores r.die c g ∧ (r.held = false → g = r.next)) ∧ groupFit s1 l cores = some (k, bases) ∧
        (∀ x ∈ cores, coreTakes s1 l x = true ∧ coreHeld s1 lid r.die x r.seq = false) ∧
        ∃ u, exec i s = .next u ∧ u.mem = s.mem ∧ u.seals = s.seals ∧
        u.blocks.length = s.blocks.length + r.idx.length ∧ (∀ x ∈ (u.launch lid).resv, x.die ≠ r.die) ∧
        ∀ j x, r.idx[j]? = some x → (u.block (s.blocks.length + j)).index = x ∧ (u.block (s.blocks.length + j)).variant = k ∧
          (u.block (s.blocks.length + j)).core = cores.getD (x % c) 0) ∧
      (resvPlace s1 l r = none → ∃ u r2, exec i s = .next u ∧ u.mem = s.mem ∧ u.seals = s.seals ∧ u.blocks = s.blocks ∧ r2 ∈ (u.launch lid).resv ∧ r2.die = r.die ∧ r2.idx = r.idx ∧
        r2.fails = r.fails + 1 ∧ r2.until_ = s.time + min (250 * 2 ^ (r.fails + 1)) 16000 ∧ (r2.held = true ↔ 8 ≤ r.fails + 1) ∧
        r2.next = if 8 ≤ r.fails + 1 then r.next else (r.next + 1) % (16 / alignOf c))) ∧
    (∀ (s : State) (bid n : Nat), bid < s.blocks.length → (s.block bid).id = bid → (s.block bid).ended = false → (s.block bid).saved = false → (s.block bid).kill = none →
      (s.block bid).vp = .opened n → vpArrived s (s.block bid) n = true → vpJoined s (s.block bid) = true →
      let b := s.block bid
      let waits := (s.launch b.launch).level 3 ≠ none ∨ (s.core b.core).stop ≠ .no
      (waits → exec (.vpointJoinsDone bid) s = .next (s.modBlock bid (fun b => { b with vp := .joinsDone n }))) ∧
      (¬ waits → ∃ u, exec (.vpointJoinsDone bid) s = .next u ∧ u.mem = s.mem ∧ u.seals = s.seals ∧
        (∀ k base, decideMove s b n = some (k, base) → u = s.modBlock bid (fun b => { b with vp := .moving n k base })) ∧
        (decideMove s b n = none → (u.block bid).vp = .none ∧ ∀ x l pc, x ∈ b.warps → b.warps.Nodup → x < s.warps.length → (s.warp x).thr.length = 32 →
          (s.warp x).Named → hasLane (s.warp x).live l → ((s.warp x).thread l).st = .atVpoint n pc → (u.warp x).standsAt l (pc + 12)))) ∧
    (∀ (s : State) (bid n k base : Nat) (e : BitVec 512), bid < s.blocks.length → (s.block bid).vp = .moving n k base → (s.block bid).kill = none →
      let b := s.block bid
      let l := s.launch b.launch
      (switchEntry l b.variant n = some e → b.core < s.cores.length → b.warps.Nodup → ∃ u, exec (.variantMove bid) s = .next u ∧ u.mem = s.mem ∧ u.seals = s.seals ∧
        (u.block bid).vp = .moved n b.variant ∧ (u.block bid).variant = k ∧ (u.block bid).base = base ∧ (u.block bid).size = l.winBytes k ∧
        (∀ i, i < swLen e → scrGet (u.core b.core) (base + swOff e + i) = scrGet (s.core b.core) (b.base + swOff e + i)) ∧
        ∀ x ∈ b.warps, x < s.warps.length → (u.warp x).rf.alloc = (s.warp x).rf.alloc &&& swLive e ∧
          ∀ r y, r < 256 → y < 32 → (s.warp x).rf.has r = true → (swLive e).getLsbD r = true → (u.warp x).rf.vget r y = (s.warp x).rf.vget r y)) ∧
    (∀ (s : State) (bid n old : Nat) (e : BitVec 512), bid < s.blocks.length → (s.block bid).vp = .moved n old → (s.block bid).kill = none →
      let b := s.block bid
      let l := s.launch b.launch
      (switchEntry l b.variant n = some e → ∃ u, exec (.variantMoveComplete bid) s = .next u ∧ (u.block bid).vp = .none ∧
        ((s.ctx b.ctx).trace = none → u.mem = s.mem ∧ u.seals = s.seals) ∧
        ∀ x y pc, x ∈ b.warps → b.warps.Nodup → x < s.warps.length → (s.warp x).thr.length = 32 → (s.warp x).Named → hasLane (s.warp x).live y →
          ((s.warp x).thread y).st = .atVpoint n pc → (u.warp x).standsAt y (BitVec.ofNat 64 (l.field 63 0 + swMatch e)))) ∧
    (∀ (s : State) (bid : Nat), bid < s.blocks.length → (s.block bid).id = bid → (s.block bid).ended = false → (s.block bid).saved = false →
      (s.block bid).launch < s.launches.length → (s.block bid).core < s.cores.length →
      let b := s.block bid
      ((b.kill = none → warpsDone s b = true → vpJoined s b = true → (∀ f ∈ (s.core b.core).fills, f.block ≠ bid) → ∃ u, exec (.blockEnd bid) s = .next u ∧
        (u.block bid).ended = true ∧ (u.launch b.launch).ended = (s.launch b.launch).ended + 1 ∧ (u.launch b.launch).killed = (s.launch b.launch).killed ∧
        ∀ o, (u.core b.core).owner = some o → o.block ≠ bid)) ∧
      (∀ k q, b.kill = some k → killQuiet s b = true → q ∈ b.reqs → q.st = .running → atGranule q = false → ∃ u, exec (.blockKill bid) s = .next u ∧
        (u.block bid).ended = false) ∧
      (∀ k, b.kill = some k → killQuiet s b = true → (∀ q ∈ b.reqs, q.st = .running → atGranule q = true) → ∃ u, exec (.blockKill bid) s = .next u ∧ (u.block bid).ended = true ∧
        (∀ x ∈ b.warps, x < s.warps.length → (u.warp x).live = 0 ∧ (u.warp x).place = .ended) ∧ (∀ o, (u.core b.core).owner = some o → o.block ≠ bid) ∧
        u.log = .kill k.code bid :: s.log ∧
        let l := s.launch b.launch
        let again := l.st = .running ∧ l.field 71 71 = 1 ∧ cget l.tries 0 b.index < l.field 75 72
        (again → (u.launch b.launch).ended = l.ended ∧ cget (u.launch b.launch).tries 0 b.index = cget l.tries 0 b.index + 1 ∧
          (dieOf b.core < l.tickets.length → ((u.launch b.launch).tickets.getD (dieOf b.core) default).front.head? = some b.index)) ∧
        (¬ again → (u.launch b.launch).ended = l.ended + 1 ∧ (u.launch b.launch).killed = l.killed + 1))) ∧
    (∀ (s : State) (lid k p : Nat), lid < s.launches.length → (s.launch lid).stuck = none → finalStatus s (s.launch lid) = some k → (s.launch lid).field 3135 3072 = 0 →
      (∀ c ∈ s.ctxs, c.dying = false) → (∀ x ∈ s.ifaces, x.flr = false) → (s.launch lid).iface < s.ifaces.length →
      (s.launch lid).queue < (s.iface (s.launch lid).iface).queues.length → k < 256 →
      let l := s.launch lid
      let b := (s.iface l.iface).q l.queue
      (∀ j, j < 32 → hubHost s l.iface (some b.pasid.toNat) true (b.cqBase.toNat + b.cqTail.toNat % 2 ^ b.cqLog.toNat * 32 + j) = .loc (p + j)) →
      ∃ u, exec (.launchComplete lid) s = .next u ∧ (u.launch lid).st = .complete k ∧ ((u.iface l.iface).q l.queue).cqTail = b.cqTail + 1 ∧
        (u.iface l.iface).irq = (s.iface l.iface).irq ++ (if (s.iface l.iface).vecs.getLsbD l.queue then [l.queue] else []) ∧
        memReadN u.mem p 8 = (if l.marker then 0 else l.lid.toNat) ∧ memReadN u.mem (p + 8) 8 = l.tag.toNat ∧ memReadN u.mem (p + 16) 1 = k ∧
        memReadN u.mem (p + 17) 1 = 1 - b.cqTail.toNat / 2 ^ b.cqLog.toNat % 2 ∧ memReadN u.mem (p + 20) 4 = l.killed % 2 ^ 32 ∧
        ∀ x, x < p ∨ p + 32 ≤ x → memGet u.mem x = memGet s.mem x) ∧
    (∀ (s : State) (i q j : Nat), nextSlice s i q = some j → sliceOver s i q j = true →
      i < s.ifaces.length → (s.iface i).queues.length = 16 → q < 16 →
      ∃ u, exec (.sliceExpiry i q) s = .next u ∧ u = { s with ifaces := u.ifaces, cores := u.cores } ∧ j ≠ q ∧ ((u.iface i).q q).slice = 0 ∧
        ((u.iface i).q j).slice = s.time + 1) ∧
    (∀ (s : State) (core x : Nat), (s.core core).ctx = some x →
      ((s.core core).stop = .no → exec (.preemptStopRequest core) s = .next (s.modCore core (fun k => { k with stop := .stopping, stopClock := k.clock }))) ∧
      (saveReady s core = true → core < s.cores.length → (s.ctx x).trace = none → ∃ u v, exec (.preemptSaveComplete core) s = .next u ∧ u.saves = s.saves ++ [v] ∧
        u.mem = s.mem ∧ u.seals = s.seals ∧ v.core = core ∧ v.ctx = x ∧ v.tiles = (s.core core).acc ∧ v.owner = (s.core core).owner ∧ v.clock = (s.core core).stopClock ∧
        v.eng.map (fun e => { e with redo := false }) = (s.core core).eng.map (fun e => { e with redo := false }) ∧
        v.blocks = (s.blocks.filter (fun b => b.core == core && !b.ended && !b.saved)).map (·.id) ∧
        v.counter = cget s.saveCtr 0 (64 * x + core) + 1 ∧ cget u.saveCtr 0 (64 * x + core) = v.counter ∧ (u.core core).ctx = none ∧
        ∀ j, j < s.blocks.length → (s.block j).id = j → (s.block j).core = core → (s.block j).ended = false → (s.block j).saved = false → (u.block j).saved = true)) ∧
    (∀ (s : State) (n core : Nat) (v : Save), s.saves[n]? = some v → core < 64 → s.cores.length = 64 → s.boot = .up → dieOf core = dieOf v.core →
      restorable s v core = true → v.blocks.any (fun i => sliceDenied s (s.launch (s.block i).launch)) = false →
      let k := s.core core
      let stale := (s.ctx v.ctx).conf = true ∧ (v.counter ≠ cget s.saveCtr 0 (64 * v.ctx + v.core) ∨ Config.tagHolds s.ctr = false)
      (stale → ∃ u, exec (.restore n core) s = .next u ∧ ∀ j, j < s.launches.length → (s.launch j).ctx = v.ctx → (s.launch j).isDone = false →
        (u.launch j).st = .ending 5) ∧
      (¬ stale → ∃ u, exec (.restore n core) s = .next u ∧ u.saves = s.saves.eraseIdx n ∧ (u.core core).ctx = some v.ctx ∧
        (k.ctx = none ∨ v.engine = true → (u.core core).acc = v.tiles) ∧
        (k.parity = false → (u.core core).owner = v.owner.or k.owner ∧ (u.core core).eng = k.eng ++ v.eng) ∧ ((s.ctx v.ctx).trace = none → u.mem = s.mem ∧ u.seals = s.seals) ∧
        ∀ j ∈ v.blocks, j < s.blocks.length → (s.block j).id = j → (u.block j).core = core ∧ (u.block j).saved = false))

/-- A doorbell in range moves SQTAIL and one out of range sets ERR 1. CQHEAD is written, EN starts a queue or sets ERR 4
on bad rings, and configuration fields are written only while EN is 0; the MSI-X table enables a vector or disables
it, and other offsets ignore writes. GO starts a command of an idle mailbox, or answers 1 for an unknown code and 3
for one of the physical function's. Each command with good arguments has its effect and answers STATUS 0: a context
with an empty page table, its destruction, by its own interface or the physical function, a window, a binding, a bias,
a session, the streams, budgets and queue limits, and copies of accounts and save areas; bad arguments answer 2. A
finished command clears BUSY and raises vector 16 where it is enabled. A function-level reset aborts the interface's
launches and resets its queues once nothing is left. (21_host_and_tenants.md, Queues; 21_host_and_tenants.md, The
mailbox; 21_host_and_tenants.md, Interfaces; 21_host_and_tenants.md, Contexts, PASIDs and bias;
12_slot_accounts_and_trace.md, Accounts; 19_traps_faults_preemption.md, The save area) -/
def Obligations.QueueAndMailboxEvents : Prop :=
  (∀ (s : State) (i q : Nat) (b : QBlk), hears s i = true → q < 16 → b = (s.iface i).q q →
      (∀ t : W32, 0 ≤ (t - b.sqHead).toInt ∧ (t - b.sqHead).toInt ≤ 2 ^ b.sqLog.toNat → exec (.sqDoorbell i q t) s = .next (s.modQ i q (fun b => { b with sqTail := t }))) ∧
      (∀ t : W32, ¬ (0 ≤ (t - b.sqHead).toInt ∧ (t - b.sqHead).toInt ≤ 2 ^ b.sqLog.toNat) →
        exec (.sqDoorbell i q t) s = .next (s.modQ i q (fun b => { b with err := true, errCode := 1 }))) ∧
      (∀ t, exec (.cqheadWrite i q t) s = .next (s.modQ i q (fun b => { b with cqHead := t }))) ∧
      (b.en = false → i < s.ifaces.length → q < (s.iface i).queues.length → ∃ u, exec (.queueEnable i q) s = .next u ∧ ((u.iface i).q q).en = true ∧
        let good := 4 ≤ b.sqLog.toNat ∧ 4 ≤ b.cqLog.toNat ∧ b.sqBase.toNat % 4096 = 0 ∧ b.cqBase.toNat % 4096 = 0
        (good → ((u.iface i).q q).err = b.err) ∧ (¬ good → ((u.iface i).q q).err = true ∧ ((u.iface i).q q).errCode = 4)) ∧
      (∀ v, exec (.queueRegisterWrite i q .disable v) s = .next (s.modQ i q (fun b => { b with en := false, stuck := none }))) ∧
      (∀ n v, exec (.queueRegisterWrite i q (.other n) v) s = .next s ∧ exec (.queueRegisterWrite i q (.vector n) v) s =
        .next (s.modIface i (fun x => { x with vecs := if v.getLsbD 0 then x.vecs ||| BitVec.ofNat 48 (2 ^ n) else x.vecs &&& ~~~BitVec.ofNat 48 (2 ^ n) }))) ∧
      (∀ f v, f ∈ [.sqBase, .cqBase, .pasid, .sqLog, .cqLog] → b.en = true → exec (.queueRegisterWrite i q f v) s = .next s) ∧
      (∀ f v, f ∈ [.sqBase, .cqBase, .pasid, .sqLog, .cqLog] → b.en = false → i < s.ifaces.length → q < (s.iface i).queues.length → ∃ u, exec (.queueRegisterWrite i q f v) s = .next u ∧
        u = { s with ifaces := u.ifaces } ∧
        let x := (u.iface i).q q
        x.err = false ∧ (f = .sqBase → x.sqBase = v) ∧ (f = .cqBase → x.cqBase = v) ∧ (f = .pasid → x.pasid = v.setWidth 20) ∧
          (f = .sqLog → x.sqLog = v.setWidth 4) ∧ (f = .cqLog → x.cqLog = v.setWidth 4))) ∧
    (∀ (s : State) (i : Nat) (cmd : BitVec 16) (a0 a1 a2 : W64), hears s i = true → (s.iface i).busy = false → i < s.ifaces.length →
      ∃ u, exec (.mailboxGo i cmd a0 a1 a2) s = .next u ∧ (u.iface i).busy = true ∧ (u.iface i).cmd = cmd ∧ (u.iface i).args = [a0, a1, a2] ∧
        let known := cmd.toNat ∈ [0x01, 0x02, 0x03, 0x04, 0x05, 0x06, 0x07, 0x08, 0x40, 0x41, 0x42, 0x43]
        (¬ known → (u.iface i).status = 1 ∧ (u.iface i).ran = true) ∧
        (known → 0x40 ≤ cmd.toNat → i ≠ 0 → (u.iface i).status = 3 ∧ (u.iface i).ran = true) ∧
        (known → cmd.toNat < 0x40 ∨ i = 0 → tdiFixed s i = false → (u.iface i).ran = false)) ∧
    (∀ (s : State) (i : Nat), (s.iface i).busy = true → (s.iface i).ran = true → i < s.ifaces.length → ∃ u, exec (.mailboxCommandComplete i) s = .next u ∧
      u = { s with ifaces := u.ifaces } ∧ u.iface i = { s.iface i with busy := false, ran := false, irq := (s.iface i).irq ++ (if (s.iface i).vecs.getLsbD 16 then [16] else []) }) ∧
    (∀ (s : State) (i : Nat) (a0 a1 a2 : W64), s.boot = .up → i < 64 → s.ifaces.length = 64 → (s.iface i).busy = true → (s.iface i).ran = false →
      (s.iface i).args = [a0, a1, a2] → (∀ x ∈ s.ifaces, x.flr = false) →
      let answers := fun (e : Instr) (k : Nat) (P : State → Prop) => ∃ u, exec e s = .next u ∧ (u.iface i).status = k ∧ (u.iface i).ran = true ∧ P u
      let code := (s.iface i).cmd
      let a := a0.toNat
      let x := nbits a 31 0
      (code = 0x01 → ∀ root devBase devLen hostBase,
        let e : Instr := .ctxCreate i root devBase devLen hostBase
        (32 ≤ a ∨ 8 < nbits a 4 1 → answers e 2 (fun u => u.ctxs = s.ctxs)) ∧
        (a < 32 → nbits a 4 1 ≤ 8 → a1 = 0xFFFFFFFF → nbits a 0 0 = 0 → ((s.ctxs.filter (·.alive)).map (·.ways)).sum + nbits a 4 1 ≤ 8 →
          root % 65536 = 0 → root + 65536 ≤ Config.deviceBytes → devBase % 65536 = 0 → devLen % 65536 = 0 → devLen ≠ 0 → spanFree (usedSpans s) devBase devLen = true →
          answers e 0 (fun u => (∃ c, u.ctxs = s.ctxs ++ [c] ∧ c.id = s.ctxs.length + 1 ∧ c.iface = i ∧ c.alive = true ∧ c.ways = nbits a 4 1 ∧ c.root = root ∧
              c.devBase = devBase ∧ c.devLen = devLen ∧ c.hostLen = 0 ∧ c.conf = false ∧ c.win = List.replicate 8 0 ∧ c.acct = [] ∧ c.cnt = []) ∧
            (u.iface i).reply = BitVec.ofNat 64 (s.ctxs.length + 1) ∧ (∀ l, root ≤ l → l < root + 65536 → memGet u.mem l = 0) ∧
            ∀ l, l < root ∨ root + 65536 ≤ l → memGet u.mem l = memGet s.mem l))) ∧
      (code = 0x02 →
        (a = 0 ∨ s.ctxs.length < a ∨ ((s.ctx a).iface ≠ i ∧ i ≠ 0) ∨ (s.ctx a).alive = false → answers (.ctxDestroy i) 2 (fun u => u.ctxs = s.ctxs)) ∧
        (a ≠ 0 → a ≤ s.ctxs.length → (s.ctx a).iface = i ∨ i = 0 → (s.ctx a).alive = true → (s.ctx a).id = a → (∀ l ∈ s.launches, l.ctx = a → l.isDone = true) →
          answers (.ctxDestroy i) 0 (fun u => (u.ctx a).alive = false ∧ (u.ctx a).win = List.replicate 8 0 ∧ (∀ v ∈ u.saves, v.ctx ≠ a)))) ∧
      (code = 0x03 →
        let w := BitVec.ofNat 128 (a1.toNat + a2.toNat * 2 ^ 64)
        let fits := match windowSpan w with | some (lo, hi) => hi ≤ 2 ^ 56 ∧ inRanges (s.ctx x) lo (hi - 1) = true | none => True
        let good := a < 2 ^ 35 ∧ ownCtx s i x = true ∧ w.getLsbD 127 = false ∧ fits
        (¬ good → answers (.windowSet i) 2 (fun u => u.ctxs = s.ctxs)) ∧
        (good → (∀ k, k < 64 → (s.core k).ctx ≠ some x) → nbits a 34 32 < (s.ctx x).win.length → answers (.windowSet i) 0 (fun u =>
          (u.ctx x).win = (s.ctx x).win.set (nbits a 34 32) w ∧ u.mem = s.mem ∧ u.seals = s.seals)) ∧
        (good → ∀ k, k < 64 → (s.core k).ctx = some x → (s.core k).stop = .no → s.cores.length = 64 → ∃ u, exec (.windowSet i) s = .next u ∧ (u.core k).stop = .stopping)) ∧
      (code = 0x04 →
        (16 ≤ a ∨ ownCtx s i a1.toNat = false → answers (.queueBind i) 2 (fun _ => True)) ∧
        (a < 16 → ownCtx s i a1.toNat = true → ((s.iface i).q a).en = true → answers (.queueBind i) 3 (fun _ => True)) ∧
        (a < 16 → ownCtx s i a1.toNat = true → ((s.iface i).q a).en = false → (s.iface i).queues.length = 16 →
          answers (.queueBind i) 0 (fun u => ((u.iface i).q a).bound = some a1.toNat))) ∧
      (code = 0x05 →
        (a % 65536 ≠ 0 ∨ a1.toNat % 65536 ≠ 0 ∨ 2 < a2.toNat ∨ canonical a = false → answers (.biasSet i) 2 (fun u => u.mem = s.mem ∧ u.seals = s.seals)) ∧
        (∀ c fs, a % 65536 = 0 → a1.toNat % 65536 = 0 → a2.toNat ≤ 2 → canonical a = true → ctxOfVa s i a = some c →
          biasPages s c (a1.toNat / 65536) a (a + a1.toNat) = .ok fs →
          ((biasLeaves s c a2.toNat fs).2 = false → exec (.biasSet i) s = .next (biasLeaves s c a2.toNat fs).1) ∧
          ((biasLeaves s c a2.toNat fs).2 = true →
            answers (.biasSet i) 0 (fun u => u.mem = (biasLeaves s c a2.toNat fs).1.mem ∧ u.seals = s.seals ∧ (u.iface i).reply = BitVec.ofNat 64 fs.length)))) ∧
      (code = 0x06 →
        (ownCtx s i a = false → answers (.debugAttach i) 2 (fun u => u.ctxs = s.ctxs)) ∧
        (ownCtx s i a = true → a1 = 0 → answers (.debugAttach i) 0 (fun u => (u.ctx a).dbg = none)) ∧
        (∀ m, ownCtx s i a = true → a1 ≠ 0 → hostRead s i (mailPasid i (s.ctx a)) a1.toNat 8192 = .ok m → answers (.debugAttach i) 0 (fun u => (u.ctx a).dbg = some m))) ∧
      (code = 0x07 →
        let k := nbits a 39 32
        let m := nbits a 44 40
        let fine := fun (va : Nat) => va = 0 ∨ (12 ≤ m ∧ m ≤ 30 ∧ canonical va = true ∧ ∃ n, findWindow (s.ctx x).win va = some n ∧
          inHost (s.ctx x) (windowIa ((s.ctx x).win.getD n 0) va) = false)
        let good := a < 2 ^ 45 ∧ ownCtx s i x = true ∧ fine a1.toNat ∧ fine a2.toNat ∧ (a1 ≠ 0 → 12 ≤ k ∧ k ≤ 24)
        (¬ good → answers (.traceSet i) 2 (fun u => u.ctxs = s.ctxs)) ∧
        (good → answers (.traceSet i) 0 (fun u => (a1 = 0 → (u.ctx x).series = none) ∧ (a1 ≠ 0 → (u.ctx x).series = some ⟨a1.toNat, m, k⟩) ∧
          (a2 = 0 → (u.ctx x).trace = none) ∧ (a2 ≠ 0 → (u.ctx x).trace = some ⟨a2.toNat, m, k⟩)))) ∧
      (code = 0x08 →
        (ownCtx s i a = false → answers (.acctRead i) 2 (fun u => u.mem = s.mem ∧ u.seals = s.seals)) ∧
        (∀ s1, ownCtx s i a = true → hostWrite s i (mailPasid i (s.ctx a)) a1.toNat (acctBytes (s.ctx a).acct (s.ctx a).cnt) = .ok s1 →
          answers (.acctRead i) 0 (fun u => u.mem = s1.mem ∧ u.seals = s1.seals))) ∧
      (code = 0x43 →
        (∀ s1, a = 0 → hostWrite s i none a1.toNat (acctBytes s.idle []) = .ok s1 → answers (.acctAny i) 0 (fun u => u.mem = s1.mem ∧ u.seals = s1.seals)) ∧
        (∀ s1, a ≠ 0 → a ≤ s.ctxs.length → (s.ctx a).alive = true → hostWrite s i none a1.toNat (acctBytes (s.ctx a).acct (s.ctx a).cnt) = .ok s1 →
          answers (.acctAny i) 0 (fun u => u.mem = s1.mem ∧ u.seals = s1.seals)) ∧
        (a ≠ 0 → s.ctxs.length < a ∨ (s.ctx a).alive = false → answers (.acctAny i) 2 (fun u => u.mem = s.mem ∧ u.seals = s.seals))) ∧
      (code = 0x40 →
        let good := a < 64 ∧ nbits a1.toNat 6 0 ≤ 64 ∧ nbits a1.toNat 27 16 ≤ 3600 ∧
          a1.toNat = nbits a1.toNat 6 0 + nbits a1.toNat 27 16 * 2 ^ 16 + nbits a1.toNat 33 32 * 2 ^ 32 ∧ a2.toNat < 65536
        (good → answers (.vfBudget i) 0 (fun u => (u.iface a).cores = nbits a1.toNat 6 0 ∧ (u.iface a).power = nbits a1.toNat 27 16 ∧ (u.iface a).bw = a2.toNat ∧
          (a ≠ 0 → (u.iface a).grants = BitVec.ofNat 2 (nbits a1.toNat 33 32)))) ∧
        (¬ good → answers (.vfBudget i) 2 (fun _ => True))) ∧
      (code = 0x41 →
        let good := x < 64 ∧ a < 2 ^ 36 ∧ a1.toNat < 2 ^ 10
        (good → (s.iface x).queues.length = 16 → answers (.vfQueue i) 0 (fun u => ((u.iface x).q (nbits a 35 32)).weight = nbits a1.toNat 7 0 ∧
          ((u.iface x).q (nbits a 35 32)).clsLim = nbits a1.toNat 9 8)) ∧
        (¬ good → answers (.vfQueue i) 2 (fun _ => True))) ∧
      (code = 0x42 →
        (s.saves.find? (fun v => v.ctx == x && v.core == nbits a 37 32) = none → answers (.saveRead i) 2 (fun u => u.mem = s.mem ∧ u.seals = s.seals)) ∧
        ∀ v s1, s.saves.find? (fun v => v.ctx == x && v.core == nbits a 37 32) = some v → a < 2 ^ 38 →
          hostWrite s i none a1.toNat (saveBytes s v (min a2.toNat (saveLayout s v).2.2)) = .ok s1 →
          answers (.saveRead i) 0 (fun u => u.mem = s1.mem ∧ u.seals = s1.seals ∧ (u.iface i).reply = BitVec.ofNat 64 (saveLayout s v).2.2))) ∧
    (∀ (s : State) (i : Nat), i ≠ 0 → i < 64 → s.ifaces.length = 64 → s.boot = .up → ∃ u, exec (.functionLevelReset i) s = .next u ∧
      (∀ j, j < s.launches.length → (s.launch j).iface = i → (s.launch j).isDone = false → (u.launch j).st = .ending 5) ∧
      ((∀ c ∈ s.ctxs, c.iface = i → c.alive = false) → (∀ l ∈ s.launches, l.iface = i → l.isDone = true) →
        (u.iface i).queues = List.replicate 16 .reset ∧ (u.iface i).flr = false ∧ (u.iface i).busy = false))

/-- A configuration write to a locked or running interface makes it ERROR and aborts its launches. TDISP requests lock,
start and stop a virtual function. A measurement block of 1 to 67 is returned, with the configuration that its
interface was locked with. Configuration requests are completed from bring-up step 2 on and answered with a retry
before. The host's write to a shared page is performed, and one to a device-only page is dropped and logged; a write
to its own memory takes the line from the die caches. Both are performed where no core holds the line under a release.
A granule of a confidential context's device range is encrypted with the context's key and the granule's intermediate
address: it reads back as written, under another key or address as a free value (log 96), and a write keeps what the
rest of the granule reads as. (21_host_and_tenants.md, Confidential contexts; 21_host_and_tenants.md, The two links;
21_host_and_tenants.md, Contexts, PASIDs and bias; 23_dies_fabric_package.md, Bring-up) -/
def Obligations.HostAndDeviceEvents : Prop :=
  (∀ (s : State) (i : Nat), i ≠ 0 → i < 64 → s.ifaces.length = 64 → s.boot = .up → (∀ x ∈ s.ifaces, x.flr = false) →
      (tdiFixed s i = true → ∃ u, exec (.tdiConfigWrite i) s = .next u ∧ (u.iface i).tdisp = .error ∧
        ∀ j, j < s.launches.length → (s.launch j).iface = i → (s.launch j).isDone = false → (u.launch j).st = .ending 5) ∧
      (tdiFixed s i = false → exec (.tdiConfigWrite i) s = .next s) ∧
      ((s.iface i).tdisp = .unlocked → exec (.tdispRequest i .lock) s = .next (s.modIface i (fun x => { x with tdisp := .locked, locked := some (tdiOf s i) }))) ∧
      (∀ n, n < 8 → (s.iface i).tdisp = .locked → exec (.tdispRequest i (.start n)) s = .next (s.modIface i (fun x => { x with tdisp := .run, stream := some n }))) ∧
      ((s.iface i).tdisp ≠ .error → exec (.tdispRequest i .stop) s = .next (s.modIface i (fun x => { x with tdisp := .unlocked, stream := none, locked := none }))) ∧
      ((s.iface i).tdisp = .error → ∀ r, exec (.tdispRequest i r) s = .next s)) ∧
    (∀ (s : State), let up := s.boot = .up ∨ ∃ n, s.boot = .steps n ∧ 2 ≤ n
      (∀ k, up → 1 ≤ k → k ≤ 67 → exec (.spdmRequest k) s = .next { s with spdm := ⟨k, if 5 ≤ k then (s.iface (k - 4)).locked else none, s.ctr⟩ :: s.spdm, ctr := s.ctr + 1 }) ∧
      (up → exec (.configurationRequest 0) s = .next { s with log := .error 0x210 0 :: s.log }) ∧
      (¬ up → s.boot ≠ .off → s.boot ≠ .shutdown → exec (.configurationRequest 0) s = .next { s with log := .error 0x211 0 :: s.log })) ∧
    (∀ (s : State) (pa : Nat) (stream : Option Nat) (bs : List Byte), s.boot = .up → pa < Config.deviceBytes →
      (hostBias s pa stream = 0 → ∀ acc, exec (.hostCxlMemAccess pa ⟨stream, acc⟩) s = .next { s with log := .error 0x220 pa :: s.log }) ∧
      (hostBias s pa stream ≠ 0 → heldElsewhere s none pa 1 = false →
        (dirOk s pa false = true → exec (.hostCxlMemAccess pa ⟨stream, .read⟩) s = .next s) ∧
        (dirOk s pa true = true → pa % 64 + bs.length ≤ 64 → ∃ u, exec (.hostCxlMemAccess pa ⟨stream, .write bs⟩) s = .next u ∧
          (∀ k, k < bs.length → memGet u.mem (pa + k) = bs.getD k 0) ∧
          (let k := resealN s (pageSeal s pa) pa bs.length;
            u.seals = k.seals ∧ ∀ l, l < pa ∨ pa + bs.length ≤ l → memGet u.mem l = memGet k.mem l) ∧
          (bs.length = 64 → pa % 64 = 0 → cget u.poison false (pa / 64) = false)))) ∧
    (∀ (s : State) (a : Nat) (bs : List Byte), s.boot ≠ .up ∨ heldElsewhere s none (hostBase + a) 1 = false → exec (.hostSnoop a .read) s = .next s ∧
      (a + bs.length < 2 ^ 60 → a % 128 + bs.length ≤ 128 → ∃ u, exec (.hostSnoop a (.write bs)) s = .next u ∧
        (∀ k, k < bs.length → memGet u.mem (hostBase + a + k) = bs.getD k 0) ∧
        (∀ l, l < hostBase + a ∨ hostBase + a + bs.length ≤ l → memGet u.mem l = memGet s.mem l) ∧ u.seals = s.seals ∧
        (s.boot = .up → ∀ d ∈ u.dies, ∀ e ∈ d.ats, (e.r = true ∨ e.w = true) → e.frame = a / 4096 → ∀ l ∈ d.l2.lines, l.line ≠ (e.page * 4096 + a % 4096) / 128))) ∧
    (∀ (s : State) (c ia l c2 ia2 l2 : Nat),
      (sealOf s c ia l ≠ 0 ↔ (s.ctx c).conf = true ∧ l < Config.deviceBytes ∧ (s.ctx c).devBase ≤ ia ∧ ia < (s.ctx c).devBase + (s.ctx c).devLen) ∧
      (sealOf s c ia l ≠ 0 → sealOf s c2 ia2 l2 ≠ 0 → ia < 2 ^ 56 → ia2 < 2 ^ 56 →
        (sealOf s c ia l = sealOf s c2 ia2 l2 ↔ c = c2 ∧ ia / 64 = ia2 / 64))) ∧
    (∀ (s : State) (x l n v : Nat),
      seenN (sealWriteN s x l n v) x l n = v % 256 ^ n ∧
      (∀ k, memGet (reseal s x l).mem k = if k / 64 = l / 64 then seenByte s x k else memGet s.mem k) ∧
      (∀ k, sealAt (reseal s x l) k = if k / 64 = l / 64 then x else sealAt s k) ∧
      (sealAt s l ≠ x → seenByte s x l = Config.recrypt (sealAt s l) x (memReadN s.mem (l / 64 * 64) 64) (l % 64)))

/-- Detected poison marks its granule, errors in a block's state or in a core's control end its blocks, and one in the hub
aborts every launch; corrected errors and scrubs are logged. The trigger latches every core's accounts and counters at
its time, and a tick, once at its time, moves the sequence on. A peer becomes a sharer, an owner, or writes back; a
granted peer line comes in with its bytes and a Modified one leaves. A failed plane's entries go to a live plane.
Clock points are taken, a thermal limit sets the lowest and a shutdown or power removal loses the state. Each event of
bring-up completes one step, an image that is not accepted none; the last opens the mailbox. Budget windows are
measured against the interface's budgets. (23_dies_fabric_package.md, Peer lines and the directory;
23_dies_fabric_package.md, Ports and switch planes; 23_dies_fabric_package.md, Power; 23_dies_fabric_package.md, Soft
errors; 23_dies_fabric_package.md, Bring-up; 12_slot_accounts_and_trace.md, The global trigger;
12_slot_accounts_and_trace.md, The time-series stream; 19_traps_faults_preemption.md, Containment;
10_launch_and_dispatch.md, Queues, classes and budgets) -/
def Obligations.PlatformEvents : Prop :=
  (∀ (s : State) (a : Nat), a < Config.deviceBytes → exec (.poisonDetect a) s = .next { s with poison := cset s.poison false (a / 64) true }) ∧
    (∀ (s : State) (b : Nat), b < s.blocks.length → (s.block b).ended = false → (s.launch (s.block b).launch).level 3 = none →
      exec (.liveStateError b) s = .next (s.modBlock b (fun x => if x.kill.isSome then x else { x with kill := some ⟨0x31, 0, 0, 0⟩ }))) ∧
    (∀ (s : State) (site : Nat), exec (.correctedEccEvent site) s = .next { s with log := .error 0x230 site :: s.log } ∧
      exec .hbmScrub s = .next { s with log := .error 0x232 0 :: s.log } ∧ exec .mlcScrub s = .next { s with log := .error 0x233 0 :: s.log }) ∧
    (∀ (s : State) (c : Nat), c < s.cores.length → ∃ u, exec (.controlParityError (some c)) s = .next u ∧ u.mem = s.mem ∧ u.seals = s.seals ∧ u.warps = s.warps ∧
      (u.core c).parity = true ∧ ∀ b, b < s.blocks.length → (s.block b).id = b → (s.block b).core = c → (s.block b).ended = false → (s.block b).saved = false →
        (u.block b).kill ≠ none) ∧
    (∀ (s : State), ∃ u, exec (.controlParityError none) s = .next u ∧ u.mem = s.mem ∧ u.seals = s.seals ∧ u.log = .error 0x231 0 :: s.log ∧
      ∀ j, j < s.launches.length → (s.launch j).isDone = false → (u.launch j).st = .ending 5) ∧
    (∀ (s : State), s.boot = .up → s.focus = ⟨0, 0, .A⟩ → s.debt.getD 0 0 = 0 →
      (s.time ∉ s.trigger → exec (.globalTrigger s.time) s =
        .next { s with cores := s.cores.map (fun k => { k with shAcct := k.acct, shCnt := k.cnt, shCtx := k.ctx.getD 0 }), trigger := [s.time] }) ∧
      (s.time ∈ s.trigger → exec (.globalTrigger s.time) s = .next s) ∧
      ∀ x r, x ≠ 0 → x ≤ s.ctxs.length → (s.ctx x).alive = true → (s.ctx x).series = some r → s.time % 2 ^ r.k = 0 →
        ((s.ctx x).ticked = s.time + 1 → exec (.seriesTick x) s = .next s) ∧
        ((s.ctx x).ticked ≠ s.time + 1 → ∃ u, exec (.seriesTick x) s = .next u ∧
        (u.ctx x).tick = (s.ctx x).tick + 1 ∧ (u.ctx x).ticked = s.time + 1 ∧ s.time ∈ u.trigger ∧ u.warps = s.warps ∧
        (s.time ∉ s.trigger → ∀ c, (u.core c).shAcct = (s.core c).acct ∧ (u.core c).shCnt = (s.core c).cnt))) ∧
    (∀ (s : State) (peer pa : Nat) (bs : List Byte), s.boot = .up → pa < Config.deviceBytes → fabricDead s = false →
      let line := pa / 128
      let d := dirEntry s line
      let exp := fun (w : Bool) => Config.exported s.ctr peer pa w
      (planeWaits s (ownFa s pa) = false → exp false = true → d.owner = none → heldElsewhere s none pa 1 = false → ∃ u, exec (.fabricRequest peer pa .read) s = .next u ∧ u.mem = s.mem ∧ u.seals = s.seals ∧
        ((dirEntry u line).coarse = true ∨ peer ∈ (dirEntry u line).sharers)) ∧
      (planeWaits s (ownFa s pa) = false → exp true = true → d.owner = none → d.coarse = false → (∀ x ∈ d.sharers, x = peer) →
        heldElsewhere s none pa 1 = false →
        ∃ u, exec (.fabricRequest peer pa (.write [])) s = .next u ∧ u.mem = s.mem ∧ u.seals = s.seals ∧ (dirEntry u line).owner = some peer ∧ (dirEntry u line).sharers = []) ∧
      (planeWaits s (ownFa s pa) = false → exp true = true → d.owner = some peer → bs ≠ [] → pa % 128 + bs.length ≤ 128 →
        ∃ u, exec (.fabricRequest peer pa (.write bs)) s = .next u ∧ (dirEntry u line).owner = none ∧
          (∀ k, k < bs.length → memGet u.mem (pa + k) = bs.getD k 0) ∧
          let k := resealN s 0 pa bs.length
          u.seals = k.seals ∧ ∀ l, l < pa ∨ pa + bs.length ≤ l → memGet u.mem l = memGet k.mem l) ∧
      (∀ acc, exp (acc != .read) = false → exec (.fabricRequest peer pa acc) s = .next { s with ctr := s.ctr + 1 })) ∧
    (∀ (s : State) (line : Nat),
      (line * 128 < peerBase → ∃ u, exec (.directoryInvalidation line) s = .next u ∧ u = { s with dir := u.dir } ∧
        (dirEntry u line).sharers = [] ∧ (dirEntry u line).coarse = false ∧ (dirEntry u line).owner = (dirEntry s line).owner) ∧
      (peerBase ≤ line * 128 → exec (.directoryInvalidation line) s =
        .next { s with peers := s.peers.filter (fun p => p.modified || p.fa != line - peerBase / 128) })) ∧
    (∀ (s : State) (fa : Nat) (modified : Bool) (bs : List Byte), s.boot = .up → fa < 2 ^ 56 → nbits fa 55 40 ≠ s.devId.toNat → fabricDead s = false →
      planeWaits s fa = false → (∀ p ∈ s.peers, p.fa ≠ fa / 128) → bs.length = 128 → ∃ u, exec (.peerLineMiss fa modified bs true) s = .next u ∧
        u.peers = ⟨fa / 128, modified, modified⟩ :: s.peers ∧ (∀ k, k < 128 → memGet u.mem (peerBase + fa / 128 * 128 + k) = bs.getD k 0) ∧
        ∀ l, l < peerBase + fa / 128 * 128 ∨ peerBase + fa / 128 * 128 + 128 ≤ l → memGet u.mem l = memGet s.mem l) ∧
    (∀ (s : State) (fa : Nat) (p : PeerLine), s.peers.find? (fun p => p.fa == fa / 128 && p.modified) = some p → p.fresh = false → fabricDead s = false →
      ∃ u, exec (.peerWriteback fa) s = .next u ∧ u.peers = s.peers.filter (fun p => p.fa != fa / 128) ∧ u.mem = s.mem ∧ u.seals = s.seals ∧
        (planeWaits s fa = false → u.poison = s.poison)) ∧
    (∀ (s : State) (p : Nat), p < 16 → s.boot = .up →
      (p ∉ s.draining → s.deadmask.getLsbD p = false → exec (.fabricPlaneFailure p) s =
        .next { s with deadmask := s.deadmask ||| BitVec.ofNat 16 (2 ^ p), draining := s.draining ++ [p] }) ∧
      (p ∈ s.draining → s.deadmask.getLsbD p = true → s.deadmask ≠ 0xFFFF → ∃ u, exec (.fabricPlaneFailure p) s = .next u ∧
        u = { s with planemap := u.planemap, draining := s.draining.filter (· != p) } ∧ ∀ h, h < 16 →
          planeEntry u.planemap h ≠ p ∧ (planeEntry s.planemap h ≠ p → planeEntry u.planemap h = planeEntry s.planemap h) ∧
          (planeEntry s.planemap h = p → s.deadmask.getLsbD (planeEntry u.planemap h) = false))) ∧
    (∀ (s : State), (∀ p ∈ s.draining, p < 16 ∧ s.deadmask.getLsbD p = true) → ∃ u, exec .planeDrainTimeout s = .next u ∧
      u = { s with planemap := u.planemap, draining := [] } ∧ (s.deadmask ≠ 0xFFFF → ∀ h, h < 16 → planeEntry u.planemap h ∉ s.draining)) ∧
    (∀ (s : State) (die point : Nat),
      (point ∈ [2000, 1800, 1600, 1400, 1200, 1000] → exec (.powerPointChange die point) s = .next (s.modDie die (fun d => { d with mhz := point }))) ∧
      exec (.thermalLimit die) s = .next (s.modDie die (fun d => { d with mhz := 1000 }))) ∧
    (∀ (s : State), (∃ u, exec .thermalShutdown s = .next u ∧ u.boot = .shutdown ∧ u.warps = [] ∧ u.blocks = [] ∧ u.launches = [] ∧ u.mem = s.mem ∧ u.seals = s.seals ∧ u.ctxs = s.ctxs) ∧
      ∃ u, exec .powerRemoval s = .next u ∧ u.boot = .off ∧ u.warps = [] ∧ u.ctxs = [] ∧ u.deadmask = 0 ∧ u.seals = [] ∧
        ∀ l, memGet u.mem l = if l < peerBase ∨ dieBase ≤ l then 0 else memGet s.mem l) ∧
    (∀ (s : State) (core : Nat), core < 64 → s.cores.length = 64 → (s.core core).ctx = none → (s.core core).gated = false → ∃ u, exec (.corePowerGate core) s = .next u ∧
      (u.core core).gated = true ∧ (u.core core).deck = [] ∧ (u.core core).l1 = [] ∧ (u.core core).acc = (s.core core).acc ∧ u.mem = s.mem ∧ u.seals = s.seals) ∧
    (∀ (s : State), 0 < s.ifaces.length →
      (s.boot = .off ∨ s.boot = .inReset → exec .perstDeassert s = .next (if imageOk 1 then { s with boot := .steps 1 } else s)) ∧
      (s.boot = .steps 1 → exec .perstDeassert s = .next (if imageOk 2 then { s with boot := .steps 2 } else s)) ∧
      (∀ n, s.boot = .steps n → n = 3 ∨ n = 4 → exec .perstDeassert s = .next { s with boot := .steps (n + 1) }) ∧
      (s.boot = .steps 2 → ∃ u, exec .perstDeassert s = .next u ∧ u.boot = .steps 3 ∧ u.seals = [] ∧ ∀ l, l < peerBase ∨ dieBase ≤ l → memGet u.mem l = 0) ∧
      (s.boot = .steps 5 → ∃ u, exec .perstDeassert s = .next u ∧ u.boot = .up ∧ (u.iface 0).busy = false ∧ u.keySlots = [] ∧ u.idle = [] ∧
        (u.iface 0).reply = BitVec.ofNat 64 (s.devId.toNat + s.deadmask.toNat * 2 ^ 16))) ∧
    (∀ (s : State) (i bytes power : Nat), exec (.interfaceBudgetWindow i bytes power) s = .next (s.modIface i (fun x =>
      { x with bwOver := x.bw != 0 && decide (x.bw * 10000 < bytes), pwOver := x.power != 0 && decide (x.power < power) })))
end

