-- ==== Sys2Proof/Laws/State.lean ====
section
/-! SUPPORT. One lemma per field of State per named update: an update of one field leaves every other field as it was. -/

namespace Sys2Proof.Machine

/-! ### State.modWarp -/

@[simp] theorem State.modWarp_blocks (s : State) (i : Nat) (f : Warp → Warp) : (s.modWarp i f).blocks = s.blocks := rfl
@[simp] theorem State.modWarp_launches (s : State) (i : Nat) (f : Warp → Warp) : (s.modWarp i f).launches = s.launches := rfl
@[simp] theorem State.modWarp_ctxs (s : State) (i : Nat) (f : Warp → Warp) : (s.modWarp i f).ctxs = s.ctxs := rfl
@[simp] theorem State.modWarp_ifaces (s : State) (i : Nat) (f : Warp → Warp) : (s.modWarp i f).ifaces = s.ifaces := rfl
@[simp] theorem State.modWarp_cores (s : State) (i : Nat) (f : Warp → Warp) : (s.modWarp i f).cores = s.cores := rfl
@[simp] theorem State.modWarp_dies (s : State) (i : Nat) (f : Warp → Warp) : (s.modWarp i f).dies = s.dies := rfl
@[simp] theorem State.modWarp_engines (s : State) (i : Nat) (f : Warp → Warp) : (s.modWarp i f).engines = s.engines := rfl
@[simp] theorem State.modWarp_saves (s : State) (i : Nat) (f : Warp → Warp) : (s.modWarp i f).saves = s.saves := rfl
@[simp] theorem State.modWarp_saveCtr (s : State) (i : Nat) (f : Warp → Warp) : (s.modWarp i f).saveCtr = s.saveCtr := rfl
@[simp] theorem State.modWarp_mem (s : State) (i : Nat) (f : Warp → Warp) : (s.modWarp i f).mem = s.mem := rfl
@[simp] theorem State.modWarp_seals (s : State) (i : Nat) (f : Warp → Warp) : (s.modWarp i f).seals = s.seals := rfl
@[simp] theorem State.modWarp_invs (s : State) (i : Nat) (f : Warp → Warp) : (s.modWarp i f).invs = s.invs := rfl
@[simp] theorem State.modWarp_migs (s : State) (i : Nat) (f : Warp → Warp) : (s.modWarp i f).migs = s.migs := rfl
@[simp] theorem State.modWarp_hubAsks (s : State) (i : Nat) (f : Warp → Warp) : (s.modWarp i f).hubAsks = s.hubAsks := rfl
@[simp] theorem State.modWarp_poison (s : State) (i : Nat) (f : Warp → Warp) : (s.modWarp i f).poison = s.poison := rfl
@[simp] theorem State.modWarp_time (s : State) (i : Nat) (f : Warp → Warp) : (s.modWarp i f).time = s.time := rfl
@[simp] theorem State.modWarp_debt (s : State) (i : Nat) (f : Warp → Warp) : (s.modWarp i f).debt = s.debt := rfl
@[simp] theorem State.modWarp_trigger (s : State) (i : Nat) (f : Warp → Warp) : (s.modWarp i f).trigger = s.trigger := rfl
@[simp] theorem State.modWarp_devTick (s : State) (i : Nat) (f : Warp → Warp) : (s.modWarp i f).devTick = s.devTick := rfl
@[simp] theorem State.modWarp_devTicked (s : State) (i : Nat) (f : Warp → Warp) : (s.modWarp i f).devTicked = s.devTicked := rfl
@[simp] theorem State.modWarp_devId (s : State) (i : Nat) (f : Warp → Warp) : (s.modWarp i f).devId = s.devId := rfl
@[simp] theorem State.modWarp_planemap (s : State) (i : Nat) (f : Warp → Warp) : (s.modWarp i f).planemap = s.planemap := rfl
@[simp] theorem State.modWarp_deadmask (s : State) (i : Nat) (f : Warp → Warp) : (s.modWarp i f).deadmask = s.deadmask := rfl
@[simp] theorem State.modWarp_draining (s : State) (i : Nat) (f : Warp → Warp) : (s.modWarp i f).draining = s.draining := rfl
@[simp] theorem State.modWarp_peers (s : State) (i : Nat) (f : Warp → Warp) : (s.modWarp i f).peers = s.peers := rfl
@[simp] theorem State.modWarp_dir (s : State) (i : Nat) (f : Warp → Warp) : (s.modWarp i f).dir = s.dir := rfl
@[simp] theorem State.modWarp_pri (s : State) (i : Nat) (f : Warp → Warp) : (s.modWarp i f).pri = s.pri := rfl
@[simp] theorem State.modWarp_hubAts (s : State) (i : Nat) (f : Warp → Warp) : (s.modWarp i f).hubAts = s.hubAts := rfl
@[simp] theorem State.modWarp_log (s : State) (i : Nat) (f : Warp → Warp) : (s.modWarp i f).log = s.log := rfl
@[simp] theorem State.modWarp_idle (s : State) (i : Nat) (f : Warp → Warp) : (s.modWarp i f).idle = s.idle := rfl
@[simp] theorem State.modWarp_keySlots (s : State) (i : Nat) (f : Warp → Warp) : (s.modWarp i f).keySlots = s.keySlots := rfl
@[simp] theorem State.modWarp_boot (s : State) (i : Nat) (f : Warp → Warp) : (s.modWarp i f).boot = s.boot := rfl
@[simp] theorem State.modWarp_spdm (s : State) (i : Nat) (f : Warp → Warp) : (s.modWarp i f).spdm = s.spdm := rfl
@[simp] theorem State.modWarp_sched (s : State) (i : Nat) (f : Warp → Warp) : (s.modWarp i f).sched = s.sched := rfl
@[simp] theorem State.modWarp_ctr (s : State) (i : Nat) (f : Warp → Warp) : (s.modWarp i f).ctr = s.ctr := rfl
@[simp] theorem State.modWarp_focus (s : State) (i : Nat) (f : Warp → Warp) : (s.modWarp i f).focus = s.focus := rfl
@[simp] theorem State.modWarp_iss (s : State) (i : Nat) (f : Warp → Warp) : (s.modWarp i f).iss = s.iss := rfl

/-! ### State.modBlock -/

@[simp] theorem State.modBlock_warps (s : State) (i : Nat) (f : Block → Block) : (s.modBlock i f).warps = s.warps := rfl
@[simp] theorem State.modBlock_launches (s : State) (i : Nat) (f : Block → Block) : (s.modBlock i f).launches = s.launches := rfl
@[simp] theorem State.modBlock_ctxs (s : State) (i : Nat) (f : Block → Block) : (s.modBlock i f).ctxs = s.ctxs := rfl
@[simp] theorem State.modBlock_ifaces (s : State) (i : Nat) (f : Block → Block) : (s.modBlock i f).ifaces = s.ifaces := rfl
@[simp] theorem State.modBlock_cores (s : State) (i : Nat) (f : Block → Block) : (s.modBlock i f).cores = s.cores := rfl
@[simp] theorem State.modBlock_dies (s : State) (i : Nat) (f : Block → Block) : (s.modBlock i f).dies = s.dies := rfl
@[simp] theorem State.modBlock_engines (s : State) (i : Nat) (f : Block → Block) : (s.modBlock i f).engines = s.engines := rfl
@[simp] theorem State.modBlock_saves (s : State) (i : Nat) (f : Block → Block) : (s.modBlock i f).saves = s.saves := rfl
@[simp] theorem State.modBlock_saveCtr (s : State) (i : Nat) (f : Block → Block) : (s.modBlock i f).saveCtr = s.saveCtr := rfl
@[simp] theorem State.modBlock_mem (s : State) (i : Nat) (f : Block → Block) : (s.modBlock i f).mem = s.mem := rfl
@[simp] theorem State.modBlock_seals (s : State) (i : Nat) (f : Block → Block) : (s.modBlock i f).seals = s.seals := rfl
@[simp] theorem State.modBlock_invs (s : State) (i : Nat) (f : Block → Block) : (s.modBlock i f).invs = s.invs := rfl
@[simp] theorem State.modBlock_migs (s : State) (i : Nat) (f : Block → Block) : (s.modBlock i f).migs = s.migs := rfl
@[simp] theorem State.modBlock_hubAsks (s : State) (i : Nat) (f : Block → Block) : (s.modBlock i f).hubAsks = s.hubAsks := rfl
@[simp] theorem State.modBlock_poison (s : State) (i : Nat) (f : Block → Block) : (s.modBlock i f).poison = s.poison := rfl
@[simp] theorem State.modBlock_time (s : State) (i : Nat) (f : Block → Block) : (s.modBlock i f).time = s.time := rfl
@[simp] theorem State.modBlock_debt (s : State) (i : Nat) (f : Block → Block) : (s.modBlock i f).debt = s.debt := rfl
@[simp] theorem State.modBlock_trigger (s : State) (i : Nat) (f : Block → Block) : (s.modBlock i f).trigger = s.trigger := rfl
@[simp] theorem State.modBlock_devTick (s : State) (i : Nat) (f : Block → Block) : (s.modBlock i f).devTick = s.devTick := rfl
@[simp] theorem State.modBlock_devTicked (s : State) (i : Nat) (f : Block → Block) : (s.modBlock i f).devTicked = s.devTicked := rfl
@[simp] theorem State.modBlock_devId (s : State) (i : Nat) (f : Block → Block) : (s.modBlock i f).devId = s.devId := rfl
@[simp] theorem State.modBlock_planemap (s : State) (i : Nat) (f : Block → Block) : (s.modBlock i f).planemap = s.planemap := rfl
@[simp] theorem State.modBlock_deadmask (s : State) (i : Nat) (f : Block → Block) : (s.modBlock i f).deadmask = s.deadmask := rfl
@[simp] theorem State.modBlock_draining (s : State) (i : Nat) (f : Block → Block) : (s.modBlock i f).draining = s.draining := rfl
@[simp] theorem State.modBlock_peers (s : State) (i : Nat) (f : Block → Block) : (s.modBlock i f).peers = s.peers := rfl
@[simp] theorem State.modBlock_dir (s : State) (i : Nat) (f : Block → Block) : (s.modBlock i f).dir = s.dir := rfl
@[simp] theorem State.modBlock_pri (s : State) (i : Nat) (f : Block → Block) : (s.modBlock i f).pri = s.pri := rfl
@[simp] theorem State.modBlock_hubAts (s : State) (i : Nat) (f : Block → Block) : (s.modBlock i f).hubAts = s.hubAts := rfl
@[simp] theorem State.modBlock_log (s : State) (i : Nat) (f : Block → Block) : (s.modBlock i f).log = s.log := rfl
@[simp] theorem State.modBlock_idle (s : State) (i : Nat) (f : Block → Block) : (s.modBlock i f).idle = s.idle := rfl
@[simp] theorem State.modBlock_keySlots (s : State) (i : Nat) (f : Block → Block) : (s.modBlock i f).keySlots = s.keySlots := rfl
@[simp] theorem State.modBlock_boot (s : State) (i : Nat) (f : Block → Block) : (s.modBlock i f).boot = s.boot := rfl
@[simp] theorem State.modBlock_spdm (s : State) (i : Nat) (f : Block → Block) : (s.modBlock i f).spdm = s.spdm := rfl
@[simp] theorem State.modBlock_sched (s : State) (i : Nat) (f : Block → Block) : (s.modBlock i f).sched = s.sched := rfl
@[simp] theorem State.modBlock_ctr (s : State) (i : Nat) (f : Block → Block) : (s.modBlock i f).ctr = s.ctr := rfl
@[simp] theorem State.modBlock_focus (s : State) (i : Nat) (f : Block → Block) : (s.modBlock i f).focus = s.focus := rfl
@[simp] theorem State.modBlock_iss (s : State) (i : Nat) (f : Block → Block) : (s.modBlock i f).iss = s.iss := rfl

/-! ### State.modLaunch -/

@[simp] theorem State.modLaunch_warps (s : State) (i : Nat) (f : Launch → Launch) : (s.modLaunch i f).warps = s.warps := rfl
@[simp] theorem State.modLaunch_blocks (s : State) (i : Nat) (f : Launch → Launch) : (s.modLaunch i f).blocks = s.blocks := rfl
@[simp] theorem State.modLaunch_ctxs (s : State) (i : Nat) (f : Launch → Launch) : (s.modLaunch i f).ctxs = s.ctxs := rfl
@[simp] theorem State.modLaunch_ifaces (s : State) (i : Nat) (f : Launch → Launch) : (s.modLaunch i f).ifaces = s.ifaces := rfl
@[simp] theorem State.modLaunch_cores (s : State) (i : Nat) (f : Launch → Launch) : (s.modLaunch i f).cores = s.cores := rfl
@[simp] theorem State.modLaunch_dies (s : State) (i : Nat) (f : Launch → Launch) : (s.modLaunch i f).dies = s.dies := rfl
@[simp] theorem State.modLaunch_engines (s : State) (i : Nat) (f : Launch → Launch) : (s.modLaunch i f).engines = s.engines := rfl
@[simp] theorem State.modLaunch_saves (s : State) (i : Nat) (f : Launch → Launch) : (s.modLaunch i f).saves = s.saves := rfl
@[simp] theorem State.modLaunch_saveCtr (s : State) (i : Nat) (f : Launch → Launch) : (s.modLaunch i f).saveCtr = s.saveCtr := rfl
@[simp] theorem State.modLaunch_mem (s : State) (i : Nat) (f : Launch → Launch) : (s.modLaunch i f).mem = s.mem := rfl
@[simp] theorem State.modLaunch_seals (s : State) (i : Nat) (f : Launch → Launch) : (s.modLaunch i f).seals = s.seals := rfl
@[simp] theorem State.modLaunch_invs (s : State) (i : Nat) (f : Launch → Launch) : (s.modLaunch i f).invs = s.invs := rfl
@[simp] theorem State.modLaunch_migs (s : State) (i : Nat) (f : Launch → Launch) : (s.modLaunch i f).migs = s.migs := rfl
@[simp] theorem State.modLaunch_hubAsks (s : State) (i : Nat) (f : Launch → Launch) : (s.modLaunch i f).hubAsks = s.hubAsks := rfl
@[simp] theorem State.modLaunch_poison (s : State) (i : Nat) (f : Launch → Launch) : (s.modLaunch i f).poison = s.poison := rfl
@[simp] theorem State.modLaunch_time (s : State) (i : Nat) (f : Launch → Launch) : (s.modLaunch i f).time = s.time := rfl
@[simp] theorem State.modLaunch_debt (s : State) (i : Nat) (f : Launch → Launch) : (s.modLaunch i f).debt = s.debt := rfl
@[simp] theorem State.modLaunch_trigger (s : State) (i : Nat) (f : Launch → Launch) : (s.modLaunch i f).trigger = s.trigger := rfl
@[simp] theorem State.modLaunch_devTick (s : State) (i : Nat) (f : Launch → Launch) : (s.modLaunch i f).devTick = s.devTick := rfl
@[simp] theorem State.modLaunch_devTicked (s : State) (i : Nat) (f : Launch → Launch) : (s.modLaunch i f).devTicked = s.devTicked := rfl
@[simp] theorem State.modLaunch_devId (s : State) (i : Nat) (f : Launch → Launch) : (s.modLaunch i f).devId = s.devId := rfl
@[simp] theorem State.modLaunch_planemap (s : State) (i : Nat) (f : Launch → Launch) : (s.modLaunch i f).planemap = s.planemap := rfl
@[simp] theorem State.modLaunch_deadmask (s : State) (i : Nat) (f : Launch → Launch) : (s.modLaunch i f).deadmask = s.deadmask := rfl
@[simp] theorem State.modLaunch_draining (s : State) (i : Nat) (f : Launch → Launch) : (s.modLaunch i f).draining = s.draining := rfl
@[simp] theorem State.modLaunch_peers (s : State) (i : Nat) (f : Launch → Launch) : (s.modLaunch i f).peers = s.peers := rfl
@[simp] theorem State.modLaunch_dir (s : State) (i : Nat) (f : Launch → Launch) : (s.modLaunch i f).dir = s.dir := rfl
@[simp] theorem State.modLaunch_pri (s : State) (i : Nat) (f : Launch → Launch) : (s.modLaunch i f).pri = s.pri := rfl
@[simp] theorem State.modLaunch_hubAts (s : State) (i : Nat) (f : Launch → Launch) : (s.modLaunch i f).hubAts = s.hubAts := rfl
@[simp] theorem State.modLaunch_log (s : State) (i : Nat) (f : Launch → Launch) : (s.modLaunch i f).log = s.log := rfl
@[simp] theorem State.modLaunch_idle (s : State) (i : Nat) (f : Launch → Launch) : (s.modLaunch i f).idle = s.idle := rfl
@[simp] theorem State.modLaunch_keySlots (s : State) (i : Nat) (f : Launch → Launch) : (s.modLaunch i f).keySlots = s.keySlots := rfl
@[simp] theorem State.modLaunch_boot (s : State) (i : Nat) (f : Launch → Launch) : (s.modLaunch i f).boot = s.boot := rfl
@[simp] theorem State.modLaunch_spdm (s : State) (i : Nat) (f : Launch → Launch) : (s.modLaunch i f).spdm = s.spdm := rfl
@[simp] theorem State.modLaunch_sched (s : State) (i : Nat) (f : Launch → Launch) : (s.modLaunch i f).sched = s.sched := rfl
@[simp] theorem State.modLaunch_ctr (s : State) (i : Nat) (f : Launch → Launch) : (s.modLaunch i f).ctr = s.ctr := rfl
@[simp] theorem State.modLaunch_focus (s : State) (i : Nat) (f : Launch → Launch) : (s.modLaunch i f).focus = s.focus := rfl
@[simp] theorem State.modLaunch_iss (s : State) (i : Nat) (f : Launch → Launch) : (s.modLaunch i f).iss = s.iss := rfl

/-! ### State.modCore -/

@[simp] theorem State.modCore_warps (s : State) (i : Nat) (f : Core → Core) : (s.modCore i f).warps = s.warps := rfl
@[simp] theorem State.modCore_blocks (s : State) (i : Nat) (f : Core → Core) : (s.modCore i f).blocks = s.blocks := rfl
@[simp] theorem State.modCore_launches (s : State) (i : Nat) (f : Core → Core) : (s.modCore i f).launches = s.launches := rfl
@[simp] theorem State.modCore_ctxs (s : State) (i : Nat) (f : Core → Core) : (s.modCore i f).ctxs = s.ctxs := rfl
@[simp] theorem State.modCore_ifaces (s : State) (i : Nat) (f : Core → Core) : (s.modCore i f).ifaces = s.ifaces := rfl
@[simp] theorem State.modCore_dies (s : State) (i : Nat) (f : Core → Core) : (s.modCore i f).dies = s.dies := rfl
@[simp] theorem State.modCore_engines (s : State) (i : Nat) (f : Core → Core) : (s.modCore i f).engines = s.engines := rfl
@[simp] theorem State.modCore_saves (s : State) (i : Nat) (f : Core → Core) : (s.modCore i f).saves = s.saves := rfl
@[simp] theorem State.modCore_saveCtr (s : State) (i : Nat) (f : Core → Core) : (s.modCore i f).saveCtr = s.saveCtr := rfl
@[simp] theorem State.modCore_mem (s : State) (i : Nat) (f : Core → Core) : (s.modCore i f).mem = s.mem := rfl
@[simp] theorem State.modCore_seals (s : State) (i : Nat) (f : Core → Core) : (s.modCore i f).seals = s.seals := rfl
@[simp] theorem State.modCore_invs (s : State) (i : Nat) (f : Core → Core) : (s.modCore i f).invs = s.invs := rfl
@[simp] theorem State.modCore_migs (s : State) (i : Nat) (f : Core → Core) : (s.modCore i f).migs = s.migs := rfl
@[simp] theorem State.modCore_hubAsks (s : State) (i : Nat) (f : Core → Core) : (s.modCore i f).hubAsks = s.hubAsks := rfl
@[simp] theorem State.modCore_poison (s : State) (i : Nat) (f : Core → Core) : (s.modCore i f).poison = s.poison := rfl
@[simp] theorem State.modCore_time (s : State) (i : Nat) (f : Core → Core) : (s.modCore i f).time = s.time := rfl
@[simp] theorem State.modCore_debt (s : State) (i : Nat) (f : Core → Core) : (s.modCore i f).debt = s.debt := rfl
@[simp] theorem State.modCore_trigger (s : State) (i : Nat) (f : Core → Core) : (s.modCore i f).trigger = s.trigger := rfl
@[simp] theorem State.modCore_devTick (s : State) (i : Nat) (f : Core → Core) : (s.modCore i f).devTick = s.devTick := rfl
@[simp] theorem State.modCore_devTicked (s : State) (i : Nat) (f : Core → Core) : (s.modCore i f).devTicked = s.devTicked := rfl
@[simp] theorem State.modCore_devId (s : State) (i : Nat) (f : Core → Core) : (s.modCore i f).devId = s.devId := rfl
@[simp] theorem State.modCore_planemap (s : State) (i : Nat) (f : Core → Core) : (s.modCore i f).planemap = s.planemap := rfl
@[simp] theorem State.modCore_deadmask (s : State) (i : Nat) (f : Core → Core) : (s.modCore i f).deadmask = s.deadmask := rfl
@[simp] theorem State.modCore_draining (s : State) (i : Nat) (f : Core → Core) : (s.modCore i f).draining = s.draining := rfl
@[simp] theorem State.modCore_peers (s : State) (i : Nat) (f : Core → Core) : (s.modCore i f).peers = s.peers := rfl
@[simp] theorem State.modCore_dir (s : State) (i : Nat) (f : Core → Core) : (s.modCore i f).dir = s.dir := rfl
@[simp] theorem State.modCore_pri (s : State) (i : Nat) (f : Core → Core) : (s.modCore i f).pri = s.pri := rfl
@[simp] theorem State.modCore_hubAts (s : State) (i : Nat) (f : Core → Core) : (s.modCore i f).hubAts = s.hubAts := rfl
@[simp] theorem State.modCore_log (s : State) (i : Nat) (f : Core → Core) : (s.modCore i f).log = s.log := rfl
@[simp] theorem State.modCore_idle (s : State) (i : Nat) (f : Core → Core) : (s.modCore i f).idle = s.idle := rfl
@[simp] theorem State.modCore_keySlots (s : State) (i : Nat) (f : Core → Core) : (s.modCore i f).keySlots = s.keySlots := rfl
@[simp] theorem State.modCore_boot (s : State) (i : Nat) (f : Core → Core) : (s.modCore i f).boot = s.boot := rfl
@[simp] theorem State.modCore_spdm (s : State) (i : Nat) (f : Core → Core) : (s.modCore i f).spdm = s.spdm := rfl
@[simp] theorem State.modCore_sched (s : State) (i : Nat) (f : Core → Core) : (s.modCore i f).sched = s.sched := rfl
@[simp] theorem State.modCore_ctr (s : State) (i : Nat) (f : Core → Core) : (s.modCore i f).ctr = s.ctr := rfl
@[simp] theorem State.modCore_focus (s : State) (i : Nat) (f : Core → Core) : (s.modCore i f).focus = s.focus := rfl
@[simp] theorem State.modCore_iss (s : State) (i : Nat) (f : Core → Core) : (s.modCore i f).iss = s.iss := rfl

/-! ### State.modDie -/

@[simp] theorem State.modDie_warps (s : State) (i : Nat) (f : Die → Die) : (s.modDie i f).warps = s.warps := rfl
@[simp] theorem State.modDie_blocks (s : State) (i : Nat) (f : Die → Die) : (s.modDie i f).blocks = s.blocks := rfl
@[simp] theorem State.modDie_launches (s : State) (i : Nat) (f : Die → Die) : (s.modDie i f).launches = s.launches := rfl
@[simp] theorem State.modDie_ctxs (s : State) (i : Nat) (f : Die → Die) : (s.modDie i f).ctxs = s.ctxs := rfl
@[simp] theorem State.modDie_ifaces (s : State) (i : Nat) (f : Die → Die) : (s.modDie i f).ifaces = s.ifaces := rfl
@[simp] theorem State.modDie_cores (s : State) (i : Nat) (f : Die → Die) : (s.modDie i f).cores = s.cores := rfl
@[simp] theorem State.modDie_engines (s : State) (i : Nat) (f : Die → Die) : (s.modDie i f).engines = s.engines := rfl
@[simp] theorem State.modDie_saves (s : State) (i : Nat) (f : Die → Die) : (s.modDie i f).saves = s.saves := rfl
@[simp] theorem State.modDie_saveCtr (s : State) (i : Nat) (f : Die → Die) : (s.modDie i f).saveCtr = s.saveCtr := rfl
@[simp] theorem State.modDie_mem (s : State) (i : Nat) (f : Die → Die) : (s.modDie i f).mem = s.mem := rfl
@[simp] theorem State.modDie_seals (s : State) (i : Nat) (f : Die → Die) : (s.modDie i f).seals = s.seals := rfl
@[simp] theorem State.modDie_invs (s : State) (i : Nat) (f : Die → Die) : (s.modDie i f).invs = s.invs := rfl
@[simp] theorem State.modDie_migs (s : State) (i : Nat) (f : Die → Die) : (s.modDie i f).migs = s.migs := rfl
@[simp] theorem State.modDie_hubAsks (s : State) (i : Nat) (f : Die → Die) : (s.modDie i f).hubAsks = s.hubAsks := rfl
@[simp] theorem State.modDie_poison (s : State) (i : Nat) (f : Die → Die) : (s.modDie i f).poison = s.poison := rfl
@[simp] theorem State.modDie_time (s : State) (i : Nat) (f : Die → Die) : (s.modDie i f).time = s.time := rfl
@[simp] theorem State.modDie_debt (s : State) (i : Nat) (f : Die → Die) : (s.modDie i f).debt = s.debt := rfl
@[simp] theorem State.modDie_trigger (s : State) (i : Nat) (f : Die → Die) : (s.modDie i f).trigger = s.trigger := rfl
@[simp] theorem State.modDie_devTick (s : State) (i : Nat) (f : Die → Die) : (s.modDie i f).devTick = s.devTick := rfl
@[simp] theorem State.modDie_devTicked (s : State) (i : Nat) (f : Die → Die) : (s.modDie i f).devTicked = s.devTicked := rfl
@[simp] theorem State.modDie_devId (s : State) (i : Nat) (f : Die → Die) : (s.modDie i f).devId = s.devId := rfl
@[simp] theorem State.modDie_planemap (s : State) (i : Nat) (f : Die → Die) : (s.modDie i f).planemap = s.planemap := rfl
@[simp] theorem State.modDie_deadmask (s : State) (i : Nat) (f : Die → Die) : (s.modDie i f).deadmask = s.deadmask := rfl
@[simp] theorem State.modDie_draining (s : State) (i : Nat) (f : Die → Die) : (s.modDie i f).draining = s.draining := rfl
@[simp] theorem State.modDie_peers (s : State) (i : Nat) (f : Die → Die) : (s.modDie i f).peers = s.peers := rfl
@[simp] theorem State.modDie_dir (s : State) (i : Nat) (f : Die → Die) : (s.modDie i f).dir = s.dir := rfl
@[simp] theorem State.modDie_pri (s : State) (i : Nat) (f : Die → Die) : (s.modDie i f).pri = s.pri := rfl
@[simp] theorem State.modDie_hubAts (s : State) (i : Nat) (f : Die → Die) : (s.modDie i f).hubAts = s.hubAts := rfl
@[simp] theorem State.modDie_log (s : State) (i : Nat) (f : Die → Die) : (s.modDie i f).log = s.log := rfl
@[simp] theorem State.modDie_idle (s : State) (i : Nat) (f : Die → Die) : (s.modDie i f).idle = s.idle := rfl
@[simp] theorem State.modDie_keySlots (s : State) (i : Nat) (f : Die → Die) : (s.modDie i f).keySlots = s.keySlots := rfl
@[simp] theorem State.modDie_boot (s : State) (i : Nat) (f : Die → Die) : (s.modDie i f).boot = s.boot := rfl
@[simp] theorem State.modDie_spdm (s : State) (i : Nat) (f : Die → Die) : (s.modDie i f).spdm = s.spdm := rfl
@[simp] theorem State.modDie_sched (s : State) (i : Nat) (f : Die → Die) : (s.modDie i f).sched = s.sched := rfl
@[simp] theorem State.modDie_ctr (s : State) (i : Nat) (f : Die → Die) : (s.modDie i f).ctr = s.ctr := rfl
@[simp] theorem State.modDie_focus (s : State) (i : Nat) (f : Die → Die) : (s.modDie i f).focus = s.focus := rfl
@[simp] theorem State.modDie_iss (s : State) (i : Nat) (f : Die → Die) : (s.modDie i f).iss = s.iss := rfl

/-! ### State.modIface -/

@[simp] theorem State.modIface_warps (s : State) (i : Nat) (f : Iface → Iface) : (s.modIface i f).warps = s.warps := rfl
@[simp] theorem State.modIface_blocks (s : State) (i : Nat) (f : Iface → Iface) : (s.modIface i f).blocks = s.blocks := rfl
@[simp] theorem State.modIface_launches (s : State) (i : Nat) (f : Iface → Iface) : (s.modIface i f).launches = s.launches := rfl
@[simp] theorem State.modIface_ctxs (s : State) (i : Nat) (f : Iface → Iface) : (s.modIface i f).ctxs = s.ctxs := rfl
@[simp] theorem State.modIface_cores (s : State) (i : Nat) (f : Iface → Iface) : (s.modIface i f).cores = s.cores := rfl
@[simp] theorem State.modIface_dies (s : State) (i : Nat) (f : Iface → Iface) : (s.modIface i f).dies = s.dies := rfl
@[simp] theorem State.modIface_engines (s : State) (i : Nat) (f : Iface → Iface) : (s.modIface i f).engines = s.engines := rfl
@[simp] theorem State.modIface_saves (s : State) (i : Nat) (f : Iface → Iface) : (s.modIface i f).saves = s.saves := rfl
@[simp] theorem State.modIface_saveCtr (s : State) (i : Nat) (f : Iface → Iface) : (s.modIface i f).saveCtr = s.saveCtr := rfl
@[simp] theorem State.modIface_mem (s : State) (i : Nat) (f : Iface → Iface) : (s.modIface i f).mem = s.mem := rfl
@[simp] theorem State.modIface_seals (s : State) (i : Nat) (f : Iface → Iface) : (s.modIface i f).seals = s.seals := rfl
@[simp] theorem State.modIface_invs (s : State) (i : Nat) (f : Iface → Iface) : (s.modIface i f).invs = s.invs := rfl
@[simp] theorem State.modIface_migs (s : State) (i : Nat) (f : Iface → Iface) : (s.modIface i f).migs = s.migs := rfl
@[simp] theorem State.modIface_hubAsks (s : State) (i : Nat) (f : Iface → Iface) : (s.modIface i f).hubAsks = s.hubAsks := rfl
@[simp] theorem State.modIface_poison (s : State) (i : Nat) (f : Iface → Iface) : (s.modIface i f).poison = s.poison := rfl
@[simp] theorem State.modIface_time (s : State) (i : Nat) (f : Iface → Iface) : (s.modIface i f).time = s.time := rfl
@[simp] theorem State.modIface_debt (s : State) (i : Nat) (f : Iface → Iface) : (s.modIface i f).debt = s.debt := rfl
@[simp] theorem State.modIface_trigger (s : State) (i : Nat) (f : Iface → Iface) : (s.modIface i f).trigger = s.trigger := rfl
@[simp] theorem State.modIface_devTick (s : State) (i : Nat) (f : Iface → Iface) : (s.modIface i f).devTick = s.devTick := rfl
@[simp] theorem State.modIface_devTicked (s : State) (i : Nat) (f : Iface → Iface) : (s.modIface i f).devTicked = s.devTicked := rfl
@[simp] theorem State.modIface_devId (s : State) (i : Nat) (f : Iface → Iface) : (s.modIface i f).devId = s.devId := rfl
@[simp] theorem State.modIface_planemap (s : State) (i : Nat) (f : Iface → Iface) : (s.modIface i f).planemap = s.planemap := rfl
@[simp] theorem State.modIface_deadmask (s : State) (i : Nat) (f : Iface → Iface) : (s.modIface i f).deadmask = s.deadmask := rfl
@[simp] theorem State.modIface_draining (s : State) (i : Nat) (f : Iface → Iface) : (s.modIface i f).draining = s.draining := rfl
@[simp] theorem State.modIface_peers (s : State) (i : Nat) (f : Iface → Iface) : (s.modIface i f).peers = s.peers := rfl
@[simp] theorem State.modIface_dir (s : State) (i : Nat) (f : Iface → Iface) : (s.modIface i f).dir = s.dir := rfl
@[simp] theorem State.modIface_pri (s : State) (i : Nat) (f : Iface → Iface) : (s.modIface i f).pri = s.pri := rfl
@[simp] theorem State.modIface_hubAts (s : State) (i : Nat) (f : Iface → Iface) : (s.modIface i f).hubAts = s.hubAts := rfl
@[simp] theorem State.modIface_log (s : State) (i : Nat) (f : Iface → Iface) : (s.modIface i f).log = s.log := rfl
@[simp] theorem State.modIface_idle (s : State) (i : Nat) (f : Iface → Iface) : (s.modIface i f).idle = s.idle := rfl
@[simp] theorem State.modIface_keySlots (s : State) (i : Nat) (f : Iface → Iface) : (s.modIface i f).keySlots = s.keySlots := rfl
@[simp] theorem State.modIface_boot (s : State) (i : Nat) (f : Iface → Iface) : (s.modIface i f).boot = s.boot := rfl
@[simp] theorem State.modIface_spdm (s : State) (i : Nat) (f : Iface → Iface) : (s.modIface i f).spdm = s.spdm := rfl
@[simp] theorem State.modIface_sched (s : State) (i : Nat) (f : Iface → Iface) : (s.modIface i f).sched = s.sched := rfl
@[simp] theorem State.modIface_ctr (s : State) (i : Nat) (f : Iface → Iface) : (s.modIface i f).ctr = s.ctr := rfl
@[simp] theorem State.modIface_focus (s : State) (i : Nat) (f : Iface → Iface) : (s.modIface i f).focus = s.focus := rfl
@[simp] theorem State.modIface_iss (s : State) (i : Nat) (f : Iface → Iface) : (s.modIface i f).iss = s.iss := rfl

/-! ### State.modCtx -/

@[simp] theorem State.modCtx_warps (s : State) (i : Nat) (f : Ctx → Ctx) : (s.modCtx i f).warps = s.warps := rfl
@[simp] theorem State.modCtx_blocks (s : State) (i : Nat) (f : Ctx → Ctx) : (s.modCtx i f).blocks = s.blocks := rfl
@[simp] theorem State.modCtx_launches (s : State) (i : Nat) (f : Ctx → Ctx) : (s.modCtx i f).launches = s.launches := rfl
@[simp] theorem State.modCtx_ifaces (s : State) (i : Nat) (f : Ctx → Ctx) : (s.modCtx i f).ifaces = s.ifaces := rfl
@[simp] theorem State.modCtx_cores (s : State) (i : Nat) (f : Ctx → Ctx) : (s.modCtx i f).cores = s.cores := rfl
@[simp] theorem State.modCtx_dies (s : State) (i : Nat) (f : Ctx → Ctx) : (s.modCtx i f).dies = s.dies := rfl
@[simp] theorem State.modCtx_engines (s : State) (i : Nat) (f : Ctx → Ctx) : (s.modCtx i f).engines = s.engines := rfl
@[simp] theorem State.modCtx_saves (s : State) (i : Nat) (f : Ctx → Ctx) : (s.modCtx i f).saves = s.saves := rfl
@[simp] theorem State.modCtx_saveCtr (s : State) (i : Nat) (f : Ctx → Ctx) : (s.modCtx i f).saveCtr = s.saveCtr := rfl
@[simp] theorem State.modCtx_mem (s : State) (i : Nat) (f : Ctx → Ctx) : (s.modCtx i f).mem = s.mem := rfl
@[simp] theorem State.modCtx_seals (s : State) (i : Nat) (f : Ctx → Ctx) : (s.modCtx i f).seals = s.seals := rfl
@[simp] theorem State.modCtx_invs (s : State) (i : Nat) (f : Ctx → Ctx) : (s.modCtx i f).invs = s.invs := rfl
@[simp] theorem State.modCtx_migs (s : State) (i : Nat) (f : Ctx → Ctx) : (s.modCtx i f).migs = s.migs := rfl
@[simp] theorem State.modCtx_hubAsks (s : State) (i : Nat) (f : Ctx → Ctx) : (s.modCtx i f).hubAsks = s.hubAsks := rfl
@[simp] theorem State.modCtx_poison (s : State) (i : Nat) (f : Ctx → Ctx) : (s.modCtx i f).poison = s.poison := rfl
@[simp] theorem State.modCtx_time (s : State) (i : Nat) (f : Ctx → Ctx) : (s.modCtx i f).time = s.time := rfl
@[simp] theorem State.modCtx_debt (s : State) (i : Nat) (f : Ctx → Ctx) : (s.modCtx i f).debt = s.debt := rfl
@[simp] theorem State.modCtx_trigger (s : State) (i : Nat) (f : Ctx → Ctx) : (s.modCtx i f).trigger = s.trigger := rfl
@[simp] theorem State.modCtx_devTick (s : State) (i : Nat) (f : Ctx → Ctx) : (s.modCtx i f).devTick = s.devTick := rfl
@[simp] theorem State.modCtx_devTicked (s : State) (i : Nat) (f : Ctx → Ctx) : (s.modCtx i f).devTicked = s.devTicked := rfl
@[simp] theorem State.modCtx_devId (s : State) (i : Nat) (f : Ctx → Ctx) : (s.modCtx i f).devId = s.devId := rfl
@[simp] theorem State.modCtx_planemap (s : State) (i : Nat) (f : Ctx → Ctx) : (s.modCtx i f).planemap = s.planemap := rfl
@[simp] theorem State.modCtx_deadmask (s : State) (i : Nat) (f : Ctx → Ctx) : (s.modCtx i f).deadmask = s.deadmask := rfl
@[simp] theorem State.modCtx_draining (s : State) (i : Nat) (f : Ctx → Ctx) : (s.modCtx i f).draining = s.draining := rfl
@[simp] theorem State.modCtx_peers (s : State) (i : Nat) (f : Ctx → Ctx) : (s.modCtx i f).peers = s.peers := rfl
@[simp] theorem State.modCtx_dir (s : State) (i : Nat) (f : Ctx → Ctx) : (s.modCtx i f).dir = s.dir := rfl
@[simp] theorem State.modCtx_pri (s : State) (i : Nat) (f : Ctx → Ctx) : (s.modCtx i f).pri = s.pri := rfl
@[simp] theorem State.modCtx_hubAts (s : State) (i : Nat) (f : Ctx → Ctx) : (s.modCtx i f).hubAts = s.hubAts := rfl
@[simp] theorem State.modCtx_log (s : State) (i : Nat) (f : Ctx → Ctx) : (s.modCtx i f).log = s.log := rfl
@[simp] theorem State.modCtx_idle (s : State) (i : Nat) (f : Ctx → Ctx) : (s.modCtx i f).idle = s.idle := rfl
@[simp] theorem State.modCtx_keySlots (s : State) (i : Nat) (f : Ctx → Ctx) : (s.modCtx i f).keySlots = s.keySlots := rfl
@[simp] theorem State.modCtx_boot (s : State) (i : Nat) (f : Ctx → Ctx) : (s.modCtx i f).boot = s.boot := rfl
@[simp] theorem State.modCtx_spdm (s : State) (i : Nat) (f : Ctx → Ctx) : (s.modCtx i f).spdm = s.spdm := rfl
@[simp] theorem State.modCtx_sched (s : State) (i : Nat) (f : Ctx → Ctx) : (s.modCtx i f).sched = s.sched := rfl
@[simp] theorem State.modCtx_ctr (s : State) (i : Nat) (f : Ctx → Ctx) : (s.modCtx i f).ctr = s.ctr := rfl
@[simp] theorem State.modCtx_focus (s : State) (i : Nat) (f : Ctx → Ctx) : (s.modCtx i f).focus = s.focus := rfl
@[simp] theorem State.modCtx_iss (s : State) (i : Nat) (f : Ctx → Ctx) : (s.modCtx i f).iss = s.iss := rfl

/-! ### State.modQuad -/

@[simp] theorem State.modQuad_warps (s : State) (i j : Nat) (f : Quad → Quad) : (s.modQuad i j f).warps = s.warps := rfl
@[simp] theorem State.modQuad_blocks (s : State) (i j : Nat) (f : Quad → Quad) : (s.modQuad i j f).blocks = s.blocks := rfl
@[simp] theorem State.modQuad_launches (s : State) (i j : Nat) (f : Quad → Quad) : (s.modQuad i j f).launches = s.launches := rfl
@[simp] theorem State.modQuad_ctxs (s : State) (i j : Nat) (f : Quad → Quad) : (s.modQuad i j f).ctxs = s.ctxs := rfl
@[simp] theorem State.modQuad_ifaces (s : State) (i j : Nat) (f : Quad → Quad) : (s.modQuad i j f).ifaces = s.ifaces := rfl
@[simp] theorem State.modQuad_dies (s : State) (i j : Nat) (f : Quad → Quad) : (s.modQuad i j f).dies = s.dies := rfl
@[simp] theorem State.modQuad_engines (s : State) (i j : Nat) (f : Quad → Quad) : (s.modQuad i j f).engines = s.engines := rfl
@[simp] theorem State.modQuad_saves (s : State) (i j : Nat) (f : Quad → Quad) : (s.modQuad i j f).saves = s.saves := rfl
@[simp] theorem State.modQuad_saveCtr (s : State) (i j : Nat) (f : Quad → Quad) : (s.modQuad i j f).saveCtr = s.saveCtr := rfl
@[simp] theorem State.modQuad_mem (s : State) (i j : Nat) (f : Quad → Quad) : (s.modQuad i j f).mem = s.mem := rfl
@[simp] theorem State.modQuad_seals (s : State) (i j : Nat) (f : Quad → Quad) : (s.modQuad i j f).seals = s.seals := rfl
@[simp] theorem State.modQuad_invs (s : State) (i j : Nat) (f : Quad → Quad) : (s.modQuad i j f).invs = s.invs := rfl
@[simp] theorem State.modQuad_migs (s : State) (i j : Nat) (f : Quad → Quad) : (s.modQuad i j f).migs = s.migs := rfl
@[simp] theorem State.modQuad_hubAsks (s : State) (i j : Nat) (f : Quad → Quad) : (s.modQuad i j f).hubAsks = s.hubAsks := rfl
@[simp] theorem State.modQuad_poison (s : State) (i j : Nat) (f : Quad → Quad) : (s.modQuad i j f).poison = s.poison := rfl
@[simp] theorem State.modQuad_time (s : State) (i j : Nat) (f : Quad → Quad) : (s.modQuad i j f).time = s.time := rfl
@[simp] theorem State.modQuad_debt (s : State) (i j : Nat) (f : Quad → Quad) : (s.modQuad i j f).debt = s.debt := rfl
@[simp] theorem State.modQuad_trigger (s : State) (i j : Nat) (f : Quad → Quad) : (s.modQuad i j f).trigger = s.trigger := rfl
@[simp] theorem State.modQuad_devTick (s : State) (i j : Nat) (f : Quad → Quad) : (s.modQuad i j f).devTick = s.devTick := rfl
@[simp] theorem State.modQuad_devTicked (s : State) (i j : Nat) (f : Quad → Quad) : (s.modQuad i j f).devTicked = s.devTicked := rfl
@[simp] theorem State.modQuad_devId (s : State) (i j : Nat) (f : Quad → Quad) : (s.modQuad i j f).devId = s.devId := rfl
@[simp] theorem State.modQuad_planemap (s : State) (i j : Nat) (f : Quad → Quad) : (s.modQuad i j f).planemap = s.planemap := rfl
@[simp] theorem State.modQuad_deadmask (s : State) (i j : Nat) (f : Quad → Quad) : (s.modQuad i j f).deadmask = s.deadmask := rfl
@[simp] theorem State.modQuad_draining (s : State) (i j : Nat) (f : Quad → Quad) : (s.modQuad i j f).draining = s.draining := rfl
@[simp] theorem State.modQuad_peers (s : State) (i j : Nat) (f : Quad → Quad) : (s.modQuad i j f).peers = s.peers := rfl
@[simp] theorem State.modQuad_dir (s : State) (i j : Nat) (f : Quad → Quad) : (s.modQuad i j f).dir = s.dir := rfl
@[simp] theorem State.modQuad_pri (s : State) (i j : Nat) (f : Quad → Quad) : (s.modQuad i j f).pri = s.pri := rfl
@[simp] theorem State.modQuad_hubAts (s : State) (i j : Nat) (f : Quad → Quad) : (s.modQuad i j f).hubAts = s.hubAts := rfl
@[simp] theorem State.modQuad_log (s : State) (i j : Nat) (f : Quad → Quad) : (s.modQuad i j f).log = s.log := rfl
@[simp] theorem State.modQuad_idle (s : State) (i j : Nat) (f : Quad → Quad) : (s.modQuad i j f).idle = s.idle := rfl
@[simp] theorem State.modQuad_keySlots (s : State) (i j : Nat) (f : Quad → Quad) : (s.modQuad i j f).keySlots = s.keySlots := rfl
@[simp] theorem State.modQuad_boot (s : State) (i j : Nat) (f : Quad → Quad) : (s.modQuad i j f).boot = s.boot := rfl
@[simp] theorem State.modQuad_spdm (s : State) (i j : Nat) (f : Quad → Quad) : (s.modQuad i j f).spdm = s.spdm := rfl
@[simp] theorem State.modQuad_sched (s : State) (i j : Nat) (f : Quad → Quad) : (s.modQuad i j f).sched = s.sched := rfl
@[simp] theorem State.modQuad_ctr (s : State) (i j : Nat) (f : Quad → Quad) : (s.modQuad i j f).ctr = s.ctr := rfl
@[simp] theorem State.modQuad_focus (s : State) (i j : Nat) (f : Quad → Quad) : (s.modQuad i j f).focus = s.focus := rfl
@[simp] theorem State.modQuad_iss (s : State) (i j : Nat) (f : Quad → Quad) : (s.modQuad i j f).iss = s.iss := rfl

/-! ### State.bump -/

@[simp] theorem State.bump_warps (s : State) : (s.bump).warps = s.warps := rfl
@[simp] theorem State.bump_blocks (s : State) : (s.bump).blocks = s.blocks := rfl
@[simp] theorem State.bump_launches (s : State) : (s.bump).launches = s.launches := rfl
@[simp] theorem State.bump_ctxs (s : State) : (s.bump).ctxs = s.ctxs := rfl
@[simp] theorem State.bump_ifaces (s : State) : (s.bump).ifaces = s.ifaces := rfl
@[simp] theorem State.bump_cores (s : State) : (s.bump).cores = s.cores := rfl
@[simp] theorem State.bump_dies (s : State) : (s.bump).dies = s.dies := rfl
@[simp] theorem State.bump_engines (s : State) : (s.bump).engines = s.engines := rfl
@[simp] theorem State.bump_saves (s : State) : (s.bump).saves = s.saves := rfl
@[simp] theorem State.bump_saveCtr (s : State) : (s.bump).saveCtr = s.saveCtr := rfl
@[simp] theorem State.bump_mem (s : State) : (s.bump).mem = s.mem := rfl
@[simp] theorem State.bump_seals (s : State) : (s.bump).seals = s.seals := rfl
@[simp] theorem State.bump_invs (s : State) : (s.bump).invs = s.invs := rfl
@[simp] theorem State.bump_migs (s : State) : (s.bump).migs = s.migs := rfl
@[simp] theorem State.bump_hubAsks (s : State) : (s.bump).hubAsks = s.hubAsks := rfl
@[simp] theorem State.bump_poison (s : State) : (s.bump).poison = s.poison := rfl
@[simp] theorem State.bump_time (s : State) : (s.bump).time = s.time := rfl
@[simp] theorem State.bump_debt (s : State) : (s.bump).debt = s.debt := rfl
@[simp] theorem State.bump_trigger (s : State) : (s.bump).trigger = s.trigger := rfl
@[simp] theorem State.bump_devTick (s : State) : (s.bump).devTick = s.devTick := rfl
@[simp] theorem State.bump_devTicked (s : State) : (s.bump).devTicked = s.devTicked := rfl
@[simp] theorem State.bump_devId (s : State) : (s.bump).devId = s.devId := rfl
@[simp] theorem State.bump_planemap (s : State) : (s.bump).planemap = s.planemap := rfl
@[simp] theorem State.bump_deadmask (s : State) : (s.bump).deadmask = s.deadmask := rfl
@[simp] theorem State.bump_draining (s : State) : (s.bump).draining = s.draining := rfl
@[simp] theorem State.bump_peers (s : State) : (s.bump).peers = s.peers := rfl
@[simp] theorem State.bump_dir (s : State) : (s.bump).dir = s.dir := rfl
@[simp] theorem State.bump_pri (s : State) : (s.bump).pri = s.pri := rfl
@[simp] theorem State.bump_hubAts (s : State) : (s.bump).hubAts = s.hubAts := rfl
@[simp] theorem State.bump_log (s : State) : (s.bump).log = s.log := rfl
@[simp] theorem State.bump_idle (s : State) : (s.bump).idle = s.idle := rfl
@[simp] theorem State.bump_keySlots (s : State) : (s.bump).keySlots = s.keySlots := rfl
@[simp] theorem State.bump_boot (s : State) : (s.bump).boot = s.boot := rfl
@[simp] theorem State.bump_spdm (s : State) : (s.bump).spdm = s.spdm := rfl
@[simp] theorem State.bump_sched (s : State) : (s.bump).sched = s.sched := rfl
@[simp] theorem State.bump_focus (s : State) : (s.bump).focus = s.focus := rfl
@[simp] theorem State.bump_iss (s : State) : (s.bump).iss = s.iss := rfl

/-! ### State.out -/

@[simp] theorem State.out_warps (s : State) (o : IssOut) : (s.out o).warps = s.warps := rfl
@[simp] theorem State.out_blocks (s : State) (o : IssOut) : (s.out o).blocks = s.blocks := rfl
@[simp] theorem State.out_launches (s : State) (o : IssOut) : (s.out o).launches = s.launches := rfl
@[simp] theorem State.out_ctxs (s : State) (o : IssOut) : (s.out o).ctxs = s.ctxs := rfl
@[simp] theorem State.out_ifaces (s : State) (o : IssOut) : (s.out o).ifaces = s.ifaces := rfl
@[simp] theorem State.out_cores (s : State) (o : IssOut) : (s.out o).cores = s.cores := rfl
@[simp] theorem State.out_dies (s : State) (o : IssOut) : (s.out o).dies = s.dies := rfl
@[simp] theorem State.out_engines (s : State) (o : IssOut) : (s.out o).engines = s.engines := rfl
@[simp] theorem State.out_saves (s : State) (o : IssOut) : (s.out o).saves = s.saves := rfl
@[simp] theorem State.out_saveCtr (s : State) (o : IssOut) : (s.out o).saveCtr = s.saveCtr := rfl
@[simp] theorem State.out_mem (s : State) (o : IssOut) : (s.out o).mem = s.mem := rfl
@[simp] theorem State.out_seals (s : State) (o : IssOut) : (s.out o).seals = s.seals := rfl
@[simp] theorem State.out_invs (s : State) (o : IssOut) : (s.out o).invs = s.invs := rfl
@[simp] theorem State.out_migs (s : State) (o : IssOut) : (s.out o).migs = s.migs := rfl
@[simp] theorem State.out_hubAsks (s : State) (o : IssOut) : (s.out o).hubAsks = s.hubAsks := rfl
@[simp] theorem State.out_poison (s : State) (o : IssOut) : (s.out o).poison = s.poison := rfl
@[simp] theorem State.out_time (s : State) (o : IssOut) : (s.out o).time = s.time := rfl
@[simp] theorem State.out_debt (s : State) (o : IssOut) : (s.out o).debt = s.debt := rfl
@[simp] theorem State.out_trigger (s : State) (o : IssOut) : (s.out o).trigger = s.trigger := rfl
@[simp] theorem State.out_devTick (s : State) (o : IssOut) : (s.out o).devTick = s.devTick := rfl
@[simp] theorem State.out_devTicked (s : State) (o : IssOut) : (s.out o).devTicked = s.devTicked := rfl
@[simp] theorem State.out_devId (s : State) (o : IssOut) : (s.out o).devId = s.devId := rfl
@[simp] theorem State.out_planemap (s : State) (o : IssOut) : (s.out o).planemap = s.planemap := rfl
@[simp] theorem State.out_deadmask (s : State) (o : IssOut) : (s.out o).deadmask = s.deadmask := rfl
@[simp] theorem State.out_draining (s : State) (o : IssOut) : (s.out o).draining = s.draining := rfl
@[simp] theorem State.out_peers (s : State) (o : IssOut) : (s.out o).peers = s.peers := rfl
@[simp] theorem State.out_dir (s : State) (o : IssOut) : (s.out o).dir = s.dir := rfl
@[simp] theorem State.out_pri (s : State) (o : IssOut) : (s.out o).pri = s.pri := rfl
@[simp] theorem State.out_hubAts (s : State) (o : IssOut) : (s.out o).hubAts = s.hubAts := rfl
@[simp] theorem State.out_log (s : State) (o : IssOut) : (s.out o).log = s.log := rfl
@[simp] theorem State.out_idle (s : State) (o : IssOut) : (s.out o).idle = s.idle := rfl
@[simp] theorem State.out_keySlots (s : State) (o : IssOut) : (s.out o).keySlots = s.keySlots := rfl
@[simp] theorem State.out_boot (s : State) (o : IssOut) : (s.out o).boot = s.boot := rfl
@[simp] theorem State.out_spdm (s : State) (o : IssOut) : (s.out o).spdm = s.spdm := rfl
@[simp] theorem State.out_sched (s : State) (o : IssOut) : (s.out o).sched = s.sched := rfl
@[simp] theorem State.out_ctr (s : State) (o : IssOut) : (s.out o).ctr = s.ctr := rfl
@[simp] theorem State.out_focus (s : State) (o : IssOut) : (s.out o).focus = s.focus := rfl

@[simp] theorem State.modWarp_warps (s : State) (i : Nat) (f : Warp → Warp) : (s.modWarp i f).warps = s.warps.modify i f := rfl
@[simp] theorem State.modBlock_blocks (s : State) (i : Nat) (f : Block → Block) : (s.modBlock i f).blocks = s.blocks.modify i f := rfl
@[simp] theorem State.modLaunch_launches (s : State) (i : Nat) (f : Launch → Launch) : (s.modLaunch i f).launches = s.launches.modify i f := rfl
@[simp] theorem State.modCore_cores (s : State) (i : Nat) (f : Core → Core) : (s.modCore i f).cores = s.cores.modify i f := rfl
@[simp] theorem State.modDie_dies (s : State) (i : Nat) (f : Die → Die) : (s.modDie i f).dies = s.dies.modify i f := rfl
@[simp] theorem State.modIface_ifaces (s : State) (i : Nat) (f : Iface → Iface) : (s.modIface i f).ifaces = s.ifaces.modify i f := rfl
@[simp] theorem State.modCtx_ctxs (s : State) (i : Nat) (f : Ctx → Ctx) : (s.modCtx i f).ctxs = s.ctxs.modify (i - 1) f := rfl
@[simp] theorem State.bump_ctr (s : State) : s.bump.ctr = s.ctr + 1 := rfl
@[simp] theorem State.out_iss (s : State) (o : IssOut) : (s.out o).iss = s.iss.map (fun i => { i with out := o }) := rfl

/-! ### Reading a part that an update changed -/

theorem State.warp_of {s t : State} (h : t.warps = s.warps) (i : Nat) : t.warp i = s.warp i := by rw [State.warp, State.warp, h]
theorem State.core_of {s t : State} (h : t.cores = s.cores) (i : Nat) : t.core i = s.core i := by rw [State.core, State.core, h]
theorem State.block_of {s t : State} (h : t.blocks = s.blocks) (i : Nat) : t.block i = s.block i := by rw [State.block, State.block, h]

/-- A changed entry of a list, read back. -/
theorem getD_modify {α : Type} [Inhabited α] (l : List α) (i j : Nat) (f : α → α) :
    (l.modify i f).getD j default = if i = j ∧ j < l.length then f (l.getD j default) else l.getD j default := by
  simp only [List.getD_eq_getElem?_getD, List.getElem?_modify]
  by_cases h : i = j
  · subst h
    by_cases hl : i < l.length
    · simp [hl]
    · simp [hl]
  · simp [h]

/-- The warp that was changed, and every other warp as it was. -/
theorem State.warp_modWarp (s : State) (i j : Nat) (f : Warp → Warp) :
    (s.modWarp i f).warp j = if i = j ∧ j < s.warps.length then f (s.warp j) else s.warp j := getD_modify s.warps i j f
theorem State.block_modBlock (s : State) (i j : Nat) (f : Block → Block) :
    (s.modBlock i f).block j = if i = j ∧ j < s.blocks.length then f (s.block j) else s.block j := getD_modify s.blocks i j f
theorem State.core_modCore (s : State) (i j : Nat) (f : Core → Core) :
    (s.modCore i f).core j = if i = j ∧ j < s.cores.length then f (s.core j) else s.core j := getD_modify s.cores i j f
theorem State.launch_modLaunch (s : State) (i j : Nat) (f : Launch → Launch) :
    (s.modLaunch i f).launch j = if i = j ∧ j < s.launches.length then f (s.launch j) else s.launch j := getD_modify s.launches i j f
theorem State.die_modDie (s : State) (i j : Nat) (f : Die → Die) :
    (s.modDie i f).die j = if i = j ∧ j < s.dies.length then f (s.die j) else s.die j := getD_modify s.dies i j f
theorem State.iface_modIface (s : State) (i j : Nat) (f : Iface → Iface) :
    (s.modIface i f).iface j = if i = j ∧ j < s.ifaces.length then f (s.iface j) else s.iface j := getD_modify s.ifaces i j f

end Sys2Proof.Machine
end

