-- ==== Sys2Proof/Laws/Warp.lean ====
section
/-! SUPPORT. What the named updates of a warp may change: lanes, subgroups and where lanes come to stand. -/

namespace Sys2Proof.Machine

/-- v differs from w at most in its lanes, its subgroups, the next subgroup number and the mark that a MEM-PARK is
due. -/
def Warp.Moved (w v : Warp) : Prop :=
  v = { w with thr := v.thr, groups := v.groups, nextGid := v.nextGid, parkDue := v.parkDue }

theorem Warp.Moved.refl (w : Warp) : w.Moved w := rfl

theorem Warp.Moved.trans {u v w : Warp} (h : u.Moved v) (k : v.Moved w) : u.Moved w := by
  unfold Warp.Moved at *; rw [k, h]

theorem Warp.Moved.rf {w v : Warp} (h : w.Moved v) : v.rf = w.rf := by rw [h]
theorem Warp.Moved.llr {w v : Warp} (h : w.Moved v) : v.llr = w.llr := by rw [h]
theorem Warp.Moved.live {w v : Warp} (h : w.Moved v) : v.live = w.live := by rw [h]
theorem Warp.Moved.fr {w v : Warp} (h : w.Moved v) : v.fr = w.fr := by rw [h]
theorem Warp.Moved.txns {w v : Warp} (h : w.Moved v) : v.txns = w.txns := by rw [h]
theorem Warp.Moved.joins {w v : Warp} (h : w.Moved v) : v.joins = w.joins := by rw [h]

theorem Warp.Moved.foldl {β : Type} {f : Warp → β → Warp} (hf : ∀ (w : Warp) b, w.Moved (f w b)) (bs : List β) (w : Warp) :
    w.Moved (bs.foldl f w) := by
  induction bs generalizing w with
  | nil => exact .refl w
  | cons b r ih => exact (hf w b).trans (ih _)

theorem Warp.moved_modThread (w : Warp) (l : Nat) (f : Thread → Thread) : w.Moved (w.modThread l f) := rfl
theorem Warp.moved_modLanes (w : Warp) (m : LMask) (f : Nat → Thread → Thread) : w.Moved (w.modLanes m f) :=
  Warp.Moved.foldl (f := fun w l => w.modThread l (f l)) (fun w l => w.moved_modThread l (f l)) _ w
theorem Warp.moved_modGroup (w : Warp) (g : Nat) (f : Group → Group) : w.Moved (w.modGroup g f) := rfl
theorem Warp.moved_leave (w : Warp) (g : Nat) (m : LMask) : w.Moved (w.leave g m) := rfl
theorem Warp.moved_leaveAll (w : Warp) (m : LMask) : w.Moved (w.leaveAll m) := rfl

theorem Warp.moved_split (w : Warp) (g : Nat) (m : LMask) : w.Moved (w.split g m) := by
  unfold Warp.split; dsimp only; split
  · exact .refl w
  · rfl

theorem Warp.moved_land (w : Warp) (draw l : Nat) (pc : W64) (after : List Nat) :
    w.Moved (w.land draw l pc after) := by
  unfold Warp.land; dsimp only; split
  · rfl
  · split <;> rfl

theorem Warp.moved_landAll (w : Warp) (draw : Nat) (ts : List (Nat × W64)) (after : List Nat) :
    w.Moved (w.landAll draw ts after) :=
  Warp.Moved.foldl (f := fun (w : Warp) (t : Nat × W64) => w.land draw t.1 t.2 after) (fun w t => w.moved_land draw t.1 t.2 after) ts w

/-- Going on after an instruction moves lanes and subgroups and nothing else. -/
theorem Warp.moved_advance (w : Warp) (draw gid : Nat) (f : Fetched) : w.Moved (w.advance draw gid f) := by
  unfold Warp.advance; dsimp only; split
  · exact (w.moved_leave _ _).trans (Warp.moved_landAll _ _ _ _)
  · rfl

theorem laneBit_getLsbD (l k : Nat) : (laneBit l).getLsbD k = (decide (l = k) && decide (k < 32)) := by
  unfold laneBit
  rw [BitVec.getLsbD_ofNat, Nat.testBit_two_pow]
  by_cases h : l = k <;> by_cases h2 : k < 32 <;> simp [h, h2]

theorem hasLane_laneBit (l k : Nat) : hasLane (laneBit l) k = (decide (l = k) && decide (k < 32)) := laneBit_getLsbD l k

theorem hasLane_or (a b : LMask) (l : Nat) : hasLane (a ||| b) l = (hasLane a l || hasLane b l) := by simp [hasLane]
theorem hasLane_and (a b : LMask) (l : Nat) : hasLane (a &&& b) l = (hasLane a l && hasLane b l) := by simp [hasLane]

theorem hasLane_lt {m : LMask} {l : Nat} (h : hasLane m l = true) : l < 32 := by
  refine Decidable.byContradiction fun hl => ?_
  have := BitVec.getLsbD_of_ge m l (by omega)
  simp [hasLane, this] at h

theorem mem_lanesOf {m : LMask} {l : Nat} : l ∈ lanesOf m ↔ hasLane m l = true := by
  simp only [lanesOf, allLanes, List.mem_filter, List.mem_range]
  exact ⟨fun h => h.2, fun h => ⟨hasLane_lt h, h⟩⟩

theorem lanesOf_nodup (m : LMask) : (lanesOf m).Nodup := List.nodup_range.filter _

theorem hasLane_foldl (p : Nat → Bool) (ls : List Nat) (m : LMask) (l : Nat) (hl : l < 32) :
    hasLane (ls.foldl (fun m k => if p k then m ||| laneBit k else m) m) l = (hasLane m l || (decide (l ∈ ls) && p l)) := by
  induction ls generalizing m with
  | nil => simp
  | cons k r ih =>
    rw [List.foldl_cons, ih]
    by_cases hk : l = k
    · subst hk
      by_cases hp : p l <;> simp [hp, hasLane_or, hasLane_laneBit, hl]
    · have : k ≠ l := fun h => hk h.symm
      by_cases hp : p k <;> simp [hp, hk, this, hasLane_or, hasLane_laneBit]

theorem hasLane_maskOf (p : Nat → Bool) (l : Nat) : hasLane (maskOf p) l = (decide (l < 32) && p l) := by
  by_cases hl : l < 32
  · rw [maskOf, hasLane_foldl _ _ _ _ hl]
    simp [hasLane, allLanes, hl]
  · have := BitVec.getLsbD_of_ge (maskOf p) l (by omega)
    simp [hasLane, this, hl]

end Sys2Proof.Machine
end

