-- ==== Sys2Proof/Laws/Gate.lean ====
section
/-! SUPPORT. What the gate can answer, what an instruction does behind it, and that every instruction row passes it. -/

namespace Sys2Proof.Machine

theorem runOp_go {i : Instr} {s : State} {c : Cx} (h : gate s i = .go c) (body : Cx → State → Out) :
    runOp i s body = body c s := by rw [runOp, h]

theorem runOp_trap {i : Instr} {s : State} {c : Cx} {k : Kind} (h : gate s i = .trap c k) (body : Cx → State → Out) :
    runOp i s body = .next (s.trapAll c k) := by rw [runOp, h]

theorem runOp_hold {i : Instr} {s : State} {c : Cx} {why : Cause} (h : gate s i = .hold c why) (body : Cx → State → Out) :
    runOp i s body = .next (s.out (.held why)) := by rw [runOp, h]

theorem runOp_full {i : Instr} {s : State} {c : Cx} (h : gate s i = .full c) (body : Cx → State → Out) :
    runOp i s body = whenFull c s (body c s) := by rw [runOp, h]

theorem runLanes_go {i : Instr} {s : State} {c : Cx} (h : gate s i = .go c) (t : Option Ty) (n : Nat) (f : Cx → Nat → Res) :
    runLanes i s t n f = .next (lanesDone c t n (laneResults c f) s) := by rw [runLanes, runOp_go h]

theorem runWait_go {i : Instr} {s : State} {c : Cx} (h : gate s i = .go c) (args : Cx → State → Args)
    (step : Cx → Args → State → Prog) (ha : c.act ≠ 0) :
    runWait i s args step = (match step c (args c s) s with
      | .done s' => .next (s'.done c)
      | .trap k => .next (s.trapAll c k)
      | .wait why s' => .next (suspendKeep (s'.allocate c) c why { args c s with whole := c.g.mask == c.w.live })
      | .part m why s' => .next ((waitApart (s'.allocate c) c m why { args c s with whole := c.g.mask == c.w.live }).out .issued)) := by
  rw [runWait, runOp_go h]; exact if_neg ha

theorem runWait_done {i : Instr} {s t : State} {c : Cx} (h : gate s i = .go c) {args : Cx → State → Args}
    {step : Cx → Args → State → Prog} (ha : c.act ≠ 0) (hs : step c (args c s) s = .done t) :
    runWait i s args step = .next (t.done c) := by rw [runWait_go h args step ha, hs]

@[simp] theorem Warp.seen_view (w : Warp) (e d : Side) : (w.seen e).view d = w.view d := by cases e <;> rfl
@[simp] theorem Warp.seen_group (w : Warp) (e : Side) (g : Nat) : (w.seen e).group g = w.group g := by cases e <;> rfl
@[simp] theorem Warp.seen_rf (w : Warp) (e : Side) : (w.seen e).rf = w.rf := by cases e <;> rfl
@[simp] theorem Warp.seen_core (w : Warp) (e : Side) : (w.seen e).core = w.core := by cases e <;> rfl
@[simp] theorem Warp.seen_block (w : Warp) (e : Side) : (w.seen e).block = w.block := by cases e <;> rfl
@[simp] theorem Warp.seen_live (w : Warp) (e : Side) : (w.seen e).live = w.live := by cases e <;> rfl

/-- Of a lane, a side sees other latches at most. -/
theorem Warp.seen_thread (w : Warp) (e : Side) (l : Nat) : ∃ x, (w.seen e).thread l = { w.thread l with lat := x } := by
  cases e with
  | A => exact ⟨_, rfl⟩
  | B =>
    simp only [Warp.seen, Warp.thread, List.getD_eq_getElem?_getD, List.getElem?_map, List.getElem?_zipIdx]
    cases w.thr[l]? <;> exact ⟨_, rfl⟩

@[simp] theorem Warp.seen_deep (w : Warp) (e : Side) : (w.seen e).deep = w.deep := by
  unfold Warp.deep
  congr 1; funext l
  obtain ⟨x, hx⟩ := w.seen_thread e l
  rw [hx]

/-- What an instruction sees when it passes the gate: the slot's warp with the latches of its side, its subgroup, its
shape, the register file of its side and its active lanes. -/
theorem gate_go {i : Instr} {s : State} {c : Cx} (h : gate s i = .go c) :
    s.iss = some c.iss ∧ shape i = some c.p ∧ c.w = (s.warp c.iss.warp).seen c.iss.side ∧
      c.g = (s.warp c.iss.warp).group c.iss.gid ∧ c.rf = (s.warp c.iss.warp).view c.iss.side ∧
      c.act = c.g.mask &&& guardMask c.rf c.p.h := by
  unfold gate at h
  split at h
  · rename_i iss p hi hp
    dsimp only at h
    repeat' split at h
    all_goals first
      | (injection h with h; subst h; exact ⟨hi, hp, rfl, by simp, by simp, by simp⟩)
      | cases h
  · cases h

theorem runLanes_runOp (i : Instr) (s : State) (t : Option Ty) (n : Nat) (f : Cx → Nat → Res) :
    ∃ body, runLanes i s t n f = runOp i s body := ⟨_, rfl⟩

theorem atest_runOp (h : Hd) (d : Dv) (space : BitVec 3) (addr : Src) (s : State) :
    ∃ body, exec (.atest h d space addr) s = runOp (.atest h d space addr) s body := by
  show ∃ body, execAtest h d space addr s = _
  unfold execAtest
  exact runLanes_runOp ..

theorem acct_runOp (h : Hd) (d : Dv) (cause : BitVec 8) (quad saved : Bool) (s : State) :
    ∃ body, exec (.acct h d cause quad saved) s = runOp (.acct h d cause quad saved) s body := by
  show ∃ body, execAcct h d cause quad saved s = _
  unfold execAcct
  exact runLanes_runOp ..

theorem cnt_runOp (h : Hd) (d : Dv) (n : BitVec 6) (shadow : Bool) (s : State) :
    ∃ body, exec (.cnt h d n shadow) s = runOp (.cnt h d n shadow) s body := by
  show ∃ body, execCnt h d n shadow s = _
  unfold execCnt
  exact runLanes_runOp ..

/-- Every instruction row acts behind the gate. -/
theorem exec_runOp (i : Instr) (h : isEvent i = false) (s : State) : ∃ body, exec i s = runOp i s body := by
  cases i
  case atest => exact atest_runOp ..
  case acct => exact acct_runOp ..
  case cnt => exact cnt_runOp ..
  all_goals first
    | exact absurd (show true = false from h) (by decide)
    | exact Exists.imp (fun _ hb => hb s) (show ∃ body, ∀ s, exec _ s = runOp _ s body from ⟨_, fun _ => rfl⟩)

end Sys2Proof.Machine
end

