-- ==== Sys2Proof/Laws/Regs.lean ====
section
/-! SUPPORT. Laws of the register file (R17 to R25): what a read finds after a write, an allocation or a free. -/

namespace Sys2Proof.Machine

/-- A lane of a v register after a write of a lane of a v register. -/
theorem RegFile.vget_vset (rf : RegFile) (n l m k : Nat) (x : W32) (hl : l < 32) (hk : k < 32) :
    (rf.vset n l x).vget m k = if m = n ∧ k = l then x else rf.vget m k := by
  simp only [vget, vset, cget_cset]
  by_cases h : m = n ∧ k = l
  · obtain ⟨rfl, rfl⟩ := h; simp
  · rw [if_neg h, if_neg (by omega)]

theorem RegFile.vset_alloc (rf : RegFile) (n l : Nat) (x : W32) : (rf.vset n l x).alloc = rf.alloc := rfl

/-- A group of n registers written to a lane. -/
theorem RegFile.vget_vputs (rf : RegFile) (r l x n m k : Nat) (hl : l < 32) (hk : k < 32) :
    (rf.vputs r l x n).vget m k =
      if k = l ∧ r ≤ m ∧ m < r + n then BitVec.ofNat 32 (x / 2 ^ (32 * (m - r))) else rf.vget m k := by
  induction n generalizing rf r x with
  | zero => rw [vputs, if_neg (by omega)]
  | succ n ih =>
    rw [vputs, ih, vget_vset _ _ _ _ _ _ hl hk]
    by_cases h1 : k = l ∧ m = r
    · obtain ⟨rfl, rfl⟩ := h1
      rw [if_neg (by omega), if_pos ⟨rfl, rfl⟩, if_pos (by omega)]; simp
    · by_cases h2 : k = l ∧ r + 1 ≤ m ∧ m < r + 1 + n
      · rw [if_pos h2, if_pos (by omega), Nat.div_div_eq_div_mul, ← Nat.pow_add]
        congr 3; omega
      · rw [if_neg h2, if_neg (by omega), if_neg (by omega)]

/-- The lanes' results stand in the destination group, and everything else as it was. -/
theorem RegFile.vget_vlanes (rf : RegFile) (r n : Nat) (vs : List (Nat × Nat)) (hv : ∀ x ∈ vs, x.1 < 32)
    (hd : (vs.map (·.1)).Nodup) (m k : Nat) (hk : k < 32) :
    (rf.vlanes r n vs).vget m k =
      match vs.find? (fun x => x.1 == k) with
      | some x => if r ≤ m ∧ m < r + n then BitVec.ofNat 32 (x.2 / 2 ^ (32 * (m - r))) else rf.vget m k
      | none => rf.vget m k := by
  induction vs generalizing rf with
  | nil => rfl
  | cons y ys ih =>
    have hy := hv y (by simp)
    have hd' := (List.nodup_cons.1 (by simpa using hd : (y.1 :: ys.map (·.1)).Nodup))
    have hu : rf.vlanes r n (y :: ys) = (rf.vputs r y.1 y.2 n).vlanes r n ys := rfl
    rw [hu, ih _ (fun x hx => hv x (by simp [hx])) hd'.2, List.find?_cons]
    by_cases hyk : y.1 = k
    · have hn : ys.find? (fun x => x.1 == k) = none := by
        rw [List.find?_eq_none]
        intro x hx hxk
        exact hd'.1 (List.mem_map.2 ⟨x, hx, by simpa [hyk] using hxk⟩)
      have : (y.1 == k) = true := by simpa using hyk
      rw [hn, this]
      dsimp only
      rw [vget_vputs _ _ _ _ _ _ _ hy hk]
      by_cases h : r ≤ m ∧ m < r + n
      · rw [if_pos ⟨hyk.symm, h⟩, if_pos h]
      · rw [if_neg (fun x => h x.2), if_neg h]
    · have : (y.1 == k) = false := by simpa using hyk
      rw [this]
      simp only [vget_vputs _ _ _ _ _ _ _ hy hk]
      have hne : ¬ (k = y.1) := fun e => hyk e.symm
      simp [hne]

theorem RegFile.vputs_alloc (rf : RegFile) (r l x n : Nat) : (rf.vputs r l x n).alloc = rf.alloc := by
  induction n generalizing rf r x with
  | zero => rfl
  | succ n ih => rw [vputs, ih]; rfl

/-- rg differs from rf at most in its v registers. -/
def RegFile.VOnly (rf rg : RegFile) : Prop := rg = { rf with v := rg.v, alloc := rg.alloc }

theorem RegFile.VOnly.refl (rf : RegFile) : rf.VOnly rf := rfl
theorem RegFile.VOnly.trans {a b c : RegFile} (h : a.VOnly b) (k : b.VOnly c) : a.VOnly c := by
  unfold VOnly at *; rw [k, h]
theorem RegFile.VOnly.foldl {β : Type} {f : RegFile → β → RegFile} (hf : ∀ (r : RegFile) b, r.VOnly (f r b)) (bs : List β)
    (r : RegFile) : r.VOnly (bs.foldl f r) := by
  induction bs generalizing r with
  | nil => exact .refl r
  | cons b l ih => exact (hf r b).trans (ih _)
theorem RegFile.vonly_take (rf : RegFile) (n : Nat) : rf.VOnly (rf.take n) := by
  unfold take; split <;> rfl
theorem RegFile.vonly_drop (rf : RegFile) (n : Nat) : rf.VOnly (rf.drop n) := rfl
theorem RegFile.vonly_vset (rf : RegFile) (n l : Nat) (x : W32) : rf.VOnly (rf.vset n l x) := rfl
theorem RegFile.vonly_vputs (rf : RegFile) (r l x n : Nat) : rf.VOnly (rf.vputs r l x n) := by
  induction n generalizing rf r x with
  | zero => exact .refl rf
  | succ n ih => exact (rf.vonly_vset r l _).trans (ih _ _ _)
theorem RegFile.vonly_vlanes (rf : RegFile) (r n : Nat) (vs : List (Nat × Nat)) : rf.VOnly (rf.vlanes r n vs) :=
  RegFile.VOnly.foldl (f := fun (rf : RegFile) (x : Nat × Nat) => rf.vputs r x.1 x.2 n) (fun rf x => rf.vonly_vputs r x.1 x.2 n) vs rf
theorem RegFile.VOnly.pred {a b : RegFile} (h : a.VOnly b) (q : Nat) : b.pred q = a.pred q := by rw [h]; rfl
theorem RegFile.VOnly.sget {a b : RegFile} (h : a.VOnly b) (n : Nat) : b.sget n = a.sget n := by rw [h]; rfl

theorem RegFile.has_take (rf : RegFile) (n m : Nat) : (rf.take n).has m = (rf.has m || (decide (m = n) && decide (m < 256))) := by
  unfold take
  by_cases h : rf.has n
  · rw [if_pos h]
    by_cases hm : m = n
    · subst hm; simp [h]
    · simp [hm]
  · rw [if_neg h]
    simp only [has, BitVec.getLsbD_or, BitVec.getLsbD_ofNat, Nat.testBit_two_pow]
    by_cases hm : m = n
    · subst hm; simp
    · have hn : ¬ (n = m) := fun e => hm e.symm
      simp [hm, hn]

/-- An allocation keeps what an allocated register holds; a fresh one reads 0. -/
theorem RegFile.vget_take (rf : RegFile) (n m k : Nat) (hk : k < 32) :
    (rf.take n).vget m k = if m = n ∧ rf.has n = false then 0 else rf.vget m k := by
  unfold take
  by_cases h : rf.has n = true
  · simp [h]
  · rw [if_neg h]
    simp only [vget, cget_cclear]
    have h' : rf.has n = false := by simpa using h
    by_cases hm : m = n
    · subst hm; rw [if_pos (by omega), if_pos ⟨rfl, h'⟩]
    · rw [if_neg (by omega), if_neg (fun x => hm x.1)]

/-- Freeing a register leaves every other one alone. -/
theorem RegFile.vget_drop (rf : RegFile) (n m k : Nat) (hk : k < 32) :
    (rf.drop n).vget m k = if m = n then 0 else rf.vget m k := by
  simp only [vget, drop, cget_cclear]
  by_cases hm : m = n
  · subst hm; rw [if_pos (by omega), if_pos rfl]
  · rw [if_neg (by omega), if_neg hm]

/-- A predicate after a write of one: q0 reads true and discards writes (R24). -/
theorem RegFile.pred_setPred (rf : RegFile) (q r : Nat) (act val : LMask) :
    (rf.setPred q act val).pred r = if r = q ∧ q ≠ 0 then (rf.pred q &&& ~~~act) ||| (val &&& act) else rf.pred r := by
  unfold setPred
  by_cases hq : q = 0
  · simp [hq]
  · by_cases hr : r = q
    · subst hr; simp [hq, pred, cget_cset]
    · simp only [hq, if_false, pred, cget_cset, hr, false_and]

theorem RegFile.pred_zero (rf : RegFile) : rf.pred 0 = BitVec.allOnes 32 := rfl

end Sys2Proof.Machine
end

