-- ==== Sys2Proof/Laws/Lanes.lean ====
section
/-! SUPPORT. What writing results and going on leave in the issuing warp: the lemmas that a claim about an instruction
of one result per lane cites. -/

namespace Sys2Proof.Machine

/-- v differs from w at most in registers, lanes, subgroups and pending long-latency results. -/
def Warp.Ran (w v : Warp) : Prop :=
  v = { w with rf := v.rf, thr := v.thr, groups := v.groups, nextGid := v.nextGid, parkDue := v.parkDue, llr := v.llr }

theorem Warp.Ran.refl (w : Warp) : w.Ran w := rfl
theorem Warp.Ran.trans {u v w : Warp} (h : u.Ran v) (k : v.Ran w) : u.Ran w := by unfold Warp.Ran at *; rw [k, h]
theorem Warp.Moved.ran {w v : Warp} (h : w.Moved v) : w.Ran v := by unfold Warp.Ran; rw [h]

/-- t differs from s at most in warp i, the cores, the counter and the slot's outcome. -/
structure State.Only (i : Nat) (s t : State) : Prop where
  rest : t = { s with warps := t.warps, cores := t.cores, ctr := t.ctr, iss := t.iss }
  len : t.warps.length = s.warps.length
  others : ∀ j, j ≠ i → t.warps[j]? = s.warps[j]?

theorem State.Only.refl (i : Nat) (s : State) : State.Only i s s := ⟨rfl, rfl, fun _ _ => rfl⟩
theorem State.Only.trans {i : Nat} {s t u : State} (h : State.Only i s t) (k : State.Only i t u) : State.Only i s u :=
  ⟨by have := k.rest; rw [h.rest] at this; exact this, k.len.trans h.len, fun j hj => (k.others j hj).trans (h.others j hj)⟩

theorem State.only_modWarp (s : State) (i : Nat) (f : Warp → Warp) : State.Only i s (s.modWarp i f) :=
  ⟨rfl, by simp, fun j hj => by
    have hn : ¬ i = j := fun e => hj e.symm
    rw [State.modWarp_warps, List.getElem?_modify]; simp [hn]⟩
theorem State.only_modCore (s : State) (i k : Nat) (f : Core → Core) : State.Only i s (s.modCore k f) := ⟨rfl, rfl, fun _ _ => rfl⟩
theorem State.only_bump (s : State) (i : Nat) : State.Only i s s.bump := ⟨rfl, rfl, fun _ _ => rfl⟩
theorem State.only_out (s : State) (i : Nat) (o : IssOut) : State.Only i s (s.out o) := ⟨rfl, rfl, fun _ _ => rfl⟩
theorem State.only_allocate (s : State) (c : Cx) : State.Only c.iss.warp s (s.allocate c) := by
  unfold State.allocate; split
  · exact .refl _ s
  · exact (s.only_modWarp _ _).trans (State.only_modCore _ _ _ _)

theorem State.only_done (s : State) (c : Cx) : State.Only c.iss.warp s (s.done c) :=
  ((s.only_modWarp _ _).trans (State.only_bump _ _)).trans (State.only_out _ _ _)

theorem State.only_writeRes (s : State) (c : Cx) (t : Option Ty) (n : Nat) (vs : List (Nat × Nat)) :
    State.Only c.iss.warp s (writeRes c t n vs s) := by
  unfold writeRes; split
  · exact .refl _ s
  · exact ((s.only_allocate c).trans (State.only_modWarp _ _ _)).trans (State.only_bump _ _)

/-! ### Registers -/

theorem Warp.rf_latchLanes (w : Warp) (draw lt n : Nat) (vs : List (Nat × Nat)) : w.Moved (w.latchLanes draw lt n vs) :=
  Warp.Moved.foldl (f := fun (w : Warp) (x : Nat × Nat) => w.modThread x.1 (fun t => { t with lat := t.lat.set lt (latchVal draw x.1 n x.2) }))
    (fun w _ => w.moved_modThread _ _) vs w

theorem Warp.groups_latchLanes (w : Warp) (draw lt n : Nat) (vs : List (Nat × Nat)) :
    (w.latchLanes draw lt n vs).groups = w.groups := by
  unfold Warp.latchLanes
  induction vs generalizing w with
  | nil => rfl
  | cons x xs ih => rw [List.foldl_cons, ih]; rfl

theorem Warp.moved_setFlags (w : Warp) (fl : List (Nat × Nat)) : w.Moved (w.setFlags fl) :=
  Warp.Moved.foldl (f := fun (w : Warp) (x : Nat × Nat) => if x.2 = 0 then w
    else w.modThread x.1 (fun t => { t with fpstat := t.fpstat ||| BitVec.ofNat 5 x.2 }))
    (fun w x => by split; exacts [.refl w, w.moved_modThread _ _]) fl w

theorem freeLast_vonly (c : Cx) (rf : RegFile) : rf.VOnly (freeLast c rf) := by
  unfold freeLast; split
  · exact RegFile.VOnly.foldl (f := RegFile.drop) (fun rf r => rf.vonly_drop r) _ rf
  · exact .refl rf

theorem vget_foldl_drop (rs : List Nat) (rf : RegFile) (r l : Nat) (hl : l < 32) (h : r ∉ rs) :
    (rs.foldl RegFile.drop rf).vget r l = rf.vget r l := by
  induction rs generalizing rf with
  | nil => rfl
  | cons x xs ih =>
    rw [List.foldl_cons, ih _ (fun hy => h (by simp [hy])), RegFile.vget_drop _ _ _ _ hl, if_neg]
    exact fun e => h (by simp [e])

/-- The last reads that an instruction frees, once its subgroup is the whole live warp (R19, R20). -/
theorem mem_lasts {c : Cx} {r : Nat} : r ∈ c.p.lasts ↔ (r, true) ∈ c.p.reads ∧ r ∉ c.p.writes := by
  simp [Shape.lasts]

/-- A register that the instruction does not free keeps its value. -/
theorem vget_freeLast (c : Cx) (rf : RegFile) (r l : Nat) (hl : l < 32) (h : ¬ Frees c r) :
    (freeLast c rf).vget r l = rf.vget r l := by
  unfold freeLast; split
  · rename_i hm
    exact vget_foldl_drop _ _ _ _ hl (fun hx => h ⟨hm, mem_lasts.1 hx⟩)
  · rfl

theorem vget_foldl_take (rs : List Nat) (rf : RegFile) (r l : Nat) (hl : l < 32) (h : r ∉ rs) :
    (rs.foldl RegFile.take rf).vget r l = rf.vget r l := by
  induction rs generalizing rf with
  | nil => rfl
  | cons x xs ih =>
    rw [List.foldl_cons, ih _ (fun hx => h (by simp [hx])), RegFile.vget_take _ _ _ _ hl, if_neg]
    exact fun e => h (by simp [e.1])

/-- The register file that writing results leaves (R17, R25, R28, R61). -/
def writtenRf (c : Cx) (t : Option Ty) (n : Nat) (vs : List (Nat × Nat)) (rf : RegFile) : RegFile :=
  if c.p.d then (newRegs c).foldl RegFile.take rf
  else
    match c.p.dst with
    | .none => (newRegs c).foldl RegFile.take rf
    | .v r k => ((newRegs c).foldl RegFile.take rf).vlanes r k vs
    | .s r _ => let rf := (newRegs c).foldl RegFile.take rf
                { rf with s := cset rf.s 0 r (uniExt t n ((vs.head?.map (·.2)).getD 0)) }
    | .q r => ((newRegs c).foldl RegFile.take rf).setPred r (maskOf (fun l => vs.any (fun x => x.1 == l)))
        (maskOf (fun l => vs.any (fun x => x.1 == l && x.2 != 0)))

theorem State.regs_modIss (s : State) (c : Cx) (f : Warp → Warp) (h : c.iss.warp < s.warps.length) :
    ((s.modIss c f).warp c.iss.warp) = f (s.warp c.iss.warp) := by
  rw [State.modIss, State.warp_modWarp, if_pos ⟨rfl, h⟩]

theorem State.warp_allocate (s : State) (c : Cx) (h : c.iss.warp < s.warps.length) :
    (s.allocate c).warp c.iss.warp = { s.warp c.iss.warp with rf := (newRegs c).foldl RegFile.take (s.warp c.iss.warp).rf } := by
  unfold State.allocate; split
  · rename_i hn; rw [hn]; rfl
  · have : ∀ (s : State) f, (s.modQuad c.iss.core c.iss.quad f).warp c.iss.warp = s.warp c.iss.warp := fun s f => rfl
    rw [this, State.warp_modWarp, if_pos ⟨rfl, h⟩]

theorem warp_writeRes (c : Cx) (t : Option Ty) (n : Nat) (vs : List (Nat × Nat)) (s : State) (h : c.iss.warp < s.warps.length)
    (hv : vs ≠ []) :
    ((writeRes c t n vs s).regs c) = writtenRf c t n vs (s.regs c) ∧
      (s.warp c.iss.warp).Ran ((writeRes c t n vs s).warp c.iss.warp) ∧
      ((writeRes c t n vs s).warp c.iss.warp).groups = (s.warp c.iss.warp).groups := by
  have hne : vs.isEmpty = false := by cases vs; exacts [absurd rfl hv, rfl]
  have hb : ∀ s : State, s.bump.warp c.iss.warp = s.warp c.iss.warp := fun _ => rfl
  have hl : c.iss.warp < (s.allocate c).warps.length := by rw [(s.only_allocate c).len]; exact h
  unfold writeRes State.regs
  rw [if_neg (by simp [hne]), hb, State.regs_modIss _ _ _ hl, State.warp_allocate _ _ h]
  dsimp only
  generalize (s.warp c.iss.warp) = w
  obtain ⟨w0, hw0⟩ : ∃ w0 : Warp, w0 = { w with rf := (newRegs c).foldl RegFile.take w.rf } := ⟨_, rfl⟩
  rw [← hw0]
  have hran0 : w.Ran w0 := by rw [hw0]; rfl
  have hg0 : w0.groups = w.groups := by rw [hw0]
  have hr0 : w0.rf = (newRegs c).foldl RegFile.take w.rf := by rw [hw0]
  cases c.p.lt with
  | none =>
    unfold writtenRf
    rw [← hr0]
    cases c.p.d with
    | true => exact ⟨rfl, hran0, hg0⟩
    | false => cases c.p.dst <;> exact ⟨rfl, hran0.trans rfl, hg0⟩
  | some lt =>
    have hm := fun q => w0.rf_latchLanes s.ctr lt.toNat q vs
    have hr : ∀ q m, ((w0.latchLanes s.ctr lt.toNat q vs).unpendLatch c.g.runId lt.toNat m).rf = w0.rf := fun q _ => (hm q).rf
    have hg : ∀ q m, ((w0.latchLanes s.ctr lt.toNat q vs).unpendLatch c.g.runId lt.toNat m).groups = w.groups :=
      fun q _ => (w0.groups_latchLanes s.ctr lt.toNat q vs).trans hg0
    have hn : ∀ q m, w.Ran ((w0.latchLanes s.ctr lt.toNat q vs).unpendLatch c.g.runId lt.toNat m) :=
      fun q _ => (hran0.trans (hm q).ran).trans rfl
    unfold writtenRf
    rw [← hr0]
    cases c.p.d with
    | true => exact ⟨hr _ _, hn _ _, hg _ _⟩
    | false =>
      cases c.p.dst <;> refine ⟨?_, (hn _ (maskOf fun l => vs.any fun x => x.1 == l)).trans rfl, hg _ (maskOf fun l => vs.any fun x => x.1 == l)⟩ <;> simp only [hr, Bool.false_eq_true, if_false]

/-- What an instruction does to its registers when it goes on: last reads are freed, and nothing else. -/
theorem warp_done (c : Cx) (s : State) (h : c.iss.warp < s.warps.length) :
    (s.done c).regs c = freeLast c (s.regs c) ∧ (s.warp c.iss.warp).Ran ((s.done c).warp c.iss.warp) := by
  have e : (s.done c).warp c.iss.warp = ({ s.warp c.iss.warp with rf := freeLast c (s.regs c) } : Warp).advance s.ctr c.g.gid c.iss.f := by
    show (s.modIss c _).warp c.iss.warp = _
    rw [State.regs_modIss _ _ _ h]; rfl
  have hm := ({ s.warp c.iss.warp with rf := freeLast c (s.regs c) } : Warp).moved_advance s.ctr c.g.gid c.iss.f
  constructor
  · unfold State.regs; rw [e, hm.rf]; rfl
  · rw [e]; exact (show (s.warp c.iss.warp).Ran { s.warp c.iss.warp with rf := freeLast c (s.regs c) } from rfl).trans hm.ran

/-- No lane raises an enabled exception. -/
theorem excTraps_nil {fp : Nat} {fl : List (Nat × Nat)} (h : ∀ x ∈ fl, enabledExc fp x.2 = 0) : excTraps fp fl = [] := by
  unfold excTraps
  rw [List.filter_eq_nil_iff.2]
  · rfl
  · intro x hx; simp [h x hx]

/-- An instruction of one result per lane, none of which raises an enabled exception: what it leaves. -/
theorem lanesDone_clean (c : Cx) (t : Option Ty) (n : Nat) (f : Cx → Nat → Res) (s : State)
    (hx : ∀ l, hasLane c.act l → enabledExc c.rf.fpctl.toNat (f c l).flags = 0) :
    lanesDone c t n (laneResults c f) s =
      (writeRes c t n ((lanesOf c.act).map (fun l => (l, (f c l).val)))
        (s.modIss c (fun w => w.setFlags ((laneResults c f).map (fun x => (x.1, x.2.flags)))))).done c := by
  have h0 : ∀ x ∈ laneResults c f, enabledExc c.rf.fpctl.toNat x.2.flags = 0 := by
    intro x hx'
    obtain ⟨l, hl, rfl⟩ := List.mem_map.1 hx'
    exact hx l (mem_lanesOf.1 hl)
  unfold lanesDone
  dsimp only
  rw [excTraps_nil (by
    intro x hx'
    obtain ⟨y, hy, rfl⟩ := List.mem_map.1 hx'
    exact h0 y hy)]
  rw [State.finish, if_pos (by rfl), List.filter_eq_self.2 (by intro x hx'; simp [h0 x hx'])]
  congr 2
  simp [laneResults]

/-! ### The lanes -/

theorem Warp.thread_modThread (w : Warp) (l k : Nat) (f : Thread → Thread) :
    (w.modThread l f).thread k = if l = k ∧ k < w.thr.length then f (w.thread k) else w.thread k := getD_modify w.thr l k f

theorem Warp.thr_modThread (w : Warp) (l : Nat) (f : Thread → Thread) : (w.modThread l f).thr.length = w.thr.length := by
  simp [Warp.modThread]

/-- What landing leaves of a lane: all but where it stands, its latches, its stop and its deferrals. -/
theorem Warp.fpstat_land (w : Warp) (draw l : Nat) (pc : W64) (af : List Nat) (k : Nat) :
    ((w.land draw l pc af).thread k).fpstat = (w.thread k).fpstat := by
  have h : ∀ (w : Warp) (f : Thread → Thread), (∀ t, (f t).fpstat = t.fpstat) → ((w.modThread l f).thread k).fpstat = (w.thread k).fpstat := by
    intro w f hf; rw [Warp.thread_modThread]; split
    · exact hf _
    · rfl
  unfold Warp.land; dsimp only; split
  · exact h w _ (fun _ => rfl)
  · split <;> exact h w _ (fun _ => rfl)

theorem Warp.fpstat_landAll (w : Warp) (draw : Nat) (ts : List (Nat × W64)) (af : List Nat) (k : Nat) :
    ((w.landAll draw ts af).thread k).fpstat = (w.thread k).fpstat := by
  unfold Warp.landAll
  induction ts generalizing w with
  | nil => rfl
  | cons x xs ih => rw [List.foldl_cons, ih, Warp.fpstat_land]

theorem Warp.fpstat_advance (w : Warp) (draw gid : Nat) (f : Fetched) (k : Nat) :
    ((w.advance draw gid f).thread k).fpstat = (w.thread k).fpstat := by
  unfold Warp.advance; dsimp only; split
  · rw [Warp.fpstat_landAll]; rfl
  · rfl

theorem Warp.thr_setFlags (fl : List (Nat × Nat)) (w : Warp) : (w.setFlags fl).thr.length = w.thr.length := by
  unfold Warp.setFlags
  induction fl generalizing w with
  | nil => rfl
  | cons x xs ih =>
    rw [List.foldl_cons, ih]; split
    · rfl
    · exact w.thr_modThread _ _

/-- The sticky bits that lanes' exceptions set (R41). -/
theorem Warp.fpstat_setFlags (ls : List Nat) (g : Nat → Nat) (hd : ls.Nodup) (w : Warp) (k : Nat) (hk : k < w.thr.length) :
    ((w.setFlags (ls.map (fun l => (l, g l)))).thread k).fpstat =
      if k ∈ ls then (w.thread k).fpstat ||| BitVec.ofNat 5 (g k) else (w.thread k).fpstat := by
  unfold Warp.setFlags
  induction ls generalizing w with
  | nil => rfl
  | cons x xs ih =>
    obtain ⟨hx, hxs⟩ := List.nodup_cons.1 hd
    rw [List.map_cons, List.foldl_cons]
    dsimp only
    by_cases h0 : g x = 0
    · rw [if_pos h0, ih hxs w hk]
      by_cases hkx : k = x
      · subst hkx; simp [hx, h0]
      · simp [hkx]
    · rw [if_neg h0, ih hxs _ (by rw [Warp.thr_modThread]; exact hk), Warp.thread_modThread]
      by_cases hkx : k = x
      · subst hkx; simp [hx, hk]
      · have : ¬ (x = k) := fun e => hkx e.symm
        simp [hkx, this]

theorem Warp.thr_latchLanes (w : Warp) (draw lt n : Nat) (vs : List (Nat × Nat)) : (w.latchLanes draw lt n vs).thr.length = w.thr.length := by
  unfold Warp.latchLanes
  induction vs generalizing w with
  | nil => rfl
  | cons x xs ih => rw [List.foldl_cons, ih, Warp.thr_modThread]

theorem Warp.fpstat_latchLanes (w : Warp) (draw lt n : Nat) (vs : List (Nat × Nat)) (k : Nat) :
    ((w.latchLanes draw lt n vs).thread k).fpstat = (w.thread k).fpstat := by
  unfold Warp.latchLanes
  induction vs generalizing w with
  | nil => rfl
  | cons x xs ih => rw [List.foldl_cons, ih, Warp.thread_modThread]; split <;> rfl

theorem Latches.get_set (x : Latches) (n : Nat) (v : W64) : (x.set n v).get n = v := by
  rcases n with _ | _ | _ | n <;> rfl

/-- The latch that lanes' results go to (R28). -/
theorem Warp.latch_latchLanes (w : Warp) (draw lt n : Nat) (ls : List Nat) (g : Nat → Nat) (hd : ls.Nodup) (k : Nat)
    (hk : k < w.thr.length) (hm : k ∈ ls) :
    ((w.latchLanes draw lt n (ls.map (fun l => (l, g l)))).thread k).lat.get lt = latchVal draw k n (g k) := by
  unfold Warp.latchLanes
  have keep : ∀ (xs : List Nat), k ∉ xs → ∀ w : Warp,
      (((xs.map (fun l => (l, g l))).foldl (fun (w : Warp) (x : Nat × Nat) => w.modThread x.1 (fun t => { t with lat := t.lat.set lt (latchVal draw x.1 n x.2) })) w).thread k)
        = w.thread k := by
    intro xs
    induction xs with
    | nil => intro _ _; rfl
    | cons y ys ih =>
      intro hy w
      rw [List.map_cons, List.foldl_cons, ih (fun h => hy (by simp [h])), Warp.thread_modThread, if_neg]
      exact fun e => hy (List.mem_cons.2 (.inl e.1.symm))
  induction ls generalizing w with
  | nil => simp at hm
  | cons x xs ih =>
    obtain ⟨hx, hxs⟩ := List.nodup_cons.1 hd
    by_cases hkx : k = x
    · subst hkx
      rw [List.map_cons, List.foldl_cons, keep xs hx, Warp.thread_modThread, if_pos ⟨rfl, hk⟩]
      exact Latches.get_set _ _ _
    · rw [List.map_cons, List.foldl_cons]
      exact ih _ hxs (by rw [Warp.thr_modThread]; exact hk) (by simpa [hkx] using hm)

theorem latchVal_low (draw l n x : Nat) : (latchVal draw l n x).setWidth 32 = BitVec.ofNat 32 x := by
  unfold latchVal; split
  · unfold latch32
    apply BitVec.eq_of_toNat_eq
    simp only [BitVec.toNat_setWidth, BitVec.toNat_ofNat]
    omega
  · apply BitVec.eq_of_toNat_eq
    simp only [BitVec.toNat_setWidth, BitVec.toNat_ofNat]
    omega

theorem modify_id {α : Type} (l : List α) (i : Nat) (f : α → α) (h : ∀ x, l[i]? = some x → f x = x) : l.modify i f = l := by
  apply List.ext_getElem?
  intro j
  rw [List.getElem?_modify]
  by_cases hij : i = j
  · subst hij
    cases hx : l[i]? with
    | none => simp
    | some x => simp [h x hx]
  · simp [hij]

/-- An allocation changes at most the free-register count of the issuing quadrant. -/
theorem cores_allocate (s : State) (c : Cx) :
    ∃ n, (s.allocate c).cores = (s.modQuad c.iss.core c.iss.quad (fun q => { q with avail := n })).cores := by
  have hkeep : ∃ n, s.cores = (s.modQuad c.iss.core c.iss.quad (fun q => { q with avail := n })).cores := by
    refine ⟨(s.quad c.iss.core c.iss.quad).avail, ?_⟩
    symm
    refine modify_id _ _ _ (fun k hk => ?_)
    have hq : k.quads.modify c.iss.quad (fun q => { q with avail := (s.quad c.iss.core c.iss.quad).avail }) = k.quads := by
      refine modify_id _ _ _ (fun q hq => ?_)
      have : s.quad c.iss.core c.iss.quad = q := by
        simp only [State.quad, State.core, List.getD_eq_getElem?_getD, hk, Option.getD_some, hq]
      rw [this]
    rw [hq]
  unfold State.allocate
  split
  · exact hkeep
  · refine ⟨(s.quad c.iss.core c.iss.quad).avail - (newRegs c).length, ?_⟩
    show (s.cores.modify c.iss.core _) = s.cores.modify c.iss.core _
    apply List.ext_getElem?
    intro j
    rw [List.getElem?_modify, List.getElem?_modify]
    by_cases hj : c.iss.core = j
    · subst hj
      cases hx : s.cores[c.iss.core]? with
      | none => simp
      | some k =>
        simp only [if_true, Option.map_eq_map, Option.map_some, Option.some.injEq, Core.mk.injEq, true_and, and_true]
        apply List.ext_getElem?
        intro m
        rw [List.getElem?_modify, List.getElem?_modify]
        by_cases hm : c.iss.quad = m
        · subst hm
          cases hq : k.quads[c.iss.quad]? with
          | none => simp
          | some q =>
            have : s.quad c.iss.core c.iss.quad = q := by
              simp only [State.quad, State.core, List.getD_eq_getElem?_getD, hx, Option.getD_some, hq]
            simp [this]
        · simp [hm]
    · simp [hj]

theorem cores_writeRes (s : State) (c : Cx) (t : Option Ty) (n : Nat) (vs : List (Nat × Nat)) :
    ∃ k, (writeRes c t n vs s).cores = (s.modQuad c.iss.core c.iss.quad (fun q => { q with avail := k })).cores := by
  unfold writeRes
  split
  · obtain ⟨k, hk⟩ := cores_allocate s { c with p := { c.p with dst := .none } }
    have : s.allocate { c with p := { c.p with dst := .none } } = s := by
      unfold State.allocate newRegs Shape.writes; simp
    rw [this] at hk; exact ⟨k, hk⟩
  · exact cores_allocate s c

theorem newRegs_sub {c : Cx} {r : Nat} (h : r ∈ newRegs c) : r ∈ c.p.writes := by
  unfold newRegs at h; split at h
  · simp at h
  · exact (List.mem_filter.1 h).1

theorem has_of_not_new {c : Cx} {r : Nat} (ha : c.act ≠ 0) (hw : r ∈ c.p.writes) (h : r ∉ newRegs c) : c.w.rf.has r = true := by
  unfold newRegs at h
  rw [if_neg ha, List.mem_filter] at h
  simpa [hw] using h

theorem head_lanes (m : LMask) (f : Nat → Nat) (h : m ≠ 0) :
    (((lanesOf m).map (fun l => (l, f l))).head?.map (·.2)).getD 0 = f (lowLane m) := by
  unfold lowLane
  cases hl : lanesOf m with
  | nil =>
    exfalso; apply h
    apply BitVec.eq_of_getLsbD_eq
    intro i hi
    have : i ∉ lanesOf m := by rw [hl]; simp
    rw [mem_lanesOf] at this
    simpa [hasLane] using this
  | cons x xs => simp

theorem lanes_ne (m : LMask) (h : m ≠ 0) : lanesOf m ≠ [] := by
  intro hl; apply h
  apply BitVec.eq_of_getLsbD_eq
  intro i hi
  have : i ∉ lanesOf m := by rw [hl]; simp
  rw [mem_lanesOf] at this
  simpa [hasLane] using this

theorem lanes_zero : lanesOf 0 = [] := by decide

/-! ### What writing results leaves in the register file -/

theorem take_vonly (rs : List Nat) (rf : RegFile) : rf.VOnly (rs.foldl RegFile.take rf) :=
  RegFile.VOnly.foldl (f := RegFile.take) (fun rf n => rf.vonly_take n) rs rf

theorem writes_v {c : Cx} (hd : c.p.d = false) {r k : Nat} (h : c.p.dst = .v r k) (m : Nat) : m ∈ c.p.writes ↔ r ≤ m ∧ m < r + k := by
  unfold Shape.writes
  rw [h]; simp only [hd, Bool.false_eq_true, if_false, List.mem_map, List.mem_range]
  constructor
  · rintro ⟨a, ha, rfl⟩; omega
  · intro hm; exact ⟨m - r, by omega, by omega⟩

variable {c : Cx} {t : Option Ty} {n : Nat} {g : Nat → Nat} {rf : RegFile}

theorem lanes_lt {vs : List (Nat × Nat)} {m : LMask} (h : vs = (lanesOf m).map (fun l => (l, g l))) : ∀ x ∈ vs, x.1 < 32 := by
  subst h; intro x hx
  obtain ⟨l, hl, rfl⟩ := List.mem_map.1 hx
  exact hasLane_lt (mem_lanesOf.1 hl)

theorem find_lanes (m : LMask) (g : Nat → Nat) (k : Nat) :
    ((lanesOf m).map (fun l => (l, g l))).find? (fun x => x.1 == k) = if hasLane m k then some (k, g k) else none := by
  by_cases h : hasLane m k
  · rw [if_pos h]
    have hk := mem_lanesOf.2 h
    generalize lanesOf m = ls at hk
    induction ls with
    | nil => simp at hk
    | cons x xs ih =>
      rw [List.map_cons, List.find?_cons]
      by_cases hx : x = k
      · subst hx; simp
      · have : (x == k) = false := by simpa using hx
        rw [this]
        exact ih (by simpa [Ne.symm hx] using hk)
  · rw [if_neg h, List.find?_eq_none]
    intro x hx hxk
    obtain ⟨l, hl, rfl⟩ := List.mem_map.1 hx
    have : l = k := by simpa using hxk
    exact h (this ▸ mem_lanesOf.1 hl)

theorem any_lanes (m : LMask) (g : Nat → Nat) (k : Nat) (p : Nat × Nat → Bool) :
    ((lanesOf m).map (fun l => (l, g l))).any (fun x => x.1 == k && p x) = (hasLane m k && p (k, g k)) := by
  rw [Bool.eq_iff_iff, List.any_eq_true]
  constructor
  · rintro ⟨x, hx, hp⟩
    obtain ⟨l, hl, rfl⟩ := List.mem_map.1 hx
    rw [Bool.and_eq_true] at hp
    have : l = k := by simpa using hp.1
    subst this
    rw [Bool.and_eq_true]; exact ⟨mem_lanesOf.1 hl, hp.2⟩
  · intro h
    rw [Bool.and_eq_true] at h
    exact ⟨(k, g k), List.mem_map.2 ⟨k, mem_lanesOf.2 h.1, rfl⟩, by simp [h.2]⟩

theorem any_lanes' (m : LMask) (g : Nat → Nat) (k : Nat) :
    ((lanesOf m).map (fun l => (l, g l))).any (fun x => x.1 == k) = hasLane m k := by
  have := any_lanes m g k (fun _ => true)
  simpa using this

theorem nodup_lanes (m : LMask) (g : Nat → Nat) : (((lanesOf m).map (fun l => (l, g l))).map (·.1)).Nodup := by
  rw [List.map_map]
  have : ((fun x : Nat × Nat => x.1) ∘ fun l => (l, g l)) = id := rfl
  rw [this, List.map_id]; exact lanesOf_nodup m

theorem written_out (r l : Nat) (hl : l < 32) (hr : r ∉ c.p.writes) :
    (writtenRf c t n ((lanesOf c.act).map (fun l => (l, g l))) rf).vget r l = rf.vget r l := by
  have hn : r ∉ newRegs c := fun h => hr (newRegs_sub h)
  have ht := vget_foldl_take (newRegs c) rf r l hl hn
  unfold writtenRf
  cases hd : c.p.d with
  | true => exact ht
  | false =>
    rw [if_neg (by simp)]
    cases hdst : c.p.dst with
    | none => exact ht
    | v r0 k =>
      dsimp only
      rw [RegFile.vget_vlanes _ _ _ _ (lanes_lt rfl) (nodup_lanes _ _) _ _ hl, find_lanes]
      have := (writes_v hd hdst r).not.1 hr
      split <;> [rw [if_neg this]; skip] <;> exact ht
    | s r0 k => exact ht
    | q r0 => dsimp only; unfold RegFile.setPred; split <;> exact ht

theorem written_in (hd : c.p.d = false) {r k : Nat} (h : c.p.dst = .v r k) (j l : Nat) (hj : j < k) (hl : hasLane c.act l) :
    (writtenRf c t n ((lanesOf c.act).map (fun l => (l, g l))) rf).vget (r + j) l = BitVec.ofNat 32 (g l / 2 ^ (32 * j)) := by
  unfold writtenRf
  rw [if_neg (by simp [hd]), h]
  dsimp only
  rw [RegFile.vget_vlanes _ _ _ _ (lanes_lt rfl) (nodup_lanes _ _) _ _ (hasLane_lt hl), find_lanes, if_pos hl]
  dsimp only
  rw [if_pos (by omega), show r + j - r = j by omega]

theorem vget_take_zero (rs : List Nat) (rf : RegFile) (r l : Nat) (hl : l < 32) (h : rf.vget r l = 0) :
    (rs.foldl RegFile.take rf).vget r l = 0 := by
  induction rs generalizing rf with
  | nil => exact h
  | cons x xs ih => rw [List.foldl_cons]; exact ih _ (by rw [RegFile.vget_take _ _ _ _ hl, h]; split <;> rfl)

/-- A register that is allocated reads 0 in the lanes not written (R17). -/
theorem vget_take_new (rs : List Nat) (rf : RegFile) (r l : Nat) (hl : l < 32) (h : r ∈ rs) (hh : rf.has r = false) :
    (rs.foldl RegFile.take rf).vget r l = 0 := by
  induction rs generalizing rf with
  | nil => simp at h
  | cons x xs ih =>
    rw [List.foldl_cons]
    by_cases hx : r = x
    · subst hx
      exact vget_take_zero xs _ r l hl (by rw [RegFile.vget_take _ _ _ _ hl, if_pos ⟨rfl, hh⟩])
    · by_cases hh' : (rf.take x).has r = false
      · exact ih _ (by simpa [hx] using h) hh'
      · rw [RegFile.has_take, hh] at hh'; simp [hx] at hh'

theorem written_pred (q : Nat) (hq : ∀ r, c.p.dst = .q r → q ≠ r) (vs : List (Nat × Nat)) : (writtenRf c t n vs rf).pred q = rf.pred q := by
  have ht := (take_vonly (newRegs c) rf).pred q
  unfold writtenRf
  split
  · exact ht
  · cases hdst : c.p.dst with
    | none => exact ht
    | v r k => exact (RegFile.VOnly.pred (RegFile.vonly_vlanes _ _ _ _) q).trans ht
    | s r k => exact ht
    | q r => dsimp only; rw [RegFile.pred_setPred, if_neg (fun e => hq r hdst e.1)]; exact ht

theorem written_sget (m : Nat) (hm : ∀ r k, c.p.dst = .s r k → m ≠ r) (vs : List (Nat × Nat)) : (writtenRf c t n vs rf).sget m = rf.sget m := by
  have ht := (take_vonly (newRegs c) rf).sget m
  unfold writtenRf
  split
  · exact ht
  · cases hdst : c.p.dst with
    | none => exact ht
    | v r k => exact (RegFile.VOnly.sget (RegFile.vonly_vlanes _ _ _ _) m).trans ht
    | s r k => dsimp only [RegFile.sget]; rw [cget_cset, if_neg (hm r k hdst)]; exact ht
    | q r => dsimp only; unfold RegFile.setPred; split <;> exact ht

theorem written_rest (vs : List (Nat × Nat)) : (writtenRf c t n vs rf).b = rf.b ∧ (writtenRf c t n vs rf).fpctl = rf.fpctl := by
  have ht := take_vonly (newRegs c) rf
  have hb : ((newRegs c).foldl RegFile.take rf).b = rf.b ∧ ((newRegs c).foldl RegFile.take rf).fpctl = rf.fpctl := by
    rw [ht]; exact ⟨rfl, rfl⟩
  unfold writtenRf
  split
  · exact hb
  · cases hdst : c.p.dst with
    | none => exact hb
    | v r k =>
      have hv := RegFile.vonly_vlanes ((newRegs c).foldl RegFile.take rf) r k vs
      dsimp only; rw [hv]; exact hb
    | s r k => exact hb
    | q r => dsimp only; unfold RegFile.setPred; split <;> exact hb

end Sys2Proof.Machine
end

