-- ==== Sys2Proof/Laws/Results.lean ====
section
/-! SUPPORT. What an instruction of one result per lane leaves: the lemma that a claim about such an instruction cites. -/

namespace Sys2Proof.Machine

theorem Warp.moved_modIss (s : State) (c : Cx) (f : Warp → Warp) (h : c.iss.warp < s.warps.length) (hf : ∀ w : Warp, w.Moved (f w)) :
    (s.warp c.iss.warp).Moved ((s.modIss c f).warp c.iss.warp) := by
  rw [State.regs_modIss _ _ _ h]; exact hf _

theorem writeRes_nil (c : Cx) (t : Option Ty) (n : Nat) (s : State) : writeRes c t n [] s = s := rfl

theorem freeLast_rest (c : Cx) (rf : RegFile) :
    (∀ q, (freeLast c rf).pred q = rf.pred q) ∧ (∀ m, (freeLast c rf).sget m = rf.sget m) ∧ (freeLast c rf).b = rf.b
      ∧ (freeLast c rf).fpctl = rf.fpctl := by
  have h := freeLast_vonly c rf
  exact ⟨fun q => h.pred q, fun m => h.sget m, by rw [h], by rw [h]⟩

/-- What the lemmas about results need of a state and of what an instruction sees: its warp is there with 32 lanes, and
its register file is the one that it saw. -/
structure Sees (s : State) (c : Cx) : Prop where
  warp : c.iss.warp < s.warps.length
  lanes : (s.warp c.iss.warp).thr.length = 32
  regs : c.w.rf = s.regs c

theorem Goes.sees {i : Instr} {s : State} {c : Cx} (h : Goes i s c) : Sees s c :=
  ⟨h.warp, h.lanes, by rw [(gate_go h.gate).2.2.1, Warp.seen_rf]; rfl⟩

/-- The frame of an instruction of one result per lane in which no enabled exception is raised. -/
theorem lanesDone_frame {s : State} {c : Cx} (h : Sees s c) (t : Option Ty) (n : Nat) (f : Cx → Nat → Res)
    (hx : ∀ l, hasLane c.act l → enabledExc c.rf.fpctl.toNat (f c l).flags = 0) :
    Frame c s (lanesDone c t n (laneResults c f) s) := by
  rw [lanesDone_clean c t n f s hx]
  have hw := h.warp
  generalize hfl : (fun w : Warp => w.setFlags ((laneResults c f).map (fun x => (x.1, x.2.flags)))) = F
  have hF : ∀ w : Warp, w.Moved (F w) := fun w => by rw [← hfl]; exact w.moved_setFlags _
  obtain ⟨S1, hS1⟩ : ∃ S1, S1 = s.modIss c F := ⟨_, rfl⟩
  rw [← hS1]
  have o1 : State.Only c.iss.warp s S1 := hS1 ▸ s.only_modWarp _ _
  have m1 : (s.warp c.iss.warp).Moved (S1.warp c.iss.warp) := hS1 ▸ Warp.moved_modIss s c F hw hF
  have r1 : S1.regs c = s.regs c := m1.rf
  have hw1 : c.iss.warp < S1.warps.length := by rw [o1.len]; exact hw
  generalize hvs : (lanesOf c.act).map (fun l => (l, (f c l).val)) = vs
  obtain ⟨S2, hS2⟩ : ∃ S2, S2 = writeRes c t n vs S1 := ⟨_, rfl⟩
  rw [← hS2]
  have o2 : State.Only c.iss.warp S1 S2 := hS2 ▸ S1.only_writeRes c t n vs
  have hw2 : c.iss.warp < S2.warps.length := by rw [o2.len]; exact hw1
  have ran2 : (S1.warp c.iss.warp).Ran (S2.warp c.iss.warp) := by
    by_cases hv : vs = []
    · rw [hS2, hv, writeRes_nil]; exact .refl _
    · rw [hS2]; exact (warp_writeRes c t n vs S1 hw1 hv).2.1
  have r2 : S2.regs c = S1.regs c ∨ S2.regs c = writtenRf c t n vs (s.regs c) := by
    by_cases hv : vs = []
    · left; rw [hS2, hv, writeRes_nil]
    · right; rw [hS2, (warp_writeRes c t n vs S1 hw1 hv).1, r1]
  have hd := warp_done c S2 hw2
  have o3 := S2.only_done c
  have o := (o1.trans o2).trans o3
  have hfr := freeLast_rest c (S2.regs c)
  have hwr := @written_rest c t n (s.regs c) vs
  refine ⟨o.rest, o.others, ?_, ?_, ?_, ?_, ?_, ?_, ?_⟩
  · exact (m1.ran.trans ran2).trans hd.2
  · obtain ⟨k, hk⟩ := cores_writeRes S1 c t n vs
    refine ⟨k, ?_⟩
    show S2.cores = _
    rw [hS2, hk]
    show S1.cores.modify _ _ = s.cores.modify _ _
    rw [hS1]; rfl
  · intro r l hl hr hf
    rw [hd.1, vget_freeLast c _ r l hl hf]
    rcases r2 with e | e <;> rw [e]
    · rw [r1]
    · rw [← hvs]; exact written_out r l hl hr
  · intro q hq
    rw [hd.1, hfr.1]
    rcases r2 with e | e <;> rw [e]
    · rw [r1]
    · exact written_pred q hq vs
  · intro m hm
    rw [hd.1, hfr.2.1]
    rcases r2 with e | e <;> rw [e]
    · rw [r1]
    · exact written_sget m hm vs
  · rw [hd.1, hfr.2.2.1]
    rcases r2 with e | e <;> rw [e]
    · rw [r1]
    · exact hwr.1
  · rw [hd.1, hfr.2.2.2]
    rcases r2 with e | e <;> rw [e]
    · rw [r1]
    · exact hwr.2

theorem written_idle {c : Cx} {t : Option Ty} {n : Nat} {g : Nat → Nat} {rf : RegFile} (hd : c.p.d = false) {r k : Nat} (h : c.p.dst = .v r k)
    (ha : c.act ≠ 0) (hrf : c.w.rf = rf) (j l : Nat) (hj : j < k) (h32 : l < 32) (hl : hasLane c.act l = false) :
    (writtenRf c t n ((lanesOf c.act).map (fun l => (l, g l))) rf).vget (r + j) l = if rf.has (r + j) then rf.vget (r + j) l else 0 := by
  unfold writtenRf
  rw [if_neg (by simp [hd]), h]
  dsimp only
  rw [RegFile.vget_vlanes _ _ _ _ (lanes_lt rfl) (nodup_lanes _ _) _ _ h32, find_lanes, hl, if_neg (by simp)]
  dsimp only
  have hw : r + j ∈ c.p.writes := (writes_v hd h _).2 (by omega)
  by_cases hh : rf.has (r + j)
  · rw [if_pos hh, vget_foldl_take _ _ _ _ h32]
    unfold newRegs; rw [if_neg ha, List.mem_filter, hrf, hh]; simp
  · rw [if_neg hh]
    refine vget_take_new _ _ _ _ h32 ?_ (by simpa using hh)
    unfold newRegs; rw [if_neg ha, List.mem_filter, hrf]; simp [hw, hh]

/-- What writing results leaves in the lanes of the issuing warp. -/
theorem thr_writeRes (c : Cx) (t : Option Ty) (n : Nat) (vs : List (Nat × Nat)) (s : State) (h : c.iss.warp < s.warps.length) :
    ((vs = [] ∨ c.p.lt = none) ∧ ((writeRes c t n vs s).warp c.iss.warp).thr = (s.warp c.iss.warp).thr) ∨
      ∃ lt, c.p.lt = some lt ∧ ((writeRes c t n vs s).warp c.iss.warp).thr =
        ((s.warp c.iss.warp).latchLanes s.ctr lt.toNat (match c.p.dst with | .q _ => 1 | _ => n) vs).thr := by
  have hb : ∀ s : State, s.bump.warp c.iss.warp = s.warp c.iss.warp := fun _ => rfl
  have hl : c.iss.warp < (s.allocate c).warps.length := by rw [(s.only_allocate c).len]; exact h
  have hthr : ∀ (w v : Warp) d q, w.thr = v.thr → (w.latchLanes s.ctr d q vs).thr = (v.latchLanes s.ctr d q vs).thr := by
    unfold Warp.latchLanes
    induction vs with
    | nil => exact fun w v d q h => h
    | cons x xs ih => intro w v d q h; exact ih _ _ d q (by simp [Warp.modThread, h])
  unfold writeRes
  split
  · rename_i hv; exact .inl ⟨.inl (by simpa using hv), rfl⟩
  · rw [hb, State.regs_modIss _ _ _ hl, State.warp_allocate _ _ h]
    cases hlt : c.p.lt with
    | none =>
      refine .inl ⟨.inr rfl, ?_⟩
      cases c.p.d <;> [skip; rfl]
      cases c.p.dst <;> rfl
    | some lt =>
      right; refine ⟨lt, rfl, ?_⟩
      dsimp only
      have e := hthr { s.warp c.iss.warp with rf := (newRegs c).foldl RegFile.take (s.warp c.iss.warp).rf } (s.warp c.iss.warp) lt.toNat (match c.p.dst with | .q _ => 1 | _ => n) rfl
      cases c.p.d
      · cases hdst : c.p.dst <;> rw [hdst] at e <;> exact e
      · exact e

theorem thread_thr {w v : Warp} (h : w.thr = v.thr) (l : Nat) : w.thread l = v.thread l := by unfold Warp.thread; rw [h]

/-- An instruction of one result per lane, none of which raises an enabled exception, leaves its results and nothing
else. -/
theorem lanesDone_results {s : State} {c : Cx} (h : Sees s c) (t : Option Ty) (n : Nat) (f : Cx → Nat → Res)
    (hx : ∀ l, hasLane c.act l → enabledExc c.rf.fpctl.toNat (f c l).flags = 0) :
    Results c t n (f c) s (lanesDone c t n (laneResults c f) s) := by
  have hF := lanesDone_frame h t n f hx
  rw [lanesDone_clean c t n f s hx] at hF ⊢
  have hw := h.warp
  obtain ⟨S1, hS1⟩ : ∃ S1, S1 = s.modIss c (fun w : Warp => w.setFlags ((laneResults c f).map (fun x => (x.1, x.2.flags)))) := ⟨_, rfl⟩
  rw [← hS1] at hF ⊢
  have w1 : S1.warp c.iss.warp = (s.warp c.iss.warp).setFlags ((lanesOf c.act).map (fun l => (l, (f c l).flags))) := by
    rw [hS1, State.regs_modIss _ _ _ hw]
    congr 1
    simp [laneResults]
  have m1 : (s.warp c.iss.warp).Moved (S1.warp c.iss.warp) := by rw [w1]; exact Warp.moved_setFlags _ _
  have r1 : S1.regs c = s.regs c := m1.rf
  have o1 : State.Only c.iss.warp s S1 := hS1 ▸ s.only_modWarp _ _
  have hw1 : c.iss.warp < S1.warps.length := by rw [o1.len]; exact hw
  have fl1 : ∀ k, k < 32 → ((S1.warp c.iss.warp).thread k).fpstat =
      if hasLane c.act k then (s.lane c k).fpstat ||| BitVec.ofNat 5 (f c k).flags else (s.lane c k).fpstat := by
    intro k hk
    rw [w1, Warp.fpstat_setFlags _ _ (lanesOf_nodup _) _ _ (by rw [h.lanes]; exact hk)]
    simp only [mem_lanesOf]; rfl
  have len1 : (S1.warp c.iss.warp).thr.length = 32 := by rw [w1, Warp.thr_setFlags, h.lanes]
  obtain ⟨vs, hvs⟩ : ∃ vs, vs = (lanesOf c.act).map (fun l => (l, (f c l).val)) := ⟨_, rfl⟩
  rw [← hvs] at hF ⊢
  obtain ⟨S2, hS2⟩ : ∃ S2, S2 = writeRes c t n vs S1 := ⟨_, rfl⟩
  rw [← hS2] at hF ⊢
  have o2 : State.Only c.iss.warp S1 S2 := hS2 ▸ S1.only_writeRes c t n vs
  have hw2 : c.iss.warp < S2.warps.length := by rw [o2.len]; exact hw1
  have hd := warp_done c S2 hw2
  have hfr := freeLast_rest c (S2.regs c)
  have hrf : c.w.rf = s.regs c := h.regs
  have z : c.act = 0 → S2 = S1 := fun e => by rw [hS2, hvs, e, lanes_zero]; rfl
  have nz : c.act ≠ 0 → S2.regs c = writtenRf c t n vs (s.regs c) := fun e => by
    rw [hS2, (warp_writeRes c t n vs S1 hw1 (by rw [hvs]; simpa using lanes_ne _ e)).1, r1]
  have act_ne : ∀ l, hasLane c.act l → c.act ≠ 0 := by
    intro l hl e; rw [e] at hl; simp [hasLane] at hl
  have thrD : ∀ k, (((S2.done c).warp c.iss.warp).thread k).fpstat = ((S2.warp c.iss.warp).thread k).fpstat := by
    intro k
    have : (S2.done c).warp c.iss.warp = ({ S2.warp c.iss.warp with rf := freeLast c (S2.regs c) } : Warp).advance S2.ctr c.g.gid c.iss.f := by
      show (S2.modIss c _).warp c.iss.warp = _
      rw [State.regs_modIss _ _ _ hw2]; rfl
    rw [this, Warp.fpstat_advance]; rfl
  refine ⟨hF, ?_, ?_, ?_, ?_, ?_⟩
  · intro hd0 l hl
    have ha := act_ne l hl
    unfold Holds
    cases hdst : c.p.dst with
    | none => trivial
    | s => trivial
    | v r k =>
      intro j hj
      rw [hd.1, vget_freeLast c _ _ _ (hasLane_lt hl) (fun x => x.2.2 ((writes_v hd0 hdst _).2 (by omega))), nz ha, hvs]
      exact written_in hd0 hdst j l hj hl
    | q r =>
      intro hr
      rw [hd.1, hfr.1, nz ha]
      unfold writtenRf
      rw [if_neg (by simp [hd0]), hdst]
      dsimp only
      rw [RegFile.pred_setPred, if_pos ⟨rfl, hr⟩, hasLane_or, hasLane_and, hasLane_and, hasLane_maskOf, hasLane_maskOf, hvs,
        any_lanes c.act (fun l => (f c l).val) l (fun x => x.2 != 0), any_lanes' c.act (fun l => (f c l).val)]
      have hl32 := hasLane_lt hl
      have : ∀ m : LMask, hasLane (~~~m) l = !hasLane m l := by intro m; simp [hasLane, hl32]
      rw [this, hasLane_maskOf, any_lanes' c.act (fun l => (f c l).val), hl]
      simp [hl32]
  · intro l hl32 hidle
    unfold Keeps
    cases hdst : c.p.dst with
    | none => trivial
    | s => trivial
    | v r k =>
      intro j hj hf
      rw [hd.1, vget_freeLast c _ _ _ hl32 hf]
      by_cases ha : c.act = 0
      · rw [z ha, r1]; simp [ha]
      · rw [nz ha, hvs]
        cases hd0 : c.p.d with
        | true =>
          rw [written_out _ _ hl32]
          · simp
          · unfold Shape.writes; rw [hdst]; simp [hd0]
        | false =>
          rw [written_idle hd0 hdst ha hrf j l hj hl32 (by simpa [hd0] using hidle)]
          have : (c.act == 0) = false := by simpa using ha
          rw [this, Bool.or_false, Bool.or_false]
    | q r =>
      dsimp only
      rw [hd.1, hfr.1]
      by_cases ha : c.act = 0
      · rw [z ha, r1]
      · rw [nz ha]
        cases hd0 : c.p.d with
        | true =>
          unfold writtenRf
          rw [hd0, if_pos rfl, (take_vonly (newRegs c) (s.regs c)).pred]
        | false =>
          unfold writtenRf
          rw [if_neg (by simp [hd0]), hdst]
          dsimp only
          have hact : hasLane c.act l = false := by simpa [hd0] using hidle
          have hn : ∀ m : LMask, hasLane (~~~m) l = !hasLane m l := by intro m; simp [hasLane, hl32]
          rw [RegFile.pred_setPred]
          split
          · rw [hasLane_or, hasLane_and, hasLane_and, hn, hasLane_maskOf, hvs,
              any_lanes' c.act (fun l => (f c l).val), hact, (take_vonly (newRegs c) (s.regs c)).pred]
            simp
          · rw [(take_vonly (newRegs c) (s.regs c)).pred]
  · intro r k hdst
    rw [hd.1, hfr.2.1]
    by_cases ha : c.act = 0
    · rw [z ha, r1]; simp [ha]
    · rw [nz ha]
      cases hd0 : c.p.d with
      | true =>
        unfold writtenRf
        rw [hd0, if_pos rfl, (take_vonly (newRegs c) (s.regs c)).sget]; simp
      | false =>
        unfold writtenRf
        rw [if_neg (by simp [hd0]), hdst]
        dsimp only [RegFile.sget]
        rw [cget_cset, if_pos rfl, if_pos ⟨rfl, ha⟩, hvs, head_lanes c.act (fun l => (f c l).val) ha]
  · intro he lt hlt l hl
    have hl32 := hasLane_lt hl
    have ha := act_ne l hl
    have ht : ((S2.done c).lane c l) = (S2.warp c.iss.warp).thread l := by
      show ((S2.modIss c _).warp c.iss.warp).thread l = _
      rw [State.regs_modIss _ _ _ hw2]
      dsimp only
      unfold Warp.advance
      rw [he]; rfl
    have hl2 : (S2.warp c.iss.warp).thread l = ((S1.warp c.iss.warp).latchLanes S1.ctr lt.toNat (match c.p.dst with | .q _ => 1 | _ => n) vs).thread l := by
      rw [hS2]
      rcases thr_writeRes c t n vs S1 hw1 with ⟨e, _⟩ | ⟨lt', hlt', e⟩
      · rcases e with e | e
        · rw [hvs] at e; simp [lanes_ne _ ha] at e
        · rw [hlt] at e; cases e
      · rw [hlt] at hlt'; cases hlt'; exact thread_thr e l
    rw [ht, hl2, hvs, Warp.latch_latchLanes _ _ _ _ _ (fun l => (f c l).val) (lanesOf_nodup _) _ (by rw [len1]; exact hl32) (mem_lanesOf.2 hl)]
    refine ⟨latchVal_low _ _ _ _, ?_⟩
    intro hn hq
    have : (match c.p.dst with | .q _ => 1 | _ => n) = n := by
      cases hdst : c.p.dst <;> first | rfl | exact absurd hdst (hq _)
    rw [this, hn]; rfl
  · intro l hl
    show (((S2.done c).warp c.iss.warp).thread l).fpstat = _
    rw [thrD, ← fl1 l hl, hS2]
    rcases thr_writeRes c t n vs S1 hw1 with ⟨_, e⟩ | ⟨lt', hlt', e⟩
    · rw [thread_thr e]
    · rw [thread_thr e, Warp.fpstat_latchLanes]

theorem setFlags_none (ls : List Nat) (w : Warp) : w.setFlags (ls.map (fun l => (l, 0))) = w := by
  unfold Warp.setFlags
  induction ls generalizing w with
  | nil => rfl
  | cons x xs ih => rw [List.map_cons, List.foldl_cons]; exact ih w

theorem modIss_id (s : State) (c : Cx) (f : Warp → Warp) (h : ∀ w, f w = w) : s.modIss c f = s := by
  have : s.warps.modify c.iss.warp f = s.warps := modify_id _ _ _ (fun x _ => h x)
  unfold State.modIss State.modWarp; rw [this]

/-- An instruction that writes a result without exceptions in each active lane and goes on leaves its results and
nothing else: the lemma for instructions with an effect besides their results, which u already has. -/
theorem write_results {u : State} {c : Cx} (h : Sees u c) (t : Option Ty) (n : Nat) (v : Nat → Nat) :
    Results c t n (fun l => ⟨v l, 0⟩) u ((writeRes c t n ((lanesOf c.act).map (fun l => (l, v l))) u).done c) := by
  have hx : ∀ l, hasLane c.act l → enabledExc c.rf.fpctl.toNat ((fun _ l => ⟨v l, 0⟩ : Cx → Nat → Res) c l).flags = 0 := by
    intro l _; simp [enabledExc]
  have := lanesDone_results h t n (fun _ l => ⟨v l, 0⟩) hx
  rw [lanesDone_clean c t n _ u hx] at this
  have e : (laneResults c (fun _ l => (⟨v l, 0⟩ : Res))).map (fun x => (x.1, x.2.flags)) = (lanesOf c.act).map (fun l => (l, 0)) := by
    simp [laneResults]
  rw [e, modIss_id u c _ (setFlags_none _)] at this
  exact this

end Sys2Proof.Machine
end

