-- ==== Sys2Proof/Laws/After.lean ====
section
/-! SUPPORT. The frame of an instruction that goes on: the lemma that a claim about an instruction with an effect of its
own cites. -/

namespace Sys2Proof.Machine

/-- What landing leaves of a lane. -/
def Thread.Lands (t u : Thread) : Prop := ∃ st lat stop, u = { t with st := st, lat := lat, stop := stop }

theorem Thread.Lands.refl (t : Thread) : t.Lands t := ⟨_, _, _, rfl⟩
theorem Thread.Lands.trans {t u v : Thread} (h : t.Lands u) (k : u.Lands v) : t.Lands v := by
  obtain ⟨a, b, c, rfl⟩ := h
  obtain ⟨a', b', c', rfl⟩ := k
  exact ⟨a', b', c', rfl⟩

theorem Warp.lands_modThread (w : Warp) (l : Nat) (f : Thread → Thread) (hf : ∀ t : Thread, t.Lands (f t)) (k : Nat) :
    (w.thread k).Lands ((w.modThread l f).thread k) := by
  rw [Warp.thread_modThread]; split
  · exact hf _
  · exact .refl _

theorem Warp.lands_land (w : Warp) (draw l : Nat) (pc : W64) (af : List Nat) (k : Nat) :
    (w.thread k).Lands ((w.land draw l pc af).thread k) := by
  unfold Warp.land; dsimp only; split
  · exact w.lands_modThread l _ (fun t => ⟨_, _, _, rfl⟩) k
  · split <;> exact w.lands_modThread l _ (fun t => ⟨_, _, _, rfl⟩) k

theorem Warp.lands_landAll (w : Warp) (draw : Nat) (ts : List (Nat × W64)) (af : List Nat) (k : Nat) :
    (w.thread k).Lands ((w.landAll draw ts af).thread k) := by
  unfold Warp.landAll
  induction ts generalizing w with
  | nil => exact .refl _
  | cons x xs ih => exact (w.lands_land draw x.1 x.2 af k).trans (ih _)

theorem Warp.lands_advance (w : Warp) (draw gid : Nat) (f : Fetched) (k : Nat) :
    (w.thread k).Lands ((w.advance draw gid f).thread k) := by
  unfold Warp.advance; dsimp only; split
  · exact Warp.lands_landAll _ _ _ _ _
  · exact .refl _

theorem RegFile.has_drop_foldl (rs : List Nat) (rf : RegFile) (r : Nat) :
    (rs.foldl RegFile.drop rf).has r = (rf.has r && !rs.contains r) := by
  induction rs generalizing rf with
  | nil => simp
  | cons x xs ih =>
    rw [List.foldl_cons, ih, List.contains_cons]
    have : (rf.drop x).has r = (rf.has r && !(r == x)) := by
      simp only [drop, has, BitVec.getLsbD_and, BitVec.getLsbD_not, BitVec.getLsbD_ofNat, Nat.testBit_two_pow]
      by_cases hr : r < 256
      · by_cases hx : x = r
        · simp [hr, hx]
        · simp [hr, hx, Ne.symm hx]
      · simp [BitVec.getLsbD_of_ge _ _ (by omega : 256 ≤ r)]
    rw [this]
    cases rf.has r <;> simp

theorem has_freeLast_keeps (c : Cx) (rf : RegFile) (r : Nat) (h : ¬ Frees c r) : (freeLast c rf).has r = rf.has r := by
  unfold freeLast
  split
  · rename_i hm
    rw [RegFile.has_drop_foldl]
    simpa using fun _ hr => h ⟨hm, mem_lasts.1 hr⟩
  · rfl

theorem has_freeLast_frees (c : Cx) (rf : RegFile) (r : Nat) (h : Frees c r) : (freeLast c rf).has r = false := by
  unfold freeLast
  rw [if_pos h.1, RegFile.has_drop_foldl]
  simp [mem_lasts.2 h.2]

/-- What an instruction that goes on leaves of the state that its own effect left. -/
theorem done_after (c : Cx) (u : State) (h : c.iss.warp < u.warps.length) : After c u (u.done c) := by
  have o := u.only_done c
  have e : (u.done c).warp c.iss.warp = ({ u.warp c.iss.warp with rf := freeLast c (u.regs c) } : Warp).advance u.ctr c.g.gid c.iss.f := by
    show (u.modIss c _).warp c.iss.warp = _
    rw [State.regs_modIss _ _ _ h]; rfl
  have hm := ({ u.warp c.iss.warp with rf := freeLast c (u.regs c) } : Warp).moved_advance u.ctr c.g.gid c.iss.f
  have hr : (u.done c).regs c = freeLast c (u.regs c) := (warp_done c u h).1
  refine ⟨?_, o.others, ?_, ?_, ?_, ?_, ?_, ?_⟩
  · rfl
  · have hrf : ((u.done c).warp c.iss.warp).rf = freeLast c (u.regs c) := hr
    have hv := freeLast_vonly c (u.regs c)
    unfold RegFile.VOnly at hv
    dsimp only
    rw [hrf, e]
    rw [Warp.Moved] at hm
    refine hm.trans ?_
    have : freeLast c (u.regs c) = { (u.warp c.iss.warp).rf with v := (freeLast c (u.regs c)).v, alloc := (freeLast c (u.regs c)).alloc } := hv
    rw [← this]
  · intro r l hl hf; rw [hr]; exact vget_freeLast c _ r l hl hf
  · intro r hf; rw [hr]; exact has_freeLast_keeps c _ r hf
  · intro r hf; rw [hr]; exact has_freeLast_frees c _ r hf
  · intro l
    have := Warp.lands_advance ({ u.warp c.iss.warp with rf := freeLast c (u.regs c) } : Warp) u.ctr c.g.gid c.iss.f l
    unfold State.lane; rw [e]; exact this
  · intro hf l
    unfold State.lane; rw [e]; unfold Warp.advance; rw [hf]; rfl

end Sys2Proof.Machine
end

