-- ==== Sys2Proof/Laws/PerInstr.lean ====
section
/-! SUPPORT. The family Fits: a well-formed instruction is one that has a word, and its guard names a predicate. -/

namespace Sys2Proof.Laws.Fits

open Sys2Proof.Machine

/-- What holds of a well-formed instruction as syntax (R60, R84): it is an instruction row, and its guard is one of q0 to
q47. -/
def Statement (i : Instr) : Prop := i.wellFormed = true → isEvent i = false ∧ ∀ p, shape i = some p → p.h.g.toNat < 48

/-- The one proof behind the family. -/
theorem all (i : Instr) : Statement i := by
  intro h
  unfold Instr.wellFormed formCheck at h
  unfold isEvent
  split at h
  · simp at h
  · rename_i p hp
    refine ⟨by simp [hp], fun q hq => ?_⟩
    rw [hp] at hq; cases hq
    by_cases hg : 48 ≤ p.h.g.toNat
    · simp [hg] at h
    · omega

theorem zadd a0 a1 a2 a3 a4 a5 : Statement (.zadd a0 a1 a2 a3 a4 a5) := all _
theorem zaddImm a0 a1 a2 a3 a4 a5 : Statement (.zaddImm a0 a1 a2 a3 a4 a5) := all _
theorem zsub a0 a1 a2 a3 a4 a5 : Statement (.zsub a0 a1 a2 a3 a4 a5) := all _
theorem zmul a0 a1 a2 a3 a4 a5 : Statement (.zmul a0 a1 a2 a3 a4 a5) := all _
theorem zmulImm a0 a1 a2 a3 a4 a5 : Statement (.zmulImm a0 a1 a2 a3 a4 a5) := all _
theorem zmac a0 a1 a2 a3 a4 a5 a6 : Statement (.zmac a0 a1 a2 a3 a4 a5 a6) := all _
theorem zmin a0 a1 a2 a3 a4 : Statement (.zmin a0 a1 a2 a3 a4) := all _
theorem zminImm a0 a1 a2 a3 a4 : Statement (.zminImm a0 a1 a2 a3 a4) := all _
theorem zmax a0 a1 a2 a3 a4 : Statement (.zmax a0 a1 a2 a3 a4) := all _
theorem zmaxImm a0 a1 a2 a3 a4 : Statement (.zmaxImm a0 a1 a2 a3 a4) := all _
theorem aadd a0 a1 a2 a3 a4 a5 : Statement (.aadd a0 a1 a2 a3 a4 a5) := all _
theorem aaddImm a0 a1 a2 a3 a4 a5 : Statement (.aaddImm a0 a1 a2 a3 a4 a5) := all _
theorem ltab a0 a1 a2 a3 a4 a5 : Statement (.ltab a0 a1 a2 a3 a4 a5) := all _
theorem shl a0 a1 a2 a3 a4 a5 : Statement (.shl a0 a1 a2 a3 a4 a5) := all _
theorem shlImm a0 a1 a2 a3 a4 a5 : Statement (.shlImm a0 a1 a2 a3 a4 a5) := all _
theorem shr a0 a1 a2 a3 a4 a5 : Statement (.shr a0 a1 a2 a3 a4 a5) := all _
theorem shrImm a0 a1 a2 a3 a4 a5 : Statement (.shrImm a0 a1 a2 a3 a4 a5) := all _
theorem shf a0 a1 a2 a3 a4 a5 a6 : Statement (.shf a0 a1 a2 a3 a4 a5 a6) := all _
theorem bfe a0 a1 a2 a3 a4 : Statement (.bfe a0 a1 a2 a3 a4) := all _
theorem bfeImm a0 a1 a2 a3 a4 : Statement (.bfeImm a0 a1 a2 a3 a4) := all _
theorem bfi a0 a1 a2 a3 a4 : Statement (.bfi a0 a1 a2 a3 a4) := all _
theorem popc a0 a1 a2 a3 : Statement (.popc a0 a1 a2 a3) := all _
theorem clz a0 a1 a2 a3 : Statement (.clz a0 a1 a2 a3) := all _
theorem ctz a0 a1 a2 a3 : Statement (.ctz a0 a1 a2 a3) := all _
theorem brev a0 a1 a2 a3 : Statement (.brev a0 a1 a2 a3) := all _
theorem bysel a0 a1 a2 a3 a4 : Statement (.bysel a0 a1 a2 a3 a4) := all _
theorem byselImm a0 a1 a2 a3 : Statement (.byselImm a0 a1 a2 a3) := all _
theorem zcmp a0 a1 a2 a3 a4 a5 : Statement (.zcmp a0 a1 a2 a3 a4 a5) := all _
theorem zcmpImm a0 a1 a2 a3 a4 a5 : Statement (.zcmpImm a0 a1 a2 a3 a4 a5) := all _
theorem sel a0 a1 a2 a3 a4 a5 : Statement (.sel a0 a1 a2 a3 a4 a5) := all _
theorem mov a0 a1 a2 a3 : Statement (.mov a0 a1 a2 a3) := all _
theorem movImm a0 a1 a2 a3 : Statement (.movImm a0 a1 a2 a3) := all _
theorem qtab a0 a1 a2 a3 a4 a5 : Statement (.qtab a0 a1 a2 a3 a4 a5) := all _
theorem qget a0 a1 a2 : Statement (.qget a0 a1 a2) := all _
theorem qset a0 a1 a2 a3 : Statement (.qset a0 a1 a2 a3) := all _
theorem poll a0 a1 a2 a3 : Statement (.poll a0 a1 a2 a3) := all _
theorem peers a0 a1 a2 a3 a4 : Statement (.peers a0 a1 a2 a3 a4) := all _
theorem lxch a0 a1 a2 a3 a4 a5 : Statement (.lxch a0 a1 a2 a3 a4 a5) := all _
theorem lred a0 a1 a2 a3 a4 : Statement (.lred a0 a1 a2 a3 a4) := all _
theorem lead a0 a1 : Statement (.lead a0 a1) := all _
theorem bra a0 a1 : Statement (.bra a0 a1) := all _
theorem brx a0 a1 a2 : Statement (.brx a0 a1 a2) := all _
theorem call a0 a1 a2 : Statement (.call a0 a1 a2) := all _
theorem callInd a0 a1 a2 a3 : Statement (.callInd a0 a1 a2 a3) := all _
theorem ret a0 a1 : Statement (.ret a0 a1) := all _
theorem joinArm a0 a1 : Statement (.joinArm a0 a1) := all _
theorem joinWait a0 a1 : Statement (.joinWait a0 a1) := all _
theorem joinBreak a0 a1 : Statement (.joinBreak a0 a1) := all _
theorem exit a0 : Statement (.exit a0) := all _
theorem nop a0 : Statement (.nop a0) := all _
theorem yield a0 : Statement (.yield a0) := all _
theorem vpoint a0 a1 : Statement (.vpoint a0 a1) := all _
theorem fadd a0 a1 a2 a3 a4 a5 : Statement (.fadd a0 a1 a2 a3 a4 a5) := all _
theorem faddImm a0 a1 a2 a3 a4 a5 : Statement (.faddImm a0 a1 a2 a3 a4 a5) := all _
theorem fsub a0 a1 a2 a3 a4 a5 : Statement (.fsub a0 a1 a2 a3 a4 a5) := all _
theorem fmul a0 a1 a2 a3 a4 a5 : Statement (.fmul a0 a1 a2 a3 a4 a5) := all _
theorem fmulImm a0 a1 a2 a3 a4 a5 : Statement (.fmulImm a0 a1 a2 a3 a4 a5) := all _
theorem fmac a0 a1 a2 a3 a4 a5 a6 : Statement (.fmac a0 a1 a2 a3 a4 a5 a6) := all _
theorem fmin a0 a1 a2 a3 a4 : Statement (.fmin a0 a1 a2 a3 a4) := all _
theorem fminImm a0 a1 a2 a3 a4 : Statement (.fminImm a0 a1 a2 a3 a4) := all _
theorem fmax a0 a1 a2 a3 a4 : Statement (.fmax a0 a1 a2 a3 a4) := all _
theorem fmaxImm a0 a1 a2 a3 a4 : Statement (.fmaxImm a0 a1 a2 a3 a4) := all _
theorem fabs a0 a1 a2 a3 : Statement (.fabs a0 a1 a2 a3) := all _
theorem fneg a0 a1 a2 a3 : Statement (.fneg a0 a1 a2 a3) := all _
theorem fdiv a0 a1 a2 a3 a4 a5 : Statement (.fdiv a0 a1 a2 a3 a4 a5) := all _
theorem fcmp a0 a1 a2 a3 a4 a5 : Statement (.fcmp a0 a1 a2 a3 a4 a5) := all _
theorem fclass a0 a1 a2 a3 : Statement (.fclass a0 a1 a2 a3) := all _
theorem fsqrt a0 a1 a2 a3 a4 : Statement (.fsqrt a0 a1 a2 a3 a4) := all _
theorem frcp a0 a1 a2 : Statement (.frcp a0 a1 a2) := all _
theorem frsq a0 a1 a2 : Statement (.frsq a0 a1 a2) := all _
theorem fexp2 a0 a1 a2 : Statement (.fexp2 a0 a1 a2) := all _
theorem flog2 a0 a1 a2 : Statement (.flog2 a0 a1 a2) := all _
theorem fsin a0 a1 a2 : Statement (.fsin a0 a1 a2) := all _
theorem fcos a0 a1 a2 : Statement (.fcos a0 a1 a2) := all _
theorem ftanh a0 a1 a2 : Statement (.ftanh a0 a1 a2) := all _
theorem f2add a0 a1 a2 a3 a4 a5 : Statement (.f2add a0 a1 a2 a3 a4 a5) := all _
theorem f2mul a0 a1 a2 a3 a4 a5 : Statement (.f2mul a0 a1 a2 a3 a4 a5) := all _
theorem f2mac a0 a1 a2 a3 a4 a5 a6 : Statement (.f2mac a0 a1 a2 a3 a4 a5 a6) := all _
theorem f2min a0 a1 a2 a3 a4 : Statement (.f2min a0 a1 a2 a3 a4) := all _
theorem f2max a0 a1 a2 a3 a4 : Statement (.f2max a0 a1 a2 a3 a4) := all _
theorem cvt a0 a1 a2 a3 a4 a5 a6 : Statement (.cvt a0 a1 a2 a3 a4 a5 a6) := all _
theorem pcvt a0 a1 a2 a3 a4 a5 a6 a7 a8 : Statement (.pcvt a0 a1 a2 a3 a4 a5 a6 a7 a8) := all _
theorem fmtw a0 a1 a2 : Statement (.fmtw a0 a1 a2) := all _
theorem fmtwImm a0 a1 a2 : Statement (.fmtwImm a0 a1 a2) := all _
theorem pack a0 a1 a2 a3 a4 : Statement (.pack a0 a1 a2 a3 a4) := all _
theorem unpk a0 a1 a2 a3 a4 : Statement (.unpk a0 a1 a2 a3 a4) := all _
theorem frnd a0 a1 a2 a3 a4 : Statement (.frnd a0 a1 a2 a3 a4) := all _
theorem fldex a0 a1 a2 a3 a4 a5 : Statement (.fldex a0 a1 a2 a3 a4 a5) := all _
theorem ld a0 a1 a2 a3 a4 a5 a6 : Statement (.ld a0 a1 a2 a3 a4 a5 a6) := all _
theorem st a0 a1 a2 a3 a4 a5 a6 : Statement (.st a0 a1 a2 a3 a4 a5 a6) := all _
theorem ldx a0 a1 a2 a3 a4 a5 : Statement (.ldx a0 a1 a2 a3 a4 a5) := all _
theorem stx a0 a1 a2 a3 a4 a5 : Statement (.stx a0 a1 a2 a3 a4 a5) := all _
theorem lds a0 a1 a2 a3 a4 a5 a6 : Statement (.lds a0 a1 a2 a3 a4 a5 a6) := all _
theorem sts a0 a1 a2 a3 a4 a5 a6 : Statement (.sts a0 a1 a2 a3 a4 a5 a6) := all _
theorem ldcl a0 a1 a2 a3 a4 a5 : Statement (.ldcl a0 a1 a2 a3 a4 a5) := all _
theorem stcl a0 a1 a2 a3 a4 a5 : Statement (.stcl a0 a1 a2 a3 a4 a5) := all _
theorem bset a0 a1 a2 : Statement (.bset a0 a1 a2) := all _
theorem bclr a0 a1 a2 : Statement (.bclr a0 a1 a2) := all _
theorem btest a0 a1 a2 a3 : Statement (.btest a0 a1 a2 a3) := all _
theorem pref a0 a1 a2 a3 a4 : Statement (.pref a0 a1 a2 a3 a4) := all _
theorem prefDemote a0 a1 : Statement (.prefDemote a0 a1) := all _
theorem bridge a0 a1 a2 a3 : Statement (.bridge a0 a1 a2 a3) := all _
theorem fence a0 a1 a2 a3 : Statement (.fence a0 a1 a2 a3) := all _
theorem monitor a0 a1 a2 a3 a4 : Statement (.monitor a0 a1 a2 a3 a4) := all _
theorem mwait a0 a1 a2 : Statement (.mwait a0 a1 a2) := all _
theorem acvtTogen a0 a1 a2 a3 : Statement (.acvtTogen a0 a1 a2 a3) := all _
theorem acvtFromgen a0 a1 a2 a3 : Statement (.acvtFromgen a0 a1 a2 a3) := all _
theorem atest a0 a1 a2 a3 : Statement (.atest a0 a1 a2 a3) := all _
theorem ldrec a0 a1 a2 a3 a4 : Statement (.ldrec a0 a1 a2 a3 a4) := all _
theorem atom a0 a1 a2 a3 a4 a5 a6 a7 a8 a9 : Statement (.atom a0 a1 a2 a3 a4 a5 a6 a7 a8 a9) := all _
theorem red a0 a1 a2 a3 a4 a5 a6 a7 a8 : Statement (.red a0 a1 a2 a3 a4 a5 a6 a7 a8) := all _
theorem rally a0 a1 a2 : Statement (.rally a0 a1 a2) := all _
theorem rallyGo a0 a1 a2 : Statement (.rallyGo a0 a1 a2) := all _
theorem crally a0 : Statement (.crally a0) := all _
theorem crallyGo a0 : Statement (.crallyGo a0) := all _
theorem crallyHold a0 : Statement (.crallyHold a0) := all _
theorem barinit a0 a1 a2 a3 : Statement (.barinit a0 a1 a2 a3) := all _
theorem arrive a0 a1 a2 a3 a4 : Statement (.arrive a0 a1 a2 a3 a4) := all _
theorem trywait a0 a1 a2 a3 a4 : Statement (.trywait a0 a1 a2 a3 a4) := all _
theorem wait a0 a1 a2 a3 : Statement (.wait a0 a1 a2 a3) := all _
theorem mxacq a0 : Statement (.mxacq a0) := all _
theorem mxrel a0 : Statement (.mxrel a0) := all _
theorem mma a0 a1 a2 a3 a4 a5 a6 a7 : Statement (.mma a0 a1 a2 a3 a4 a5 a6 a7) := all _
theorem mxrun a0 a1 a2 a3 a4 a5 a6 a7 : Statement (.mxrun a0 a1 a2 a3 a4 a5 a6 a7) := all _
theorem mxwait a0 a1 a2 : Statement (.mxwait a0 a1 a2) := all _
theorem dkld a0 a1 a2 a3 a4 a5 : Statement (.dkld a0 a1 a2 a3 a4 a5) := all _
theorem dkfree a0 a1 : Statement (.dkfree a0 a1) := all _
theorem accz a0 a1 : Statement (.accz a0 a1) := all _
theorem accrd a0 a1 a2 a3 a4 a5 : Statement (.accrd a0 a1 a2 a3 a4 a5) := all _
theorem accwr a0 a1 a2 a3 a4 a5 : Statement (.accwr a0 a1 a2 a3 a4 a5) := all _
theorem acccvt a0 a1 a2 a3 a4 a5 : Statement (.acccvt a0 a1 a2 a3 a4 a5) := all _
theorem accstat a0 a1 a2 a3 : Statement (.accstat a0 a1 a2 a3) := all _
theorem opfence a0 : Statement (.opfence a0) := all _
theorem xpost a0 a1 a2 a3 : Statement (.xpost a0 a1 a2 a3) := all _
theorem xcancel a0 a1 a2 : Statement (.xcancel a0 a1 a2) := all _
theorem xquery a0 a1 a2 : Statement (.xquery a0 a1 a2) := all _
theorem trap a0 a1 : Statement (.trap a0 a1) := all _
theorem svcInfo a0 a1 a2 a3 : Statement (.svcInfo a0 a1 a2 a3) := all _
theorem svcReside a0 a1 a2 a3 : Statement (.svcReside a0 a1 a2 a3) := all _
theorem svcNotify a0 a1 a2 a3 : Statement (.svcNotify a0 a1 a2 a3) := all _
theorem svcBias a0 a1 a2 a3 : Statement (.svcBias a0 a1 a2 a3) := all _
theorem svcUndefined a0 a1 a2 a3 a4 : Statement (.svcUndefined a0 a1 a2 a3 a4) := all _
theorem resume a0 : Statement (.resume a0) := all _
theorem resumeNext a0 : Statement (.resumeNext a0) := all _
theorem frec a0 a1 a2 a3 : Statement (.frec a0 a1 a2 a3) := all _
theorem ffixMap a0 a1 a2 : Statement (.ffixMap a0 a1 a2) := all _
theorem ffixEmul a0 a1 a2 a3 : Statement (.ffixEmul a0 a1 a2 a3) := all _
theorem ffixSkip a0 a1 : Statement (.ffixSkip a0 a1) := all _
theorem bpt a0 a1 : Statement (.bpt a0 a1) := all _
theorem srd a0 a1 a2 : Statement (.srd a0 a1 a2) := all _
theorem swr a0 a1 a2 : Statement (.swr a0 a1 a2) := all _
theorem acct a0 a1 a2 a3 a4 : Statement (.acct a0 a1 a2 a3 a4) := all _
theorem acctSnap a0 : Statement (.acctSnap a0) := all _
theorem cnt a0 a1 a2 a3 : Statement (.cnt a0 a1 a2 a3) := all _
theorem mark a0 a1 a2 : Statement (.mark a0 a1 a2) := all _
theorem runFetch a0 a1 : Statement (.runFetch a0 a1) := all _
theorem quadrantArbitration a0 a1 : Statement (.quadrantArbitration a0 a1) := all _
theorem longLatencyResult a0 a1 : Statement (.longLatencyResult a0 a1) := all _
theorem swapOut a0 a1 : Statement (.swapOut a0 a1) := all _
theorem swapIn a0 a1 : Statement (.swapIn a0 a1) := all _
theorem swapMoveComplete a0 : Statement (.swapMoveComplete a0) := all _
theorem loadDataArrival a0 a1 a2 : Statement (.loadDataArrival a0 a1 a2) := all _
theorem storeAcknowledge a0 a1 a2 : Statement (.storeAcknowledge a0 a1 a2) := all _
theorem storeDrain a0 a1 a2 : Statement (.storeDrain a0 a1 a2) := all _
theorem causalUpdate a0 : Statement (.causalUpdate a0) := all _
theorem publishDemand a0 a1 : Statement (.publishDemand a0 a1) := all _
theorem memorySideFaultReport a0 a1 : Statement (.memorySideFaultReport a0 a1) := all _
theorem memPark a0 : Statement (.memPark a0) := all _
theorem autoResolution a0 a1 a2 : Statement (.autoResolution a0 a1 a2) := all _
theorem trapVector a0 : Statement (.trapVector a0) := all _
theorem usxonMappingAnswer a0 a1 a2 : Statement (.usxonMappingAnswer a0 a1 a2) := all _
theorem hostFaultAnswer a0 a1 a2 : Statement (.hostFaultAnswer a0 a1 a2) := all _
theorem mtuWalk a0 a1 a2 : Statement (.mtuWalk a0 a1 a2) := all _
theorem atsReply a0 a1 a2 a3 : Statement (.atsReply a0 a1 a2 a3) := all _
theorem priResponse a0 a1 a2 : Statement (.priResponse a0 a1 a2) := all _
theorem invalidation a0 a1 a2 : Statement (.invalidation a0 a1 a2) := all _
theorem invalidationAck a0 a1 : Statement (.invalidationAck a0 a1) := all _
theorem domainFloorChange a0 a1 a2 : Statement (.domainFloorChange a0 a1 a2) := all _
theorem pageMigration a0 a1 a2 a3 : Statement (.pageMigration a0 a1 a2 a3) := all _
theorem beadWaitEnd a0 a1 : Statement (.beadWaitEnd a0 a1) := all _
theorem monitorCompare a0 : Statement (.monitorCompare a0) := all _
theorem monitorPoll a0 : Statement (.monitorPoll a0) := all _
theorem mwaitDeadline a0 a1 : Statement (.mwaitDeadline a0 a1) := all _
theorem prefetchProgress a0 a1 a2 : Statement (.prefetchProgress a0 a1 a2) := all _
theorem engineGrant a0 : Statement (.engineGrant a0) := all _
theorem mmaExecute a0 : Statement (.mmaExecute a0) := all _
theorem mxrunStep a0 : Statement (.mxrunStep a0) := all _
theorem acczExecute a0 : Statement (.acczExecute a0) := all _
theorem accrdExecute a0 : Statement (.accrdExecute a0) := all _
theorem accwrExecute a0 : Statement (.accwrExecute a0) := all _
theorem acccvtExecute a0 : Statement (.acccvtExecute a0) := all _
theorem eccReplay a0 : Statement (.eccReplay a0) := all _
theorem deckFillComplete a0 a1 : Statement (.deckFillComplete a0 a1) := all _
theorem requestHandoff a0 : Statement (.requestHandoff a0) := all _
theorem copyGranule a0 : Statement (.copyGranule a0) := all _
theorem routeEntry a0 : Statement (.routeEntry a0) := all _
theorem routeClaimReturn a0 a1 : Statement (.routeClaimReturn a0 a1) := all _
theorem submissionEntryTake a0 a1 : Statement (.submissionEntryTake a0 a1) := all _
theorem dependencesSatisfied a0 : Statement (.dependencesSatisfied a0) := all _
theorem blockDispatch a0 a1 : Statement (.blockDispatch a0 a1) := all _
theorem clusterReservation a0 a1 : Statement (.clusterReservation a0 a1) := all _
theorem reservationBackoffExpiry a0 a1 : Statement (.reservationBackoffExpiry a0 a1) := all _
theorem vpointJoinsDone a0 : Statement (.vpointJoinsDone a0) := all _
theorem variantMove a0 : Statement (.variantMove a0) := all _
theorem variantMoveComplete a0 : Statement (.variantMoveComplete a0) := all _
theorem blockEnd a0 : Statement (.blockEnd a0) := all _
theorem blockKill a0 : Statement (.blockKill a0) := all _
theorem launchComplete a0 : Statement (.launchComplete a0) := all _
theorem sliceExpiry a0 a1 : Statement (.sliceExpiry a0 a1) := all _
theorem preemptStopRequest a0 : Statement (.preemptStopRequest a0) := all _
theorem preemptSaveComplete a0 : Statement (.preemptSaveComplete a0) := all _
theorem restore a0 a1 : Statement (.restore a0 a1) := all _
theorem debugHalt a0 a1 : Statement (.debugHalt a0 a1) := all _
theorem debugRelease a0 a1 : Statement (.debugRelease a0 a1) := all _
theorem poisonDetect a0 : Statement (.poisonDetect a0) := all _
theorem liveStateError a0 : Statement (.liveStateError a0) := all _
theorem correctedEccEvent a0 : Statement (.correctedEccEvent a0) := all _
theorem controlParityError a0 : Statement (.controlParityError a0) := all _
theorem hbmScrub : Statement (.hbmScrub) := all _
theorem mlcScrub : Statement (.mlcScrub) := all _
theorem globalTrigger a0 : Statement (.globalTrigger a0) := all _
theorem seriesTick a0 : Statement (.seriesTick a0) := all _
theorem svcReply a0 a1 a2 : Statement (.svcReply a0 a1 a2) := all _
theorem sqDoorbell a0 a1 a2 : Statement (.sqDoorbell a0 a1 a2) := all _
theorem cqheadWrite a0 a1 a2 : Statement (.cqheadWrite a0 a1 a2) := all _
theorem queueEnable a0 a1 : Statement (.queueEnable a0 a1) := all _
theorem queueRegisterWrite a0 a1 a2 a3 : Statement (.queueRegisterWrite a0 a1 a2 a3) := all _
theorem ctxCreate a0 a1 a2 a3 a4 : Statement (.ctxCreate a0 a1 a2 a3 a4) := all _
theorem ctxDestroy a0 : Statement (.ctxDestroy a0) := all _
theorem windowSet a0 : Statement (.windowSet a0) := all _
theorem queueBind a0 : Statement (.queueBind a0) := all _
theorem biasSet a0 : Statement (.biasSet a0) := all _
theorem debugAttach a0 : Statement (.debugAttach a0) := all _
theorem traceSet a0 : Statement (.traceSet a0) := all _
theorem acctRead a0 : Statement (.acctRead a0) := all _
theorem vfBudget a0 : Statement (.vfBudget a0) := all _
theorem vfQueue a0 : Statement (.vfQueue a0) := all _
theorem saveRead a0 : Statement (.saveRead a0) := all _
theorem acctAny a0 : Statement (.acctAny a0) := all _
theorem mailboxCommandComplete a0 : Statement (.mailboxCommandComplete a0) := all _
theorem mailboxGo a0 a1 a2 a3 a4 : Statement (.mailboxGo a0 a1 a2 a3 a4) := all _
theorem functionLevelReset a0 : Statement (.functionLevelReset a0) := all _
theorem tdiConfigWrite a0 : Statement (.tdiConfigWrite a0) := all _
theorem tdispRequest a0 a1 : Statement (.tdispRequest a0 a1) := all _
theorem spdmRequest a0 : Statement (.spdmRequest a0) := all _
theorem configurationRequest a0 : Statement (.configurationRequest a0) := all _
theorem hostCxlMemAccess a0 a1 : Statement (.hostCxlMemAccess a0 a1) := all _
theorem hostSnoop a0 a1 : Statement (.hostSnoop a0 a1) := all _
theorem fabricRequest a0 a1 a2 : Statement (.fabricRequest a0 a1 a2) := all _
theorem peerLineMiss a0 a1 a2 a3 : Statement (.peerLineMiss a0 a1 a2 a3) := all _
theorem directoryInvalidation a0 : Statement (.directoryInvalidation a0) := all _
theorem peerWriteback a0 : Statement (.peerWriteback a0) := all _
theorem fabricPlaneFailure a0 : Statement (.fabricPlaneFailure a0) := all _
theorem planeDrainTimeout : Statement (.planeDrainTimeout) := all _
theorem powerPointChange a0 a1 : Statement (.powerPointChange a0 a1) := all _
theorem thermalLimit a0 : Statement (.thermalLimit a0) := all _
theorem thermalShutdown : Statement (.thermalShutdown) := all _
theorem corePowerGate a0 : Statement (.corePowerGate a0) := all _
theorem powerRemoval : Statement (.powerRemoval) := all _
theorem perstDeassert : Statement (.perstDeassert) := all _
theorem interfaceBudgetWindow a0 a1 a2 : Statement (.interfaceBudgetWindow a0 a1 a2) := all _

end Sys2Proof.Laws.Fits
end

