-- ==== Sys2Proof/Laws/Seal.lean ====
section
/-! SUPPORT. Laws of the encryption of device memory (R499): a read under the key and tweaks of a write, what a write leaves alone, and
the canonical form that it keeps. -/

namespace Sys2Proof.Machine

/-- A granule comes under a key and tweak. -/
theorem sealAt_reseal (s : State) (x l k : Nat) : sealAt (reseal s x l) k = if k / 64 = l / 64 then x else sealAt s k := by
  by_cases h : sealAt s l = x
  · rw [reseal, if_pos h]
    split
    · rename_i hk; rw [← h, sealAt, sealAt, hk]
    · rfl
  · rw [reseal, if_neg h, sealAt, cset]
    show cget (if x = 0 then _ else _) 0 (k / 64) = _
    split <;> split <;> rename_i h0 hk
    · rw [cget_cdel, if_pos hk, h0]
    · rw [cget_cdel, if_neg hk, sealAt]
    · rw [cget_cput, if_pos hk]
    · rw [cget_cput, if_neg hk, sealAt]

/-- Coming under a key and tweak keeps the canonical form of memory. -/
theorem wf_reseal {s : State} (h : Memory.wf s.mem = true) (x l : Nat) : Memory.wf (reseal s x l).mem = true := by
  rw [reseal]; split
  · exact h
  · exact wf_memWriteL h _ _

theorem wf_resealN {s : State} (h : Memory.wf s.mem = true) (x l n : Nat) : Memory.wf (resealN s x l n).mem = true := by
  induction n generalizing s x l with
  | zero => exact h
  | succ n ih => exact ih (wf_reseal h x l) _ _

theorem wf_sealWriteL {s : State} (h : Memory.wf s.mem = true) (x l : Nat) (bs : List Byte) : Memory.wf (sealWriteL s x l bs).mem = true :=
  wf_memWriteL (wf_resealN h x l bs.length) bs l

theorem wf_sealWriteN {s : State} (h : Memory.wf s.mem = true) (x l n v : Nat) : Memory.wf (sealWriteN s x l n v).mem = true :=
  wf_sealWriteL h x l _

/-- Granules before the first byte stay under what they are. -/
theorem sealAt_resealN_lt (s : State) (x l n k : Nat) (h : k / 64 < l / 64) : sealAt (resealN s x l n) k = sealAt s k := by
  induction n generalizing s x l with
  | zero => rfl
  | succ n ih => rw [resealN, ih _ _ _ (by omega), sealAt_reseal, if_neg (by omega)]

/-- The first byte's granule comes under the key and its tweak. -/
theorem sealAt_resealN (s : State) (x l n : Nat) : sealAt (resealN s x l (n + 1)) l = x := by
  induction n generalizing s l with
  | zero => rw [resealN, resealN, sealAt_reseal, if_pos rfl]
  | succ n ih =>
    rw [resealN, nextSeal]
    by_cases h : (l + 1) / 64 = l / 64
    · rw [if_neg (by omega)]
      have := ih (reseal s x l) (l + 1)
      rwa [sealAt, h] at this
    · rw [sealAt_resealN_lt _ _ _ _ _ (by omega), sealAt_reseal, if_pos rfl]

/-- Bytes whose granules stand under the key and tweaks read as memory has them. -/
theorem seenN_of_seals (s u : State) (x l n : Nat) (h : u.seals = (resealN s x l n).seals) : seenN u x l n = memReadN u.mem l n := by
  induction n generalizing s x l with
  | zero => rfl
  | succ n ih =>
    have h0 : sealAt u l = x := by rw [sealAt, h]; exact sealAt_resealN s x l n
    rw [seenN, memReadN, seenByte, if_pos h0, ih (reseal s x l) (nextSeal x l) (l + 1) h]

/-- A read under the key and tweaks of a write gives what was written. -/
theorem seenN_sealWriteN (s : State) (x l n v : Nat) : seenN (sealWriteN s x l n v) x l n = v % 256 ^ n := by
  have hn : (leBytes n v).length = n := leBytes_length n v
  rw [seenN_of_seals s _ x l n (by rw [sealWriteN, sealWriteL, hn]), sealWriteN, sealWriteL]
  exact memReadN_memWriteN _ l n v

/-- A granule that stands under the key and tweak already stays as it is. -/
theorem reseal_self {s : State} {x l : Nat} (h : sealAt s l = x) : reseal s x l = s := by rw [reseal, if_pos h]

/-- Device memory without encryption: an ordinary write is one of memory alone. -/
theorem resealN_plain {s : State} (h : s.seals = []) (l n : Nat) : resealN s 0 l n = s := by
  induction n generalizing l with
  | zero => rfl
  | succ n ih =>
    have h0 : sealAt s l = 0 := by rw [sealAt, h]; rfl
    rw [resealN, reseal_self h0, show nextSeal 0 l = 0 from by simp [nextSeal]]
    exact ih _

/-- An ordinary context's accesses are not encrypted. -/
theorem sealOf_plain {s : State} {c : Nat} (h : (s.ctx c).conf = false) (ia l : Nat) : sealOf s c ia l = 0 := by simp [sealOf, h]

end Sys2Proof.Machine
end

