-- ==== Sys2Proof/Tests/Slice0.lean ====
section
/-! SUPPORT. The model's own tests: words written out from the manual's encodings, one for each constructor; an
ill-formed term for each check; small steps whose results come from the manual; and a witness for the
hypotheses of every claim. -/

namespace Sys2Proof.Tests

open Sys2Proof.Machine

set_option Elab.async false

/-! ### Words written out field by field (R58 to R92) -/

/-- A word from its fields: each is its lowest bit and its value. -/
def word (fs : List (Nat × Nat)) : Nat := (fs.map (fun x => x.2 * 2 ^ x.1)).sum
/-- A long form with E = 1 and no guard: opcode and the fields of its format. -/
def lf (opc : Nat) (fs : List (Nat × Nat)) : Nat := word ((86, opc) :: (85, 1) :: (0, 1) :: fs)
/-- Source fields (R65). -/
def cV (r : Nat) : Nat := r * 2 ^ 9
def cX (r : Nat) : Nat := 1 * 2 ^ 17 + r * 2 ^ 9
def cS (r : Nat) : Nat := 2 * 2 ^ 17 + r * 2 ^ 9
def cK (i : Nat) : Nat := 3 * 2 ^ 17 + i * 2 ^ 9
/-- DST 4, D 0, LT 1. -/
def D : List (Nat × Nat) := [(70, 4), (67, 1)]
/-- F-A fields: SA, SB, SC, TYPE, MOD. -/
def fa (a b c ty md : Nat) : List (Nat × Nat) := [(48, a), (29, b), (10, c), (5, ty), (2, md)]
/-- F-I fields: SA, IMM32, TYPE, MOD. -/
def fi (a i ty md : Nat) : List (Nat × Nat) := [(48, a), (16, i), (11, ty), (8, md)]

def h : Hd := ⟨true, 0, false⟩
def d : Du := ⟨false, 4, false, 1⟩
def e : Dv := ⟨4, false, 1⟩
def a : Src := .k 3
def b : Src := .x 2
def c : Src := .s 7
def v : Src := .v 8 false .none

/-- Class 0b000 (R85, R130 to R140). -/
def rowsInteger : List (Nat × Instr) :=
  [(lf 0x000 (D ++ fa (cK 3) (cX 2) 0 2 0), .zadd h d .s32 false a b),
   (lf 0x040 (D ++ fi (cK 3) 1000 6 1), .zaddImm h d .n32 true a 1000),
   (lf 0x001 (D ++ fa (cX 2) (cS 7) 0 3 1), .zsub h d .s64 true b c),
   (lf 0x002 (D ++ fa (cK 3) (cX 2) 0 6 1), .zmul h d .n32 .hw a b),
   (lf 0x042 (D ++ fi (cK 3) 7 2 2), .zmulImm h d .s32 .dw a 7),
   (lf 0x003 (D ++ fa (cK 3) (cX 2) (cS 7) 2 2), .zmac h d .s32 .dw a b c),
   (lf 0x004 (D ++ fa (cK 3) (cX 2) 0 7 0), .zmin h d .n64 a b),
   (lf 0x044 (D ++ fi (cK 3) 9 2 0), .zminImm h d .s32 a 9),
   (lf 0x005 (D ++ fa (cK 3) (cX 2) 0 6 0), .zmax h d .n32 a b),
   (lf 0x045 (D ++ fi (cK 3) 9 3 0), .zmaxImm h d .s64 a 9),
   (lf 0x014 (D ++ fa (cS 7) (cK 3) 0 6 4), .aadd h d .n32 4 c a),
   (lf 0x054 (D ++ fi (cS 7) 0xFFFFFFF8 2 1), .aaddImm h d .s32 1 c 0xFFFFFFF8),
   (lf 0x006 (D ++ [(48, cK 3), (29, cX 2), (10, cS 7), (2, 0xD8)]), .ltab h d 0xD8 a b c),
   (lf 0x007 (D ++ fa (cK 3) (cX 2) 0 10 1), .shl h d .b32 true a b),
   (lf 0x047 (D ++ fi (cK 3) 40 11 0), .shlImm h d .b64 false a 40),
   (lf 0x008 (D ++ fa (cK 3) (cX 2) 0 3 0), .shr h d .s64 false a b),
   (lf 0x048 (D ++ fi (cK 3) 40 6 1), .shrImm h d .n32 true a 40),
   (lf 0x009 (D ++ fa (cK 3) (cX 2) (cS 7) 10 3), .shf h d true true a b c),
   (lf 0x00A (D ++ fa (cK 3) (cX 2) 0 2 0), .bfe h d .s32 a b),
   (lf 0x04A (D ++ fi (cK 3) 0x804 6 0), .bfeImm h d .n32 a 0x804),
   (lf 0x00B (D ++ fa (cK 3) (cX 2) (cS 7) 10 0), .bfi h d a b c),
   (lf 0x00C (D ++ fa (cS 7) 0 0 11 0), .popc h d .b64 c),
   (lf 0x00D (D ++ fa (cK 3) 0 0 10 0), .clz h d .b32 a),
   (lf 0x00E (D ++ fa (cS 7) 0 0 11 0), .ctz h d .b64 c),
   (lf 0x00F (D ++ fa (cK 3) 0 0 10 0), .brev h d .b32 a),
   (lf 0x010 (D ++ fa (cK 3) (cX 2) (cS 7) 10 0), .bysel h d a b c),
   (lf 0x050 (D ++ fi (cK 3) 0x0123 10 0), .byselImm h d a 0x0123),
   (lf 0x011 (D ++ fa (cK 3) (cX 2) 0 2 5), .zcmp h e .s32 .ge a b),
   (lf 0x051 (D ++ fi (cK 3) 12 7 1), .zcmpImm h e .n64 .ne a 12),
   (lf 0x012 (D ++ fa (cK 3) (cX 2) (5 * 2 ^ 9 + 2 ^ 8) 10 0), .sel h d .b32 a b ⟨5, true⟩),
   (lf 0x013 (D ++ fa (cS 7) 0 0 11 0), .mov h d .b64 c),
   (lf 0x053 (D ++ fi 0 0x80000000 3 0), .movImm h d .s64 0x80000000)]

/-- Class 0b001, predicates and lane collectives (R141). -/
def rowsPredicate : List (Nat × Instr) :=
  [(lf 0x080 (D ++ [(48, 1 * 2 ^ 9), (29, 2 * 2 ^ 9 + 2 ^ 8), (10, 47 * 2 ^ 9), (2, 0x96)]), .qtab h e 0x96 ⟨1, false⟩ ⟨2, true⟩ ⟨47, false⟩),
   (lf 0x081 (D ++ fa 0 0 0 10 1), .qget h d true),
   (lf 0x083 (D ++ fa (5 * 2 ^ 9) 0 0 10 3), .poll h d .mask ⟨5, false⟩),
   (lf 0x083 (D ++ fa (5 * 2 ^ 9) 0 0 0 2), .poll h d .same ⟨5, false⟩),
   (lf 0x084 (D ++ fa (cS 7) 0 0 11 1), .peers h e .b64 true c),
   (lf 0x085 (D ++ fa (cK 3) (cX 2) 0 10 3), .lxch h e .b32 .flip a b),
   (lf 0x086 (D ++ fa (cK 3) 0 0 2 0), .lred h d .s32 .add a),
   (lf 0x087 D, .lead h e)]
/-- Class 0b001, the rest (R141, R144). -/
def rowsControl : List (Nat × Instr) :=
  [(lf 0x082 (fa (cK 3) (cX 2) 0 10 1), .qset h true a b),
   (lf 0x0C4 [(31, 9)], .joinArm h 9), (lf 0x0C5 [(31, 9)], .joinWait h 9), (lf 0x0C6 [(31, 9)], .joinBreak h 9),
   (lf 0x0C7 [], .exit h), (lf 0x0C8 [], .nop h), (lf 0x0C9 [], .yield h)]
def rowsBranch : List (Nat × Instr) :=
  [(lf 0x0C0 [(35, 0xFFFFFFA0)], .bra h 0xFFFFFFA0), (lf 0x0C1 [(35, 16), (12, cS 7)], .brx h 16 c),
   (lf 0x0C2 (D ++ [(35, 48)]), .call h e 48), (lf 0x0C2 (D ++ [(35, 48), (12, cS 7), (9, 1)]), .callInd h e 48 c),
   (lf 0x0C3 [(12, cS 7)], .ret h c)]

/-- Class 0b010 without the long-latency instructions (R158). -/
def rowsFloat : List (Nat × Instr) :=
  [(lf 0x100 (D ++ fa (cK 3) (cX 2) 0 14 0), .fadd h d .f32 .fpctl a b),
   (lf 0x140 (D ++ fi (cK 3) 0x3DCCCCCD 14 1), .faddImm h d .f32 .rn a 0x3DCCCCCD),
   (lf 0x101 (D ++ fa (cK 3) (cX 2) 0 12 2), .fsub h d .f16 .rz a b),
   (lf 0x102 (D ++ fa (cK 3) (cX 2) 0 13 3), .fmul h d .bf16 .rd a b),
   (lf 0x142 (D ++ fi (cK 3) 0x3DCD0000 13 4), .fmulImm h d .bf16 .ru a 0x3DCD0000),
   (lf 0x103 (D ++ fa (cK 3) (cX 2) (cS 7) 14 1), .fmac h d .f32 .rn a b c),
   (lf 0x104 (D ++ fa (cK 3) (cX 2) 0 14 0), .fmin h d .f32 a b),
   (lf 0x144 (D ++ fi (cK 3) 0x3F800000 12 0), .fminImm h d .f16 a 0x3F800000),
   (lf 0x105 (D ++ fa (cK 3) (cX 2) 0 13 0), .fmax h d .bf16 a b),
   (lf 0x145 (D ++ fi (cK 3) 0xBF800000 14 0), .fmaxImm h d .f32 a 0xBF800000),
   (lf 0x106 (D ++ fa (cX 2) 0 0 14 0), .fabs h d .f32 b), (lf 0x107 (D ++ fa (cX 2) 0 0 12 0), .fneg h d .f16 b),
   (lf 0x109 (D ++ fa (cK 3) (cX 2) 0 14 7), .fcmp h e .f32 .nan a b),
   (lf 0x10A (D ++ fa (cX 2) 0 0 13 0), .fclass h d .bf16 b),
   (lf 0x120 (D ++ fa (cK 3) (cX 2) 0 12 1), .f2add h d .f16 .rn a b),
   (lf 0x121 (D ++ fa (cK 3) (cX 2) 0 13 2), .f2mul h d .bf16 .rz a b),
   (lf 0x122 (D ++ fa (cK 3) (cX 2) (cS 7) 13 1), .f2mac h d .bf16 .rn a b c),
   (lf 0x123 (D ++ fa (cK 3) (cX 2) 0 12 0), .f2min h d .f16 a b), (lf 0x124 (D ++ fa (cK 3) (cX 2) 0 13 0), .f2max h d .bf16 a b)]
/-- The long-latency instructions (R166, R167). -/
def rowsLong : List (Nat × Instr) :=
  [(lf 0x108 (D ++ fa (cK 3) (cX 2) 0 14 4), .fdiv h d .f32 .ru a b), (lf 0x111 (D ++ fa (cK 3) 0 0 12 1), .fsqrt h d .f16 .rn a),
   (lf 0x110 (D ++ fa (cK 3) 0 0 14 0), .frcp h d a), (lf 0x112 (D ++ fa (cK 3) 0 0 14 0), .frsq h d a),
   (lf 0x113 (D ++ fa (cK 3) 0 0 14 0), .fexp2 h d a), (lf 0x114 (D ++ fa (cK 3) 0 0 14 0), .flog2 h d a),
   (lf 0x115 (D ++ fa (cK 3) 0 0 14 0), .fsin h d a), (lf 0x116 (D ++ fa (cK 3) 0 0 14 0), .fcos h d a),
   (lf 0x117 (D ++ fa (cK 3) 0 0 14 0), .ftanh h d a)]

/-- Class 0b011 (R88, R169 to R179). -/
def rowsConvert : List (Nat × Instr) :=
  [(lf 0x180 (D ++ [(48, cX 2), (24, 14), (22, 0), (21, 1), (5, 18), (2, 1)]), .cvt h d .d8 .f32 .rn true b),
   (lf 0x181 (D ++ [(48, cV 8), (29, cK 0), (24, 14), (22, 1), (21, 0), (5, 18), (2, 1)]), .pcvt h e .d8 .f32 .four .rn false v (.k 0)),
   (lf 0x1C2 (D ++ fi 0 0x166 10 0), .fmtwImm h d 0x166),
   (lf 0x183 (D ++ fa (cK 3) (cX 2) 0 9 0), .pack h d .b16 a b), (lf 0x184 (D ++ fa (cX 2) 0 0 8 1), .unpk h e .b8 true b),
   (lf 0x185 (D ++ fa (cX 2) 0 0 14 2), .frnd h d .f32 .rz b), (lf 0x186 (D ++ fa (cX 2) (cK 3) 0 12 1), .fldex h d .f16 .rn b a)]
def rowsFmtw : List (Nat × Instr) := [(lf 0x182 (D ++ fa (cK 0) 0 0 10 0), .fmtw h d (.k 0))]

def decodes (l : List (Nat × Instr)) : Bool := l.all (fun x => decodeTableWord 96 x.1 == some x.2 && (encode x.2).toNat == x.1)

theorem test_decode_integer : decodes rowsInteger = true := by decide +kernel
theorem test_decode_predicate : decodes rowsPredicate = true := by decide +kernel
theorem test_decode_control : decodes rowsControl = true := by decide +kernel
theorem test_decode_branch : decodes rowsBranch = true := by decide +kernel
theorem test_decode_float : decodes rowsFloat = true := by decide +kernel
theorem test_decode_long : decodes rowsLong = true := by decide +kernel
theorem test_decode_convert : decodes (rowsConvert ++ rowsFmtw) = true := by decide +kernel

/-- F-M fields: BREC, SOFF, SDAT, IMM12, then DOM, SCOPE, POL, ORD, BEAD. -/
def fm (br off dat imm : Nat) (q : List Nat) : List (Nat × Nat) :=
  [(63, br), (44, off), (25, dat), (13, imm), (10, q.getD 0 0), (7, q.getD 1 0), (5, q.getD 2 0), (3, q.getD 3 0), (1, q.getD 4 0)]
/-- F-X fields: ACC, CV, SFMT, SADS, DH, ROWS, AMODE, REF. -/
def fx (q : List Nat) : List (Nat × Nat) :=
  [(64, q.getD 0 0), (61, q.getD 1 0), (42, q.getD 2 0), (23, q.getD 3 0), (19, q.getD 4 0), (12, q.getD 5 0), (10, q.getD 6 0), (9, q.getD 7 0)]
/-- F-S fields: SEL, SA, SB, IMM16, SUB. -/
def fs (sel sa sb imm sub : Nat) : List (Nat × Nat) := [(59, sel), (40, sa), (21, sb), (5, imm), (1, sub)]
/-- RC at WARP scope, plain, default policy. -/
def q0 : MemQ := ⟨.rc, .warp, .plain, .dflt⟩
def qAcq : MemQ := ⟨.rc, .device, .acquire, .dflt⟩
def v4 : Src := .v 12 false .none

/-- Class 0b100: the load and store family (R89, R194), and LDREC (R215). -/
def rowsAccess : List (Nat × Instr) :=
  [(lf 0x202 ((70, 8) :: fm 2 (cV 8) 0 3 [2, 5, 0, 1]), .ld h 8 .b32 qAcq 2 v 3),
   (lf 0x20C (fm 1 (cK 0) (cV 12) 0xFFF [0, 6, 1, 0]), .st h .b128 ⟨.sc, .system, .plain, .evictFirst⟩ 1 (.k 0) v4 0xFFF),
   (lf 0x213 ((70, 6) :: fm 0 (cS 7) 0 0 [3, 2, 2, 0]), .ldx h 6 .b64 ⟨.causal, .block, .plain, .evictLast⟩ c 0),
   (lf 0x218 (fm 0 (cS 7) (cX 2) 1 [1, 4, 3, 0]), .stx h .b8 ⟨.tso, .die, .plain, .noAllocate⟩ c b 1),
   (lf 0x221 ((70, 5) :: fm 0 (cK 3) 0 0 [4, 0, 0, 0, 2]), .lds h 5 .b16 ⟨.bulk, .warp, .plain, .dflt⟩ .take a 0),
   (lf 0x22A (fm 0 (cK 0) (cX 2) 2 [2, 2, 0, 2, 3]), .sts h .b32 ⟨.rc, .block, .release, .dflt⟩ true (.k 0) b 2),
   (lf 0x234 ((70, 16) :: fm 0 (cK 0) 0 0 [2, 3, 0, 1]), .ldcl h 16 .b128 ⟨.rc, .cluster, .acquire, .dflt⟩ (.k 0) 0),
   (lf 0x23A (fm 0 (cK 0) (cX 2) 0 [2, 1]), .stcl h .b32 ⟨.rc, .team, .plain, .dflt⟩ (.k 0) b 0),
   (lf 0x24B (fm 9 (cS 7) 0 1 [2, 5, 0, 1]), .ldrec h qAcq 9 c 1)]
/-- Class 0b100: the other rows (R199 to R214). -/
def rowsMemory : List (Nat × Instr) :=
  [(lf 0x240 (fm 0 (cK 0) 0 1 []), .bset h (.k 0) 1), (lf 0x241 (fm 0 (cK 16) 0 0xFFF []), .bclr h (.k 16) 0xFFF),
   (lf 0x242 (D ++ fm 0 (cK 0) 0 2 []), .btest h e (.k 0) 2),
   (lf 0x243 (fm 3 (cK 16) 0 3 [0, 0, 2]), .pref h true .evictLast 3 (some (.k 16))), (lf 0x243 (fm 3 0 0 0 []), .pref h false .dflt 3 none),
   (lf 0x244 (fm 3 0 0 0 []), .prefDemote h 3), (lf 0x245 (fm 0 0 0 2 [4, 5]), .bridge h .bulk .rc .device),
   (lf 0x246 (fm 0 0 0 0 [2, 6, 0, 3]), .fence h .rc .system .acqRel),
   (lf 0x247 (fm 0 (cS 7) 0 1 [2, 5]), .monitor h .rc .device c 1), (lf 0x248 (D ++ fm 0 (cK 9) 0 0 []), .mwait h e (.k 9)),
   (lf 0x249 (D ++ fm 0 (cK 3) 0 1 []), .acvtTogen h e 1 a), (lf 0x249 (D ++ fm 0 (cS 7) 0 10 []), .acvtFromgen h e 2 c),
   (lf 0x24A (D ++ fm 0 (cS 7) 0 5 []), .atest h e 5 c)]
/-- Class 0b101 (R90, R202, R203, R242 to R246). -/
def rowsAtomic : List (Nat × Instr) :=
  [(lf 0x280 ((70, 24) :: fm 1 (cK 0) (cK 1) 0 [2, 5, 0, 0, 0]), .atom h 24 .add false ⟨.rc, .device, .plain, .dflt⟩ .record 1 (.k 0) (.k 1) 0),
   (lf 0x293 ((70, 24) :: fm 0 (cS 7) (cV 12) 1 [0, 6, 0, 0, 1]), .atom h 24 .cas true ⟨.sc, .system, .plain, .dflt⟩ .generic 0 c v4 1),
   (lf 0x295 ((70, 24) :: fm 0 (cK 0) (cX 2) 0 [2, 2, 0, 3, 2]), .atom h 24 .fadd true ⟨.rc, .block, .acqRel, .dflt⟩ .scratch 0 (.k 0) b 0),
   (lf 0x2A9 (fm 0 (cK 0) (cS 7) 0 [2, 3, 0, 2, 3]), .red h .maxN true ⟨.rc, .cluster, .release, .dflt⟩ .cluster 0 (.k 0) c 0)]
def rowsRally : List (Nat × Instr) :=
  [(lf 0x2C0 (fi 0 (5 + 16 * 2) 0 0), .rally h 5 2), (lf 0x2C0 (fi 0 (5 + 16 * 32) 0 1), .rallyGo h 5 32), (lf 0x2C1 (fi 0 0 0 2), .crally h),
   (lf 0x2C1 (fi 0 0 0 0), .crallyGo h), (lf 0x2C1 (fi 0 0 0 1), .crallyHold h)]
def rowsBarrier : List (Nat × Instr) :=
  [(lf 0x2C2 (fm 0 (cK 16) (cK 3) 1 []), .barinit h (.k 16) a 1), (lf 0x2C3 (D ++ fm 0 (cK 16) (cK 3) 0xFFF []), .arrive h e (.k 16) a 0xFFF),
   (lf 0x2C4 (D ++ fm 0 (cK 16) (cK 0) 0 []), .trywait h e (.k 16) (.k 0) 0), (lf 0x2C5 (fm 0 (cK 16) (cK 0) 0 []), .wait h (.k 16) (.k 0) 0)]

/-- Class 0b110 (R91, R225, R247, R256). -/
def rowsSigning : List (Nat × Instr) :=
  [(lf 0x302 (fx [2, 1, cK 0, cS 7, 4, 127, 1]), .mma h 2 1 (.k 0) c 4 127 true), (lf 0x303 (fx [7, 0, cK 0, cK 64, 15, 0, 0]), .mxrun h 7 0 (.k 0) (.k 64) 15 0 false),
   (lf 0x308 (fx [0, 3, cK 5, cK 16, 0, 1]), .accrd h 0 3 (.k 5) (.k 16) 1), (lf 0x309 (fx [0, 3, cK 5, cK 16, 0, 1]), .accwr h 0 3 (.k 5) (.k 16) 1),
   (lf 0x30A (fx [0, 3, cK 5, cK 16, 0, 1]), .acccvt h 0 3 (.k 5) (.k 16) 1)]
def rowsMatrix : List (Nat × Instr) :=
  [(lf 0x300 [], .mxacq h), (lf 0x301 [], .mxrel h), (lf 0x304 (D ++ fx [0, 6]), .mxwait h e 6),
   (lf 0x305 (fx [0, 0, cK 0, cS 7, 4, 63, 0, 1]), .dkld h (.k 0) c 4 63 true), (lf 0x306 (fx [0, 0, 0, 0, 4]), .dkfree h 4), (lf 0x307 (fx [5]), .accz h 5),
   (lf 0x30B (D ++ fx [5, 0, 0, 0, 0, 0, 1]), .accstat h e 5 true), (lf 0x30C [], .opfence h)]
def rowsTransfer : List (Nat × Instr) :=
  [(lf 0x340 (D ++ fm 0 (cK 64) 0 1 []), .xpost h e (.k 64) 1), (lf 0x341 (D ++ fm 0 (cK 3) 0 0 []), .xcancel h e a), (lf 0x342 (D ++ fm 0 (cK 3) 0 0 []), .xquery h e a)]

/-- Class 0b111 (R92, R260). -/
def rowsRead : List (Nat × Instr) :=
  [(lf 0x383 (D ++ fs 6 0 0 0 4), .frec h e 6 4), (lf 0x388 (D ++ fs 17 0 0 0 0), .srd h e 17),
   (lf 0x38A (D ++ fs 17 0 0 1 1), .acct h e 17 true true), (lf 0x38B (D ++ fs 63 0 0 1 0), .cnt h e 63 true)]
def rowsSystem : List (Nat × Instr) :=
  [(lf 0x380 (fs 0 0 0 7 0), .trap h 7), (lf 0x382 (fs 0 0 0 0 0), .resume h), (lf 0x382 (fs 0 0 0 0 1), .resumeNext h),
   (lf 0x384 (D ++ fs 0 0 0 0 3), .ffixMap h e 3), (lf 0x385 (D ++ fs 0 (cV 8) 0 0 2), .ffixEmul h e 2 v), (lf 0x386 (fs 0 0 0 0 1), .ffixSkip h 1),
   (lf 0x387 (fs 0 0 0 9 0), .bpt h 9), (lf 0x389 (fs 14 (cK 1) 0 0 0), .swr h 14 (.k 1)), (lf 0x389 (fs 15 (cK 1) 0 0 0), .swr h 15 (.k 1)),
   (lf 0x38A (fs 18 0 0 0 0), .acctSnap h), (lf 0x38C (fs 0 (cK 3) 0 0xBEEF 0), .mark h 0xBEEF a)]
def rowsSvc : List (Nat × Instr) :=
  [(lf 0x381 (D ++ fs 0 (cK 0) (cX 2) 0 0), .svcInfo h e (.k 0) b), (lf 0x381 (D ++ fs 1 (cS 7) (cX 2) 0 0), .svcReside h e c b),
   (lf 0x381 (D ++ fs 2 (cS 7) (cK 0) 0 0), .svcNotify h e c (.k 0)), (lf 0x381 (D ++ fs 3 (cS 7) (cK 1) 0 0), .svcBias h e c (.k 1)),
   (lf 0x381 (D ++ fs 255 (cS 7) (cX 2) 0 0), .svcUndefined h e 255 c b)]

/-- VPOINT (R144). -/
def rowsVpoint : List (Nat × Instr) := [(lf 0x0CA [(1, 63)], .vpoint h 63)]

theorem test_decode_vpoint : decodes rowsVpoint = true := by decide +kernel
theorem test_decode_memory : decodes (rowsAccess ++ rowsMemory) = true := by decide +kernel
theorem test_decode_atomic : decodes (rowsAtomic ++ rowsRally ++ rowsBarrier) = true := by decide +kernel
theorem test_decode_matrix : decodes (rowsSigning ++ rowsMatrix ++ rowsTransfer) = true := by decide +kernel
theorem test_decode_system : decodes (rowsRead ++ rowsSystem ++ rowsSvc) = true := by decide +kernel

/-- Every instruction row stands above. -/
def rows : List Instr :=
  (rowsInteger ++ rowsPredicate ++ rowsControl ++ rowsBranch ++ rowsFloat ++ rowsLong ++ rowsConvert ++ rowsFmtw ++ rowsAccess ++ rowsMemory
    ++ rowsAtomic ++ rowsRally ++ rowsBarrier ++ rowsSigning ++ rowsMatrix ++ rowsTransfer ++ rowsRead ++ rowsSystem ++ rowsSvc
    ++ rowsVpoint).map (·.2)

/-! ### Ill-formed terms, one for each check (R60 to R94) -/

theorem test_ill_formed :
    formCheck .hbmScrub = some .undefinedOpcode ∧ formCheck (.nop ⟨true, 48, false⟩) = some .guard ∧
      formCheck (.exit ⟨false, 0, false⟩) = some .runEnd ∧ formCheck (.mov h d .b64 (.v 5 false .none)) = some .source ∧
      formCheck (.brx h 0 (.k 1)) = some .source ∧ formCheck (.ffixEmul h e 2 a) = some .source ∧
      formCheck (.mov h ⟨false, 5, false, 0⟩ .b64 c) = some .destination ∧ formCheck (.mov h ⟨true, 64, false, 0⟩ .b32 c) = some .destination ∧
      formCheck (.lead h ⟨48, false, 0⟩) = some .destination ∧ formCheck (.zadd h d .s8 false a b) = some .form ∧
      formCheck (.bridge h .rc .rc .warp) = some .form ∧ formCheck (.vpoint ⟨true, 1, false⟩ 0) = some .form ∧
      formCheck (.red h .cas false q0 .record 0 a v 0) = some .form ∧
      (∀ i ∈ [Instr.nop ⟨true, 48, false⟩, .exit ⟨false, 0, false⟩, .brx h 0 (.k 1), .lead h ⟨48, false, 0⟩, .zadd h d .s8 false a b],
        i.wellFormed = false ∧ decodeTableWord 96 (encode i).toNat = none) := by decide +kernel

/-- An undefined opcode, a nonzero unused field, a reserved code and a cleared bit 0 are refused (R63, R70, R84); the
short form of the worked example reads as its long form, a unary one with a B field is refused (R83). -/
theorem test_refused :
    [lf 0x015 [], lf 0x0C8 [(1, 1)], lf 0x000 (D ++ fa (cK 3) 0 0 19 0), lf 0x013 (D ++ fa (cK 3) (cX 1) 0 10 0), lf 0x2C1 (fi 0 0 0 3),
      lf 0x181 (D ++ [(48, cV 8), (29, cK 0), (24, 14), (22, 3), (5, 18)])].all (fun x => (decodeTableWord 96 x).isNone) = true ∧
    decodeTableWord 48 0x000208030200 = some (.zadd ⟨true, 0, false⟩ ⟨false, 4, false, 0⟩ .s32 false (.v 1 true .none) (.v 2 false .none)) ∧
    decodeTableWord 48 (word [(40, 0x2B), (33, 1), (25, 7), (17, 16), (16, 1), (8, 3)]) = none := by decide +kernel

/-! ### States -/

/-- The machine as its next slot sees it. -/
def slotOf (s : State) : State := match nextSlot s with | .issue _ t => t | _ => s
/-- All v registers of the loaded warp are allocated. -/
def full (w : Warp) : Warp := { w with rf := { w.rf with alloc := BitVec.allOnes 256 } }
/-- The instruction in its slot: core 0, quadrant 0, side A, warp 0, block 0, launch 0, context 1. f prepares the state. -/
def at_ (i : Instr) (f : State → State := id) : State :=
  slotOf (f ((loadWord State.reset (encode i).toNat).modWarp 0 full))
/-- What the instruction sees. -/
def cx (i : Instr) (s : State) : Cx := match gate s i with | .go c => c | _ => default

/-- The instruction passes the gate, as `Goes` says. -/
def goes (i : Instr) (s : State) : Bool :=
  let c := cx i s
  (match gate s i with | .go _ => true | _ => false) && decide (c.iss.warp < s.warps.length) && decide ((s.warp c.iss.warp).thr.length = 32)
    && decide ((s.warp c.iss.warp).group? c.iss.gid = some c.g) && decide (c.g.gid = c.iss.gid)
/-- The next state, where there is one. -/
def nxt (i : Instr) (s : State) : Option State := match exec i s with | .next t => some t | _ => none
/-- The instruction passes the gate in this state, what it sees meets p, and it answers a next state. -/
def met (i : Instr) (s : State) (p : Cx → Bool) : Bool := goes i s && p (cx i s) && (nxt i s).isSome

theorem goes_cx {i : Instr} {s : State} (k : goes i s = true) : Goes i s (cx i s) := by
  simp only [goes, Bool.and_eq_true, decide_eq_true_eq] at k
  obtain ⟨⟨⟨⟨h1, h2⟩, h3⟩, h4⟩, h5⟩ := k
  refine ⟨?_, h2, h3, h4, h5⟩
  unfold cx
  split at h1
  · next k => rw [k]
  · exact absurd h1 (by decide)
/-- What `met` says. -/
theorem met_goes {i : Instr} {s : State} {p : Cx → Bool} (k : met i s p = true) : ∃ c t, Goes i s c ∧ p c = true ∧ exec i s = .next t := by
  simp only [met, Bool.and_eq_true] at k
  obtain ⟨⟨k1, k2⟩, k3⟩ := k
  unfold nxt at k3
  split at k3
  · next t e => exact ⟨_, t, goes_cx k1, k2, e⟩
  · exact absurd k3 (by decide)

/-- Each row, as loaded and in its slot, passes the gate, is well formed, and meets p. -/
def all (l : List (Nat × Instr)) (p : Instr → Cx → Bool) : Bool := l.all (fun x => x.2.wellFormed && met x.2 (at_ x.2) (p x.2))
/-- No active lane raises an exception that is enabled. -/
def quiet (f : Option Values.LaneSpec) (c : Cx) : Bool :=
  f.any (fun v => (lanesOf c.act).all (fun l => (Values.firstExc (c.rf.fpctl.extractLsb' 6 5).toNat (v.val State.reset c l).flags).isNone))

theorem witness_IntegerLanes : all rowsInteger (fun i _ => (Values.integer i).isSome) = true := by decide +kernel
theorem witness_PredicateLanes : all rowsPredicate (fun i _ => (Values.predicate i).isSome) = true := by decide +kernel
theorem witness_FloatLanes : all rowsFloat (fun i c => quiet (Values.float i) c) = true := by decide +kernel
theorem witness_ConvertLanes : all rowsConvert (fun i c => quiet (Values.convert i) c) = true := by decide +kernel
theorem witness_LongLatencyIssues : all rowsLong (fun i c => (Values.long i).isSome && c.act != 0 && c.iss.core == 0) = true := by decide +kernel
theorem witness_SystemReads : all (rowsRead ++ rowsMemory.drop 10) (fun i c => (Values.system i).isSome && c.w.llr.isEmpty) = true := by decide +kernel
theorem witness_ControlGoesOn : all rowsControl (fun _ c => c.act != 0) = true := by decide +kernel
theorem witness_AccessRows : all (rowsAccess ++ rowsAtomic) (fun i c => (memOpOf i).isSome && c.act != 0) = true := by decide +kernel
theorem witness_OtherRows : all (rowsBranch ++ rowsFmtw ++ rowsMemory ++ rowsRally ++ rowsBarrier.take 3 ++ rowsSigning ++ rowsMatrix ++ rowsTransfer.drop 1
  ++ rowsSystem ++ rowsSvc ++ rowsVpoint) (fun _ c => c.act != 0) = true := by decide +kernel

/-! ### Preparing a state: each changes one part of the loaded machine -/

def onW (f : Warp → Warp) (s : State) : State := s.modWarp 0 f
def onB (f : Block → Block) (s : State) : State := s.modBlock 0 f
def onC (f : Core → Core) (s : State) : State := s.modCore 0 f
def onX (f : Ctx → Ctx) (s : State) : State := s.modCtx 1 f
def onL (f : Launch → Launch) (s : State) : State := s.modLaunch 0 f
def onT (f : Nat → Thread → Thread) : State → State := onW (fun w => w.modLanes (BitVec.allOnes 32) f)
def onG (f : Group → Group) : State → State := onW (fun w => w.modGroup 0 f)
/-- Uniform registers s0, s1 and s2. -/
def su (x y z : W64) : State → State := onW (fun w => { w with rf := { w.rf with s := [(0, x), (1, y), (2, z)] } })
/-- The first n bytes of the block's window hold 0, and then x at o. -/
def win (n o k x : Nat) : State → State :=
  onC (fun c => scrWrite { c with scr := (List.range n).map (fun i => (262144 + i, 0)) } (262144 + o) k x)
/-- A bit of a launch record set. -/
def bit (k : Nat) (l : Launch) : Launch := { l with record := l.record ||| BitVec.ofNat 4096 (2 ^ k) }
def off : Hd := ⟨true, 0, true⟩

/-! ### The machine and the gate -/

/-- The machine with a NOP to issue; and the same with its lanes 16 to 31 on side B. -/
def loaded : State := loadWord State.reset (encode (.nop h)).toNat
def sideB : State :=
  { (loaded.modWarp 0 (fun w => { w with groups := w.groups.flatMap (fun g => [{ g with mask := 0xFFFF }, { g with gid := 1, mask := 0xFFFF0000 }]), nextGid := 2 })).modQuad 0 0
      (fun q => { q with b := some 1 }) with focus := ⟨0, 0, .B⟩ }
/-- The machine with a word to issue that is none. -/
def undecoded : State := onG (fun g => { g with pos := { g.pos with run := [⟨0x10000, BitVec.ofNat 96 (lf 0x015 []), 12, false⟩] } }) loaded

theorem witness_RoundTrip : ∀ i ∈ rows, i.wellFormed = true ∧ decodeWord (encode i) = .ok i := by decide +kernel
theorem witness_RunEnders :
    (endsRun (.exit ⟨false, 0, false⟩) = true ∧ endsRun (.nop off) = false) ∧
      ((undecoded.warp 0).group? 0).any (fun g => g.cur.any (fun f => match decodeWord f.word with | .illegal _ => true | .ok _ => false)) = true := by
  decide +kernel
theorem witness_StepRunsTheInstruction :
    (∃ g f, loaded.sched = [] ∧ loaded.boot = .up ∧ coreRuns loaded 0 = true ∧ (loaded.quad 0 0).hold = some 0 ∧ (loaded.warp 0).group? 0 = some g ∧
      g.cur = some f ∧ decodeWord f.word = .ok (.nop h) ∧ loaded.focus = ⟨0, 0, .A⟩ ∧ (loaded.core 0).stop = .no ∧ blockRuns loaded (loaded.warp 0) = true ∧
      groupWhy loaded (loaded.warp 0) g = none ∧ throttled loaded (loaded.warp 0) = false ∧ (loaded.quad 0 0).a = some 0) ∧
    (∃ g f, sideB.sched = [] ∧ sideB.boot = .up ∧ coreRuns sideB 0 = true ∧ (sideB.quad 0 0).hold = some 0 ∧ (sideB.warp 0).group? 1 = some g ∧
      g.cur = some f ∧ decodeWord f.word = .ok (.nop h) ∧ sideB.focus = ⟨0, 0, .B⟩ ∧ (sideB.quad 0 0).b = some 1 ∧ blockRuns sideB (sideB.warp 0) = true ∧
      groupWhy sideB (sideB.warp 0) g = none ∧ throttled sideB (sideB.warp 0) = false) :=
  ⟨⟨(loaded.warp 0).group 0, ⟨0x10000, encode (.nop h), 12, false⟩, by decide +kernel⟩, ⟨(sideB.warp 0).group 1, ⟨0x10000, encode (.nop h), 12, false⟩, by decide +kernel⟩⟩
/-- A run that is not fetched yet, its line in the core, and a quadrant that no warp holds. -/
def toFetch : State := onG (fun g => { g with pos := { g.pos with run := [] } }) loaded
def nopRun : List Fetched := [⟨0x10000, encode (.nop h), 12, false⟩]
def lineHeld : State := holdCode toFetch (toFetch.warp 0) nopRun
def idle : State := loaded.modQuad 0 0 (fun q => { q with hold := none, a := none })
theorem witness_StepRunsTheEvent :
    ({ loaded with sched := [.hbmScrub] }.sched = [Instr.hbmScrub] ∧ { loaded with sched := [.hbmScrub] }.between = true ∧ isEvent .hbmScrub = true) ∧
      (idle.sched = [] ∧ idle.boot = .up ∧ coreRuns idle idle.focus.core = true ∧ (idle.core idle.focus.core).stop = .no ∧ idle.focus.side = .A ∧
        (idle.quad idle.focus.core idle.focus.quad).hold = none) ∧
      (fetchRun lineHeld (lineHeld.warp 0) ((lineHeld.warp 0).group 0).pos.start = .got nopRun ∧
        (nopRun.flatMap (codeLines lineHeld (lineHeld.warp 0))).all ((heldCode lineHeld (lineHeld.warp 0)).map (·.line)).contains = true) := by
  decide +kernel
/-- A loaded machine meets the premises of both invariants, and steps. -/
theorem witness_MemoryStaysCanonical : loaded.Inv ∧ ∃ t, step loaded = .next t := by
  refine ⟨by unfold State.Inv; decide +kernel, ?_⟩
  have k : (match step loaded with | .next _ => true | _ => false) = true := by decide +kernel
  split at k
  · next t e => exact ⟨t, e⟩
  · exact absurd k (by decide)
theorem witness_SubgroupNamesStayDistinct : ∀ w ∈ sideB.warps, w.groups.Pairwise (fun g k => g.gid ≠ k.gid) ∧ ∀ g ∈ w.groups, g.gid < w.nextGid := by
  decide +kernel

/-- A load to v4 and v5 that is on its way. -/
def pending : Txn := { (default : Txn) with dst := 4, nregs := 2, mask := 1, accs := [{ (default : Acc) with st := .issued }] }
def zadd : Instr := .zadd h ⟨false, 4, false, 1⟩ .s32 false v a
def gateIs (i : Instr) (s : State) (p : Gate → Bool) : Bool := p (gate s i) && (nxt i s).isSome
def loaded' : State := at_ (.nop h)
theorem witness_GateOpens : goes zadd (at_ zadd) = true := by decide +kernel
/-- What the subgroup's run has loaded: v4 and v5. -/
def hasLoaded : State → State := onW fun w => { w with loads := [⟨(w.group 0).runId, 1, [4, 5], []⟩] }
/-- A destination loaded in its own run, and a source that is not allocated. -/
theorem witness_TrapAtTheGate :
    gateIs zadd (at_ zadd hasLoaded) (fun g => match g with | .trap _ .illegal => true | _ => false) = true ∧
      gateIs zadd (at_ zadd (onW fun w => { w with rf := { w.rf with alloc := 0 } })) (fun g => match g with | .trap _ .regUndef => true | _ => false) = true := by
  decide +kernel
/-- The instruction as the second of its run. -/
def inside : State → State := onG fun g => { g with pos := { g.pos with run := ⟨0x10000, encode (.nop h), 12, false⟩ :: g.pos.run, off := 1 } }
def poolEmpty (s : State) : State := s.modQuad 0 0 (fun q => { q with avail := 0 })
/-- The names of the results in the warp were drawn before the cycle. -/
def later (s : State) : State := { s with ctr := 1 }
/-- A held port, an outstanding long-latency result, data on its way, and a pool without a register. -/
theorem witness_HeldOrSuspended :
    let ld : Instr := .lds h 5 .b32 q0 .none a 0
    gateIs ld (at_ ld (fun s => s.modQuad 0 0 (fun q => { q with memUntil := 1 }))) (fun g => match g with | .hold _ .pipe => true | _ => false) = true ∧
      gateIs zadd (at_ zadd (fun s => later (onW (fun w => { w with llr := [{ (default : Llr) with dst := 8 }] }) s))) (fun g => match g with | .hold _ .dependence => true | _ => false) = true ∧
      gateIs zadd (at_ zadd (fun s => later (onW (fun w => { w with txns := [pending] }) (inside s)))) (fun g => match g with | .hold _ .dependence => true | _ => false) = true ∧
      gateIs (.lead h e) (poolEmpty (at_ (.movImm h d .b32 1) (onW fun w => { w with rf := { w.rf with alloc := 0 } }))) (fun g => match g with | .go _ => true | _ => false) = true ∧
      gateIs (.movImm h d .b32 1) (poolEmpty (at_ (.movImm h d .b32 1) (onW fun w => { w with rf := { w.rf with alloc := 0 } }))) (fun g => match g with | .full _ => true | _ => false) = true := by decide +kernel
theorem witness_TakingATrap : ∃ (s : State) (c : Cx) (ks : Nat → Option Kind), c.iss.warp < s.warps.length ∧ (s.warp c.iss.warp).thr.length = 32 ∧
    c.w.core = (s.warp c.iss.warp).core ∧ c.w.block = (s.warp c.iss.warp).block ∧ ∃ l, l < 32 ∧ ks l ≠ none :=
  have g := goes_cx (i := .nop h) (s := loaded') (by decide +kernel)
  ⟨loaded', cx (.nop h) loaded', fun _ => some .illegal, g.warp, g.lanes, by rw [(gate_go g.gate).2.2.1, Warp.seen_core], by rw [(gate_go g.gate).2.2.1, Warp.seen_block], 0, by decide, by simp⟩
/-- Inside a run and at its end. -/
theorem witness_GoingOn : ∀ i ∈ [Instr.nop h, .nop ⟨false, 0, false⟩],
    met i (at_ i) (fun c => decide (∀ w ∈ (at_ i).warps, w.groups.Pairwise (fun g k => g.gid ≠ k.gid) ∧ ∀ g ∈ w.groups, g.gid < w.nextGid) && c.g.gid == 0) = true := by
  decide +kernel

/-! ### Integer to system instructions -/

/-- The instruction in a prepared state. -/
def one (i : Instr) (f : State → State) (p : Cx → Bool := fun _ => true) : Bool := met i (at_ i f) p
/-- Every one of a list of witnesses holds. -/
def every (l : List Bool) : Bool := l.all id
def alive (c : Cx) : Bool := c.act != 0
def nobody (c : Cx) : Bool := c.act == 0
/-- A lane of a state's warp 0. -/
def lane0 (s : State) : Thread := (s.warp 0).thread 0
/-- FPCTL with the trap of an invalid operation enabled. -/
def ivTrap : State → State := onW (fun w => { w with rf := { w.rf with fpctl := 0x40 } })
def snan : Instr := .fmul h d .f32 .rn (.s 0) a
def deep : State → State := onT (fun _ t => { t with depth := true, trec := some ⟨.userTrap, 0x10000, 7, 0, 1⟩, intr := some ⟨⟨0x10000, [], 0⟩, 0, default, .userTrap⟩ })

theorem witness_QsetWritesTheBank : one (.qset h true a b) id alive = true := by decide +kernel
/-- A signalling NaN with the invalid trap enabled (R166). -/
theorem witness_EnabledExceptionsTrap : snan.wellFormed && one snan (fun s => ivTrap (su 0x7F800001 0 0 s)) (fun c =>
    (Values.float snan).any (fun v => Values.firstExc (c.rf.fpctl.extractLsb' 6 5).toNat (v.val State.reset c 0).flags == some .fpInvalid)) = true := by
  decide +kernel
/-- A legal word, and one whose A and B formats differ. -/
theorem witness_FmtwChecksItsWord :
    every [one (.fmtw h d (.k 0)) id (fun c => (lanesOf c.act).all (fun l => fmtLegal (Values.w32 c (.k 0) l).toNat)),
      one (.fmtw h d (.k 1)) id (fun c => !fmtLegal (Values.w32 c (.k 1) 0).toNat && hasLane c.act 0)] = true := by decide +kernel
/-- 1/3, the largest value below overflow and a value below the least subnormal; 10^6 and the next value above it. -/
theorem witness_RoundingSelects :
    every ([(1, 3), (2 ^ 128 - 2 ^ 104, 1), (1, 2 ^ 160)].map (fun x => (roundBin .f32 .rn false false false x.1 x.2).2 / 4 % 2 == 0)) = true := by decide +kernel
theorem witness_DecimalRoundingSelects : (0 < 1000000 ∧ 1000000 ≤ 1000000 * 1) ∧ 1000000 * 1 < 1000001 := by decide
theorem witness_SqrtIsRounded : (match decodeBin .f32 0x40000000 with | .fin false n _ => 0 < n | _ => false) = true := by decide +kernel
/-- −1.0; 2^−126 and 2^126; −126.0, 127.0 and 128.0; 10.0. -/
theorem witness_SpecialFunctionTable :
    every [(match decodeBin .f32 (flushIn .f32 0 0xBF800000) with | .fin true n _ => 0 < n | _ => false),
      (match decodeBin .f32 (flushIn .f32 0 0xC2FC0000) with | .fin true n d => 0 < d && n == 126 * d | _ => false),
      (match decodeBin .f32 (flushIn .f32 0 0x42FE0000) with | .fin false n d => 0 < d && n == 127 * d | _ => false),
      (match decodeBin .f32 (flushIn .f32 0 0x43000000) with | .fin false n d => 128 * d ≤ n | _ => false),
      (match decodeBin .f32 (flushIn .f32 0 0xC1200000) with | .fin true n d => 10 * d ≤ n | _ => false)] = true := by decide +kernel

/-- Even targets; a target of 1. -/
theorem witness_BranchesGo :
    all rowsBranch (fun i c => c.iss.f.ends && (Values.target i).any (fun f => (List.range 32).all (fun l => !(f c l).getLsbD 0))) = true ∧
      one (.brx h 0 (.s 0)) (su 1 0 0) (fun c => alive c && (Values.w64 c (.s 0) 0).getLsbD 0) = true := by decide +kernel
/-- A disarmed barrier; an armed one that expects half of the lanes. -/
def armed : State → State := onW (fun w => { w with joins := w.joins.set 9 ⟨true, 0xFFFF, 0⟩ })
theorem witness_JoinWaitWaits :
    every [one (.joinWait h 9) id (fun c => !(c.w.joins.getD 9 default).armed), one (.joinWait h 9) armed (fun c => (c.w.joins.getD 9 default).armed && alive c)] = true := by
  decide +kernel
/-- A load whose access may still fault. -/
def flying : State → State := onW (fun w => { w with txns := [{ (default : Txn) with id := 5, mask := 1, runId := 9, dst := 40, nregs := 1, dom := .rc, accs := [{ (default : Acc) with sp := .global, n := 4, st := .issued }] }] })
theorem witness_ExitEndsItsLanes :
    every [one (.exit off) id nobody, one (.exit h) deep (fun c => c.w.deep &&& c.act != 0 && c.w.block == 0),
      one (.exit h) flying (fun c => alive c && c.w.deep &&& c.act == 0 && mayFault c.w c.act),
      one (.exit h) id (fun c => alive c && c.w.deep &&& c.act == 0 && !mayFault c.w c.act)] = true := by decide +kernel
/-- A variant without the switch point; the wrong open rendezvous; a handler; and a switch point that variant 0 has. -/
def point : State → State := onL (fun l => { l with tables := some [(0, 63)] })
theorem witness_VpointWaits :
    let i : Instr := .vpoint h 63
    every [one i id (fun c => alive c && (switchEntry ((at_ i).launch 0) 0 63).isNone), one i (fun s => onB (fun b => { b with vp := .opened 1 }) (point s)) alive,
      one i (fun s => deep (point s)) (fun c => c.w.deep &&& c.act != 0),
      one i point (fun c => alive c && (switchEntry ((at_ i point).launch 0) 0 63).isSome && c.w.deep &&& c.act == 0 && ((at_ i point).block 0).vp.num.isNone)] = true := by
  decide +kernel
def llr1 : State → State := onW (fun w => { w with llr := [{ (default : Llr) with act := 1, dst := 99 }] })
def ring : State → State := onX (fun x => { x with trace := some ⟨0x40000, 12, 12⟩, dbg := some (2 ^ 9) })
theorem witness_SwrFpstat : one (.swr h 15 (.k 1)) id (fun c => c.w.llr.isEmpty) = true := by decide +kernel
/-- FPCTL legal and with a reserved bit; no active lane; an outstanding result; a snapshot; MARK without and with a ring. -/
theorem witness_SystemWrites :
    every [one (.swr h 14 (.k 1)) id (fun c => alive c && Values.w32 c (.k 1) 0 &&& 0xFFFFF820 == 0),
      one (.swr h 14 (.k 32)) id (fun c => alive c && Values.w32 c (.k 32) 0 &&& 0xFFFFF820 != 0), one (.swr off 14 (.k 1)) id nobody, one (.swr off 15 (.k 1)) id nobody,
      one (.swr h 15 (.k 1)) llr1 (fun c => alive c && c.w.llr.any (fun r => r.act &&& c.act != 0)), one (.acctSnap h) id alive, one (.mark off 1 a) id nobody,
      one (.mark h 1 a) id (fun c => (Values.ctxOf (at_ (.mark h 1 a)) c).trace.isNone), one (.mark h 1 a) ring alive] = true := by decide +kernel
theorem witness_TrapAndBreakpoint :
    every [one (.trap h 7) id alive, one (.trap off 7) id nobody, one (.bpt off 9) ring nobody, one (.bpt h 9) id (fun c => (Values.ctxOf (at_ (.bpt h 9)) c).dbg.isNone),
      one (.bpt h 8) ring (fun c => (Values.ctxOf (at_ (.bpt h 8) ring) c).dbg == some 512), one (.bpt h 9) ring (fun c => alive c && (512).testBit 9)] = true := by decide +kernel
theorem witness_SvcPassesTheCall :
    let i : Instr := .svcInfo h e (.k 0) b
    every [one (.svcInfo off e (.k 0) b) id nobody, one i id (fun c => alive c && svcWait (at_ i) c.w c.act == []),
      one i flying (fun c => alive c && svcWait (at_ i flying) c.w c.act != [])] = true := by decide +kernel
theorem witness_ResumeReturns :
    every [one (.resume off) id nobody, one (.resumeNext h) id (fun c => alive c && c.act &&& ~~~c.w.deep != 0),
      one (.resume h) deep (fun c => alive c && c.act &&& ~~~c.w.deep == 0 && recsOf c.w c.act == [] && ((at_ (.resume h) deep).core c.w.core).pfq.isEmpty && (List.range 32).all (fun l => (c.w.thread l).intr.isSome)),
      one (.resumeNext h) deep (fun c => c.act &&& ~~~c.w.deep == 0)] = true := by decide +kernel
/-- A handler whose record 2 holds a load of v40 in lane 0, of 4 bytes at the page 0x60000 that is not there; record 3 is a
later one of lane 1. -/
def rec_ : FaultRec := ⟨{ (default : Txn) with mask := 1, dst := 40, nregs := 1, size := 4, kind := .load, accs := [⟨0, 0, 4, .global, 0x60000, 0, 0, 0, false, .fault .notPresent 0, .issued, 0⟩] }, .notPresent, 0, 3, 0⟩
def recs : State → State := fun s => onW (fun w => { w with fr := [none, none, some rec_, some { rec_ with seq := 4, txn := { rec_.txn with mask := 2 } }] }) (deep s)
theorem witness_FaultFixing :
    every [one (.ffixMap off e 2) recs nobody, one (.ffixEmul h e 2 v) id (fun c => c.act &&& ~~~c.w.deep != 0), one (.ffixMap h e 1) recs (fun c => alive c && c.act &&& ~~~c.w.deep == 0 && (fixable c 1).isNone),
      one (.ffixMap h e 2) recs (fun c => c.act &&& ~~~c.w.deep == 0 && (fixable c 2).any (fun r => r.kind != .deferred)),
      one (.ffixEmul h e 0 v) recs (fun c => c.act &&& ~~~c.w.deep == 0 && (fixable c 0).isNone),
      one (.ffixEmul h e 2 v) recs (fun c => c.act &&& ~~~c.w.deep == 0 && (fixable c 2).isSome && (Opd.grp v 1).ok && c.rf.has 8
        && !llrHold c.w c.g (c.emul (.grp v 1)).p && !c.w.namesLoaded c.g (c.emul (.grp v 1)).p && !(c.emul (.grp v 1)).owed (at_ (.ffixEmul h e 2 v) recs)),
      one (.ffixSkip h 0) recs (fun c => c.act &&& ~~~c.w.deep == 0 && (c.w.frAt 0).isNone), one (.ffixSkip h 2) recs (fun c => c.act &&& ~~~c.w.deep == 0 && (c.w.frAt 2).isSome)] = true := by
  decide +kernel

/-! ### Memory instructions -/

def spotsClean (l : List (Nat × Spot)) : Bool := l.all (fun x => match x.2 with | .trap _ => false | _ => true)
/-- The premises of AccessesGoIntoFlight, and those of LocalAccesses. -/
def flight (i : Instr) (s : State) : Bool :=
  met i s (fun c => c.act != 0 && (memOpOf i).any (fun o =>
    !o.kind.shared && o.bead == 0 && spotsClean (o.spots s c) && !(o.accs c (o.spots s c)).isEmpty
      && (o.accs c (o.spots s c)).all (fun a => !a.local c.w.core || a.st != .issued) && memBlock s c o == none))
def local_ (i : Instr) (s : State) : Bool :=
  met i s (fun c => c.act != 0 && c.w.core == 0 && (memOpOf i).any (fun o =>
    !o.kind.shared && spotsClean (o.spots s c) && !(o.accs c (o.spots s c)).isEmpty
      && (o.accs c (o.spots s c)).all (fun a => a.local c.w.core && a.st == .issued) && memBlock s c o == none
      && lateLanes s c (o.txn c s c.act (o.accs c (o.spots s c))) == 0 && (!(o.bead == 1 || o.bead == 2) || (accGranules (o.accs c (o.spots s c))).all (beadGet (s.core 0)))))
/-- Records b1 and b2 of 4 KiB at 0x50000, s7 = 0x50000, a window of zeros whose first beads are set. -/
def mem : State → State := fun s =>
  onC (fun k => { k with beads := (List.range 8).map (fun i => (16384 + i, true)) }) (win 256 0 1 0
    (onW (fun w => { w with rf := { w.rf with s := [(0, 0x50000), (7, 0x50000)], b := [(1, 0x50000 + 4096 * 2 ^ 64), (2, 0x50000 + 4096 * 2 ^ 64)] } }) s))

/-- LD, ST, LDX, STX, ATOM and RED on global memory; LDS, STS, LDCL, STCL, ATOM and RED on the core's scratchpad. -/
theorem witness_AccessesGoIntoFlight :
    ([.ld h 8 .b32 qAcq 2 v 3, .st h .b128 ⟨.sc, .system, .plain, .evictFirst⟩ 1 (.k 16) v4 0xFFF, .ldx h 6 .b64 ⟨.causal, .block, .plain, .evictLast⟩ c 0,
      .stx h .b8 ⟨.tso, .die, .plain, .noAllocate⟩ c b 1, .atom h 24 .add false ⟨.rc, .device, .plain, .dflt⟩ .record 1 (.k 0) (.k 1) 0,
      .red h .maxN true ⟨.rc, .cluster, .release, .dflt⟩ .generic 0 c c 0].all (fun i => flight i (at_ i mem))) = true := by decide +kernel
theorem witness_LocalAccesses :
    ([.lds h 5 .b16 ⟨.bulk, .warp, .plain, .dflt⟩ .none (.k 4) 0, .lds h 5 .b32 q0 .full (.k 4) 0, .lds h 5 .b16 q0 .take (.k 4) 0,
      .sts h .b32 ⟨.rc, .block, .release, .dflt⟩ true (.k 0) b 2, .sts h .b8 q0 false (.k 5) b 0, .ldcl h 16 .b128 ⟨.rc, .cluster, .acquire, .dflt⟩ (.k 0) 0,
      .stcl h .b32 ⟨.rc, .team, .plain, .dflt⟩ (.k 0) b 0, .atom h 24 .fadd true ⟨.rc, .block, .acqRel, .dflt⟩ .scratch 0 (.k 0) b 0,
      .red h .maxN true ⟨.rc, .cluster, .release, .dflt⟩ .cluster 0 (.k 0) c 0].all (fun i => local_ i (at_ i mem))) = true := by decide +kernel

def ldxS : Instr := .ldx h 6 .b32 q0 (.s 0) 0
/-- Not canonical; misaligned; in no window; window 0's last word; a write, which window 1 forbids; the window's ends of a
scratchpad offset and one byte outside each; a domain that it does not take; the bounds of a record of 40 bytes. -/
theorem witness_AddressChecks :
    (canonical (2 ^ 63) = false ∧ nbits (2 ^ 63) 63 56 ≠ 0xFE) ∧ (canonical 0x50002 = true ∧ 0x50002 % 4 ≠ 0) ∧
      (findWindow (loaded.ctx 1).win 0x100000 = none ∧ canonical 0x100000 = true) ∧ findWindow (loaded.ctx 1).win 0xFFFFC = some 0 ∧
      ((loaded.block 0).size : Int) < 4093 + 4 ∧ ¬ ((loaded.block 0).size : Int) < 4092 + 4 ∧ ((36 : Int) + 4 ≤ 40 ∧ ¬ (37 : Int) + 4 ≤ 40) ∧
      flight ldxS (at_ ldxS mem) = true ∧ one ldxS (su 0x100000 0 0) (fun c => (memOpOf ldxS).any (fun o => !o.kind.shared && o.bead == 0 && alive c
        && memBlock (at_ ldxS (su 0x100000 0 0)) c o == none && !spotsClean (o.spots (at_ ldxS (su 0x100000 0 0)) c))) = true := by decide +kernel

def mon (hit : Bool) : State → State := onW (fun w => { w with mon := { w.mon with armed := true, hit := hit } })
def noData : State → State := onX (fun x => { x with win := List.replicate 8 0 })
def domOf (i : Instr) (s : State) (rel acq : Option Dom) (sc : Scope) (p : Option Cause → Bool) : Bool := met i s (fun c => alive c && p (fenceBlock s c rel acq .rc sc))
/-- Record 0 holds a store of lane 0. -/
def faulted_ : State → State := fun s => { onW (fun w => { w with fr := w.fr.set 0 (some ⟨{ (default : Txn) with kind := .store, dom := .rc, mask := 1 }, .notPresent, 0, 0, 0⟩) }) s with ctr := s.ctr + 1 }
/-- BSET, BCLR and BTEST at the window's last granule and behind it; PREF of nothing, of a range, and refused; FENCE and BRIDGE
that wait and that do not; LDREC and MONITOR that pass and that trap; MWAIT without a monitor, with a changed line, and waiting. -/
theorem witness_OtherMemoryInstructions :
    every ([Instr.bset h (.s 0) 0xFFF, .bclr h (.s 0) 0xFFF, .btest h e (.s 0) 0xFFF].map (fun i =>
        one i (su 4096 0 0) (fun c => (List.range 32).all (fun l => (Machine.beadOf (at_ i (su 4096 0 0)) c (.s 0) 0xFFF l).isSome)) &&
          one i (su 4112 0 0) (fun c => (Machine.beadOf (at_ i (su 4112 0 0)) c (.s 0) 0xFFF 0).isNone))) = true ∧
    every [one (.pref off false .dflt 1 none) mem nobody, one (.pref h false .dflt 3 none) mem (fun c => alive c && (prefTrap (at_ (.pref h false .dflt 3 none) mem) c 3 none).isNone),
      one (.pref h false .dflt 1 none) mem (fun c => alive c && (prefTrap (at_ (.pref h false .dflt 1 none) mem) c 1 none).isNone),
      one (.pref h true .dflt 1 (some (.k 3))) mem (fun c => alive c && (prefTrap (at_ (.pref h true .dflt 1 (some (.k 3))) mem) c 1 (some (.k 3))).isSome),
      one (.prefDemote h 1) mem alive] = true ∧
    every ([Instr.fence h .rc .system .release, .fence h .rc .device .acquire, .bridge h .rc .bulk .device].map (fun i =>
        one i id alive && one i flying (fun c => (fenceBlock (at_ i flying) c (some .rc) none .rc .system).isSome))) = true ∧
    one (.fence h .rc .system .release) faulted_ (fun c => alive c && fenceLate (at_ (.fence h .rc .system .release) faulted_) c (some .rc) none == 1
      && fenceBlock (at_ (.fence h .rc .system .release) faulted_) c (some .rc) none .rc .system == none) = true ∧
    every [one (.fence off .rc .system .release) id nobody, one (.ldrec h qAcq 9 c 1) mem (fun c => (memOpOf (.ldrec h qAcq 9 Tests.c 1)).any (fun o =>
        o.kind.shared && memBlock (at_ (.ldrec h qAcq 9 Tests.c 1) mem) c o == none && lateLanes (at_ (.ldrec h qAcq 9 Tests.c 1) mem) c (o.txn c (at_ (.ldrec h qAcq 9 Tests.c 1) mem) c.act (o.accs c (o.spots (at_ (.ldrec h qAcq 9 Tests.c 1) mem) c))) == 0 && (o.traps c (o.spots (at_ (.ldrec h qAcq 9 Tests.c 1) mem) c)).isEmpty)),
      one (.monitor h .rc .device c 1) mem alive, one (.ldrec h qAcq 9 c 1) noData (fun c => (memOpOf (.ldrec h qAcq 9 Tests.c 1)).any (fun o => !spotsClean (o.spots (at_ (.ldrec h qAcq 9 Tests.c 1) noData) c))),
      one (.mwait h e (.k 9)) id (fun c => !c.w.mon.armed), one (.mwait h e (.k 9)) (mon true) (fun c => alive c && c.w.mon.armed && c.w.mon.hit),
      one (.mwait h e (.k 0)) (mon false) (fun c => alive c && c.w.mon.armed && !c.w.mon.hit)] = true := by decide +kernel

def barOk (i : Instr) (f : State → State) (o : Src) (k : BitVec 12) (p : Except Kind Nat → Bool) : Bool :=
  one i f (fun c => alive c && c.w.core == 0 && (List.range 32).all (fun l => p (barAt (at_ i f) c o k l)))
def good : Except Kind Nat → Bool | .ok _ => true | .error _ => false
def bad (k : Kind) : Except Kind Nat → Bool | .ok _ => false | .error j => j == k
/-- A count of more than the object's; offsets 4080 and 4096 and one that is misaligned; counts 3 and 0; and a phase of 1. -/
theorem witness_BarrierObjects :
    barDown (5 * 2 ^ 32 + 3) 14 % 2 ^ 32 = 4 ∧
      every ([(.barinit h (.s 0) a 0), (.arrive h e (.s 0) a 0), (.trywait h e (.s 0) (.k 0) 0), (.wait h (.s 0) (.k 0) 0)].map (fun i =>
        barOk i (fun s => onC (fun k => scrWrite k 266224 16 0) (su 4080 0 0 s)) (.s 0) 0 good && barOk i (su 4096 0 0) (.s 0) 0 (bad .range)
          && barOk i (su 4088 0 0) (.s 0) 0 (bad .range) && barOk i (su 8 0 0) (.s 0) 0 (bad .misalign))) = true ∧
      every [one (.barinit h (.k 16) (.k 0) 0) (win 64 16 16 0) alive, one (.barinit off (.k 16) a 0) id nobody, one (.wait off (.k 16) a 0) id nobody,
        barOk (.trywait h e (.k 16) (.k 0) 0) (win 64 16 16 (2 ^ 64)) (.k 16) 0 good, barOk (.wait h (.k 16) (.k 0) 0) (win 64 16 16 (2 ^ 64)) (.k 16) 0 good] = true := by decide +kernel

/-! ### Rally points, the matrix class, transfer requests -/

/-- A second warp of the block, which does nothing. -/
def two (s : State) : State :=
  let w := s.warp 0
  { s with warps := s.warps ++ [{ w with id := 1, index := 1, holding := true, place := .seated 1 }], blocks := s.blocks.map (fun b => { b with warps := [0, 1] }) }
/-- A store of lane 0 to another core's scratchpad on its way. -/
def toPeer : State → State := onW (fun w => { w with txns := [{ (default : Txn) with kind := .store, dom := .rc, mask := 1, runId := 9, accs := [{ (default : Acc) with sp := .scratch 1, n := 4, st := .issued }] }] })
/-- Warp 1 has come to rally point 5 with this count and need. -/
def came (count need : Nat) (s : State) : State := onB (fun b => { b with rally := b.rally.set 5 ⟨some (count, need), [(1, BitVec.allOnes 32)], [(1, count)], 0⟩ }) (two s)
def seesIt (i : Instr) (c : Cx) : Bool :=
  alive c && c.g.cur == some c.iss.f && (match decodeWord c.iss.f.word with | .ok j => j == i | .illegal _ => false) && c.w.block == 0 && c.iss.warp == 0
/-- The first arrival alone, enough and not enough; a later one with the count and with another; each behind a store; CRALLY alone and with another
warp; CRALLY.HOLD in both cases. -/
theorem witness_RallyPoints :
    every ([Instr.rally h 5 2, .rallyGo h 5 2].map (fun i => every [one i two (seesIt i), one i (came 2 2) (seesIt i), one i (came 3 3) (seesIt i), one i toPeer (fun c => seesIt i c && storesAway (at_ i toPeer) c.w c.act)])) = true ∧
      every ([Instr.rally h 5 1, .rally h 5 0, .rallyGo h 5 32].map (fun i => one i id (seesIt i))) = true ∧
      every ([Instr.crally h, .crallyGo h].map (fun i => every [one i id (seesIt i), one i two (seesIt i),
        one i toPeer (fun c => seesIt i c && storesAway (at_ i toPeer) c.w c.act)])) = true ∧
      every [one (.rally off 5 2) id nobody, one (.crally off) id nobody, one (.crallyHold h) id alive, one (.crallyHold h) (onB fun b => { b with crArr := 1 }) alive] = true ∧
      (((loaded.launch 0).level 3).isNone && (loaded.block 0).warps.contains 0 && (loaded.block 0).rally.length == 16 && (loaded.block 0).id == 0 && loaded.blocks.length == 1) = true := by decide +kernel

/-- The warp's group owns the engine; s7 holds an A descriptor of rows of 512 bytes at 0; handle 4 holds I8. -/
def owns (s : State) : State :=
  onB (fun b => { b with dh := b.dh.set 4 ⟨true, 0, false, 0, 2, false, 0⟩ }) (onC (fun k => { k with owner := some (ownerOf s (s.warp 0) 1) })
    (onW (fun w => { w with rf := { w.rf with s := [(7, BitVec.ofNat 64 (512 * 2 ^ 21))] } }) s))
def conv (f : Conv → Conv) (n : Nat) (s : State) : State := onB (fun b => { b with cv := b.cv.modify n f }) (owns s)
def rd : Instr := .accrd h 0 3 (.k 5) (.k 16) 0
def sigs : List Instr := [.mma h 2 1 (.k 0) c 4 3 true, .mxrun h 7 0 (.k 0) (.k 64) 4 0 false, rd, .accwr h 0 3 (.k 127) (.k 16) 0, .acccvt h 0 3 (.k 14) (.k 16) 0]
def sigOk (i : Instr) (s : State) (c : Cx) (p : Option Kind → Bool) : Bool :=
  alive c && (sigOf i).any (fun x => p (sigCheck (s.block 0) x.1 ((Values.w32 c x.2.1 0).setWidth 64).toNat (if x.2.2.2 then Values.w64 c x.2.2.1 0 else (Values.w32 c x.2.2.1 0).setWidth 64).toNat))
/-- The premises of MaySign, computed. -/
def maySign (g : Sig) (f a : Src) (wide : Bool) (s : State) (c : Cx) : Bool :=
  let v := Values.convOf g s c
  let b := s.block c.w.block
  let w := Values.sfmt c f
  let x := Values.sads c a wide
  (s.core c.iss.core).owner.any (·.same (ownerOf s c.w c.act)) && tileOk s c g.acc && !v.busy
    && (List.range 32).all (fun l => !hasLane c.act l || (w l == w (Values.lowest c.act) && x l == x (Values.lowest c.act)))
    && (!v.opened || decide (v.opc = g.opc ∧ v.acc = g.acc ∧ v.dh = g.dh ∧ v.rows = g.rows ∧ v.ovw = g.ovw ∧ v.fmt = w (Values.lowest c.act) ∧
      v.ads = x (Values.lowest c.act) ∧ v.owner = (ownerOf s c.w c.act).tag))
    && (Values.signFault g f a wide s c).isNone && decide (c.w.block < s.blocks.length ∧ g.cv < b.cv.length)
    && (List.range b.cv.length).all (fun n => n == g.cv || !(b.cv.getD n default).opened || missing s b (b.cv.getD n default))
theorem maySign_says {g : Sig} {f a : Src} {wide : Bool} {s : State} {c : Cx} (k : maySign g f a wide s c = true) : Values.MaySign g f a wide s c := by
  simp only [maySign, Bool.and_eq_true, decide_eq_true_eq, Bool.not_eq_true', Option.isNone_iff_eq_none, List.all_eq_true, List.mem_range,
    Bool.or_eq_true, beq_iff_eq] at k
  obtain ⟨⟨⟨⟨⟨⟨⟨k1, k2⟩, k3⟩, k4⟩, k5⟩, k6⟩, k7, k8⟩, k9⟩ := k
  refine ⟨⟨k1, k2⟩, k3, fun l m => ?_, fun o => ?_, k6, k7, k8, fun n m o => ?_⟩
  · rcases k4 l (hasLane_lt m) with e | e
    · rw [m] at e; exact absurd e (by decide)
    · exact e
  · rcases k5 with e | e
    · rw [o] at e; exact absurd e (by decide)
    · exact e
  · by_cases n < ((s.block c.w.block).cv).length
    · next q =>
      rcases k9 n q with (e | e) | e
      · exact absurd e m
      · rw [o] at e; exact absurd e (by decide)
      · exact e
    · next q => rw [List.getD, List.getElem?_eq_none (by omega)] at o; exact absurd o (by decide)
/-- The instruction may sign, in lanes of which p holds. -/
def signs (i : Instr) (f : State → State) (p : LMask → LMask → Bool) : Bool :=
  one i f (fun c => alive c && (sigOf i).any (fun x => maySign x.1 x.2.1 x.2.2.1 x.2.2.2 (at_ i f) c && p (Values.unsigned x.1 (at_ i f) c) c.act))
/-- The open collection of `rd`, which lanes of the mask have signed, and which another warp still has to. -/
def signedBy (m : LMask) : State → State := conv (fun v => ⟨true, false, 0x308, 0, 0, 0, false, 5, 16, [(0, BitVec.allOnes 32), (1, 1)], [(0, m)], false, 0, v.owner + 1⟩) 3
/-- Every signing instruction may sign in all active lanes; and where lane 0 has signed, in the others. -/
theorem witness_MaySign :
    every (sigs.map (fun i => signs i owns (fun m act => m == act))) = true ∧
      signs rd (signedBy 1) (fun m act => m != 0 && m != act) = true ∧
      decide (((at_ rd (signedBy 1)).warp 0).groups.Pairwise (fun g k => g.gid ≠ k.gid) ∧ ∀ g ∈ ((at_ rd (signedBy 1)).warp 0).groups, g.gid < ((at_ rd (signedBy 1)).warp 0).nextGid) = true := by
  decide +kernel
/-- Every signing instruction as the last signer, and with another warp missing in an open collection, which one lane,
or every lane, has signed already. -/
theorem witness_SigningCollects :
    every (sigs.map (fun i => one i owns (fun c => sigOk i (at_ i owns) c Option.isNone && ((at_ i owns).block 0).cv.all (fun v => !v.opened && !v.busy)))) = true ∧
      every [one (.accrd off 0 3 (.k 5) (.k 16) 0) owns nobody, one rd id alive, one rd (onB fun b => { b with ecol := true }) alive,
        one rd (fun s => owns (deep s)) (fun c => alive c && !tileOk (at_ rd (fun s => owns (deep s))) c 0),
        one rd (conv (fun v => { v with busy := true }) 3) alive, one (.accrd h 0 3 v (.k 16) 0) (fun s => onW (fun w => { w with rf := { w.rf with v := [(8 * 32, 1)] } }) (owns s))
          (fun c => Values.w32 c v 0 != Values.w32 c v 1),
        one rd (conv (fun v => { v with opened := true, opc := 0x309 }) 3) alive, one (.accrd h 0 3 (.k 127) (.k 16) 1) owns (fun c => sigOk (.accrd h 0 3 (.k 127) (.k 16) 1) (at_ rd owns) c (· == some .illegal)),
        one (.accrd h 0 3 (.k 5) (.k 8) 0) owns (fun c => sigOk (.accrd h 0 3 (.k 5) (.k 8) 0) (at_ rd owns) c (· == some .misalign)),
        one (.accrd h 0 3 (.k 5) (.k 16) 1) owns (fun c => sigOk (.accrd h 0 3 (.k 5) (.k 16) 1) (at_ rd owns) c (· == some .range)),
        one rd (conv (fun v => ⟨true, false, 0x308, 0, 0, 0, false, 5, 16, [(0, BitVec.allOnes 32), (1, 1)], [], false, 0, v.owner + 1⟩) 3) alive] = true ∧
      every ([1, BitVec.allOnes 32].map (fun m => one rd (conv (fun v => ⟨true, false, 0x308, 0, 0, 0, false, 5, 16, [(0, BitVec.allOnes 32), (1, 1)], [(0, m)], false, 0, v.owner + 1⟩) 3) alive)) = true := by decide +kernel

def yes (i : Instr) (f : State → State) (p : Cx → Bool := fun _ => true) : Bool := one i (fun s => f (owns s)) (fun c => alive c && ownership (at_ i (fun s => f (owns s))) c == .yes && p c)
def dkld (fmt slot : BitVec 8) : Instr := .dkld h (.k fmt) (.s 0) 4 (slot.setWidth 7) true
def scratchAt (a : W64) (s : State) : State := onB (fun b => { b with base := 0, size := 262144 }) (su a 0 0 s)
/-- Four of the warp's loads can still fault, and the core's fault queue is full. -/
def noRoom (s : State) : State := onC (fun k => { k with pfq := List.replicate 128 (9, default) }) (onW (fun w => { w with txns := List.replicate 4 pending }) (su 0x50000 0 0 s))
def dkldIs (i : Instr) (a : W64) (p : Cx → Bool) : Bool := yes i (scratchAt a) p
/-- Without the engine; MXACQ and MXREL in each case; a register taken and free; a handle in use and not; a format word and a
slot that are refused, a source that is misaligned, the last one inside the window and the first one outside. -/
theorem witness_MatrixInstructions :
    every (rowsMatrix.map (fun x => one x.2 id alive)) = true ∧
      every [one (.mxacq off) id nobody, one (.mxacq h) id (fun c => alive c && c.w.deep &&& c.act == 0), one (.mxacq h) (onB fun b => { b with ecol := true }) alive, one (.mxacq h) owns alive,
        one (.mxacq h) (onC fun k => { k with fifo := [⟨3, 1, none⟩] }) alive,
        one (.mxacq h) (fun s => onC (fun k => { k with owner := some (ownerOf s (s.warp 0) 1) }) s |> deep) (fun c => c.w.deep &&& c.act != 0),
        one (.mxrel h) id alive, one (.mxrel h) owns alive, one (.mxrel h) (fun s => onL (bit 0) (owns (two s))) alive] = true ∧
      every [yes (.mxwait h e 3) id, yes (.mxwait h e 3) (conv (fun v => { v with busy := true }) 3), yes (.dkfree h 4) id (fun _ => !handleBusy ((at_ (.dkfree h 4) owns).block 0) 4),
        yes (.dkfree h 5) id (fun _ => !(((at_ (.dkfree h 5) owns).block 0).dh.getD 5 default).valid), yes (.dkfree h 4) (conv (fun v => { v with busy := true, opc := 0x302, dh := 4 }) 3), yes (.accz h 5) id, one (.accz h 5) (fun s => owns (deep s)) alive,
        yes (.accstat h e 5 true) id, yes (.accstat h e 5 true) (fun s => { onC (fun k => { k with eng := [{ (default : EngOp) with kind := .accz, acc := 5 }] }) s with ctr := 1 }),
        yes (.opfence h) id, yes (.opfence h) toPeer (fun c => storesAway (at_ (.opfence h) (fun s => toPeer (owns s))) c.w c.act)] = true ∧
      every [dkldIs (dkld 1 0) 0 (fun c => !fmtLegal (Values.w32 c (.k 1) 0).toNat), dkldIs (dkld 0 63) 0 (fun _ => !slotOk 0 false 63), dkldIs (dkld 0 0) 64 (fun c => fmtLegal 0 && (Values.w64 c (.s 0) 0).toNat % 128 != 0),
        dkldIs (dkld 0 0) 0xFE10000000000000 (fun c => nbits (Values.w64 c (.s 0) 0).toNat 63 52 == 0xFE1 && decide (srcBytes 0 false ≤ 262144)),
        dkldIs (dkld 0 0) 0xFE10000000000080 (fun _ => decide (262144 < 128 + srcBytes 0 false)),
        yes (dkld 0 0) noRoom (fun c => (match dkldPlan 4 0 true c (sigArgs (.k 0) (.s 0) true c (at_ (dkld 0 0) (fun s => noRoom (owns s)))) (at_ (dkld 0 0) (fun s => noRoom (owns s))) with | .ok (_, some _) => true | _ => false) && !pfqRoom (at_ (dkld 0 0) (fun s => noRoom (owns s))) c.w)] = true := by decide +kernel

/-- A copy of 40 bytes to 0x50008, between whose destination granules the engine has moved 8 bytes and inside one of which 3 more. -/
def running : Req := { (default : Req) with st := .running, record := BitVec.ofNat 512 (1 + 0x50008 * 2 ^ 128 + 40 * 2 ^ 192), count := 3, moved := 3, counted := 3, goff := 3 }
/-- A post of two records; misaligned; the window's last 128 bytes and 64 behind them; a full queue; a request that is queued, one
that is done, one that is inside a granule, and one that is none. -/
theorem witness_TransferRequests :
    let p : Instr := .xpost h e (.s 0) 1
    let req := onB (fun b => { b with nextReq := 3, reqs := [{ (default : Req) with st := .queued }, { (default : Req) with id := 1, st := .done, outcome := 2 }, { running with id := 2 }] })
    atGranule running = false ∧ atGranule (default : Req) = true ∧
    every [one p (fun s => win 128 0 1 0 (su 0 0 0 s)) alive, one (.xpost off e (.k 0) 1) id nobody, one p (su 32 0 0) (fun c => (Values.w32 c (.s 0) 0).toNat % 64 != 0), one p (su 4032 0 0) (fun _ => decide (4096 < 4032 + 128)),
      one p (fun s => onC (fun k => { scrWrite k (262144 + 3968) 128 0 with reqq := List.replicate 63 (0, 0) }) (su 3968 0 0 s)) alive,
      one p (fun s => onC (fun k => { scrWrite k (262144 + 3968) 128 0 with reqq := List.replicate 62 (0, 0) }) (su 3968 0 0 s)) alive,
      every ([Src.k 0, .k 1, .k 2, .k 3].map (fun x => one (.xquery h e x) req && one (.xcancel h e x) req alive))] = true := by decide +kernel

/-! ### Events of the issue stage and of the memory side -/

/-- An event in a state in which its claim's premises hold, given as p: it answers a next state. -/
def ev (i : Instr) (s : State) (p : Bool) : Bool := p && (nxt i s).isSome
/-- The context has no page table any more. -/
def noTable : State → State := onX (fun x => { x with root := 0x28000 })
/-- The run starts at 0x50000, where memory holds 0: short forms of ZADD v0 = v0 + v0; the 24th ends the run if `fin`. The die's MTU
holds the leaf. -/
def zeros (fin : Bool) (s : State) : State :=
  { (onG (fun g => { g with pos := { g.pos with start := 0x50000 } }) s).modDie 0 (fun d => { d with tlb := [(1, 0, 0x4F, 30)] }) with mem := if fin then memSet s.mem 0x5008E 2 else s.mem }
def fetches (s : State) (p : Fetch → Bool) : Bool := ev (.runFetch 0 0) s (((s.warp 0).group? 0).any (fun g => g.unfetched && g.after.isEmpty) && decide ((s.warp 0).thr.length = 32) && blockRuns s (s.warp 0) && p (fetchRun s (s.warp 0) ((s.warp 0).group 0).pos.start))
/-- Runs of 1 and of 24 instructions; 24 without an end; a page that is not there; a window without X; a page of
the host that is not translated yet, and one of a peer device. -/
theorem witness_RunFetch :
    every [fetches toFetch (fun f => match f with | .got l => l.length == 1 | _ => false), fetches (zeros true toFetch) (fun f => match f with | .got l => l.length == 24 | _ => false),
      fetches (zeros false toFetch) (fun f => match f with | .long _ => true | _ => false), fetches (noTable toFetch) (fun f => match f with | .fault .. => true | _ => false),
      fetches (noData toFetch) (fun f => match f with | .range _ => true | _ => false),
      fetches (onX (fun x => { x with hostBase := 0x10000, hostLen := 0x1000 }) toFetch) (fun f => match f with | .asked .. => true | _ => false),
      fetches { toFetch with mem := memWriteN toFetch.mem 0x30000 8 0x84F } (fun f => match f with | .peer .. => true | _ => false), lineHeld.cores.any (fun k => !k.code.isEmpty)] = true := by decide +kernel

def llrOf (exc : BitVec 5) : State → State :=
  onW (fun w => { full w with llr := [⟨7, 0, 0, ⟨0x10000, 0, 12, false⟩, ⟨0x10000, [], 0⟩, 3, false, exc, 4, false, 1, 3, [(0, 1, 2), (1, 5, 0)], [], []⟩] })
/-- Warp 0 asks for a register, where the others hold the pool of 2,048, and warp 1 has stalled for 4,097 cycles; and warp 1 out of
its seat and ready. -/
def stalled : State :=
  let s := ((two loaded).modWarp 1 (fun w => { full w with stall := 4097 })).modQuad 0 0 (fun q => { q with seats := q.seats.set 1 (some 1) })
  let s := onW (fun w => { w with rf := { w.rf with alloc := 0 } }) (onG (fun g => { g with pos := { g.pos with run := [⟨0x10000, encode (.movImm h d .b32 1), 12, false⟩] }, wait := some (.unissued .regAlloc) }) s)
  { s with warps := s.warps ++ (List.range 7).map (fun i => { full (s.warp 0) with id := i + 2, place := .seated (i + 2) }) }
def outside (p : Place) (s : State) : State := (two s).modWarp 1 (fun w => { w with place := p, ready := some 0 })
/-- The subgroup waits at an LDS.TAKE of one full granule, or at an MWAIT. -/
def waits (i : Instr) (wt : Wait) (s : State) : State := onG (fun g => { g with pos := { g.pos with run := [⟨0x10000, encode i, 12, false⟩] }, wait := some wt }) s
def take : Instr := .lds h 4 .b32 q0 .take a 0
def mwaits (dl : Nat) (hit : Bool) : State := mon hit (waits (.mwait h e a) (.mwait 1 dl) loaded)
/-- The monitored line, at 0x50000, is not what it was. -/
def changed : State := onW (fun w => { w with mon := { w.mon with line := 0x50000 / 128, snap := 0x1234 } }) (mwaits 0 false)
def prefs (s : State) : State := onC (fun k => { k with prefs := [⟨1, 0, false, .dflt, 0x50000, 256, 0, some 0, 0⟩] }) (win 16 0 16 (2 ^ 32 * 256 + 256) s)
def prefs_ (s : State) (n : Nat) (p : Option (Nat × Nat) → Bool) : Bool := (s.core 0).prefs.head?.any (fun x => x.left == 256 && p (prefAsks s x (x.lines n)))
theorem witness_IssueStageEvents :
    every [ev (.quadrantArbitration 0 0) idle ((idle.quad 0 0).hold.isNone && coreRuns idle 0 && (winner (wakeQuad idle 0 0) (seated (wakeQuad idle 0 0) 0 0)).isSome),
      ev (.longLatencyResult 0 7) (llrOf 1 loaded) ((llrOf 1 loaded).warp 0 |>.rf.has 4), ev (.longLatencyResult 0 7) (llrOf 2 loaded) true,
      ev (.swapOut 0 0) stalled (((swapAsks stalled 0 0).findSome? (victim stalled 0 0)).any (fun x => x.1 == 0 && x.2.1 == 1 && x.2.2.id == 1)),
      ev (.swapIn 0 0) (outside (.swapped 0) loaded) (let s := outside (.swapped 0) loaded
        (firstBy (fun (a b : Warp) => a.ready.getD 0 < b.ready.getD 0) ((quadWarps s 0 0).filter (·.ready.isSome))).any (fun w => freeSeat s 0 0 == some 1
          && decide (w.rf.footprint ≤ s.poolFree 0 0) && blockRuns s w)),
      ev (.swapMoveComplete 1) (outside (.movingOut 1 0) loaded) true, ev (.swapMoveComplete 1) (outside (.movingIn 1) loaded) true,
      ev (.beadWaitEnd 0 0) (mem (waits take (.lanes 1 [(0, 0)]) loaded)) (let s := mem (waits take (.lanes 1 [(0, 0)]) loaded)
        (s.warp 0).halted == 0 && (accGranules (beadAccs 0 (s.block 0).base 4 [(0, 0)])).all (beadGet (s.core 0))),
      ev (.monitorPoll 0) (mwaits 0 true) (((mwaits 0 true).warp 0).mon.armed && ((mwaits 0 true).warp 0).mon.hit), ev (.monitorCompare 0) changed
        ((changed.warp 0).mon.armed && (match monPlace changed (changed.warp 0) with | .loc l => lineNow changed 1 (128 * (changed.warp 0).mon.line) l != (changed.warp 0).mon.snap | _ => false)),
      ev (.mwaitDeadline 0 0) { mwaits 5 false with time := 5 } true,
      ev (.prefetchProgress 0 0 256) (prefs loaded) (prefs_ (prefs loaded) 256 Option.isNone), ev (.prefetchProgress 0 0 64) (prefs loaded) (prefs_ (prefs loaded) 64 Option.isNone),
      (let s := onX (fun x => { x with hostBase := 0x50000, hostLen := 0x1000 }) (prefs loaded); ev (.prefetchProgress 0 0 64) s (prefs_ s 64 Option.isSome))] = true := by
  decide +kernel

/-- A transaction of one access of 4 bytes in lane 0 at 0x50000, translated. -/
def txn (k : TxKind) (dom : Dom) (sp : Space) (xl : Xl) (st : AccSt) : Txn :=
  { (default : Txn) with id := 5, kind := k, f := ⟨0x10000, 0, 12, false⟩, runId := 9, mask := 1, dst := 4, nregs := 1, size := 4, dom := dom, scope := .device, accs := [⟨0, 0, 4, sp, 0x50000, 0x11223344, 7, 0, false, xl, st, 0⟩] }
def inFlight (t : Txn) : State := onW (fun w => { full w with txns := [t] }) loaded
def accIs (t : Txn) (s : State) (p : Warp → Acc → Bool) : Bool := (s.acc? 0 5 0).any (fun x => x.1 == t && p (s.warp 0) x.2)
def wr (k : TxKind) (dom : Dom) (sp : Space) : Bool :=
  let t := txn k dom sp (.loc 0x50000) .issued
  ev (.storeDrain 0 5 0) (inFlight t) ((portTurn (inFlight t) 0 5 0).any (fun s => accIs t s (fun w a => writeReady s w t a && !poisoned s a.place a.n)))
def die0 (f : Die → Die) (s : State) : State := s.modDie 0 f
def atWalk (s : State) (p : Xl → Bool) : Bool := ev (.mtuWalk 0 5 0) s (p (translate s 0 (s.ctx 1) 0x50000 (accNeed (txn .load .rc .global .none .issued))))
def hostRange : State → State := onX (fun x => { x with hostBase := 0x40000000, hostLen := 0x10000 })
/-- A held release to 0x50000, with a load of it waiting in core n. -/
def demands (n : Nat) : State :=
  (onW (fun w => { w with txns := [{ txn .store .rc .global (.loc 0x50000) .issued with ord := .release, scope := .block, holds := true }] }) (two loaded)).modWarp 1
    (fun w => { w with core := n, txns := [txn .load .rc .global (.loc 0x50000) .issued] })
/-- Die 0 has asked for page 0x40000 of context 1. -/
def asks : State → State := die0 (fun d => { d with asks := [(1, 0x40000)] })
/-- A load and every kind of write that are ready; a CAUSAL store and its update; an acknowledgement; walks that translate, that
fault, and whose leaf lies above the device's memory; and the translation events. -/
theorem witness_MemorySideEvents :
    every [ev (.loadDataArrival 0 5 0) (inFlight (txn .load .rc .global (.loc 0x50000) .issued)) (let t := txn .load .rc .global (.loc 0x50000) .issued
        (portTurn (inFlight t) 0 5 0).any (fun s => accIs t s (fun w a => loadReady s w t a && !l1Hit s w t a && !poisoned s a.place a.n && t.of a.lane == [a]))),
      wr .store .rc .global, wr .store .sc (.scratch 0), wr (.atomic .add false true) .rc .global, wr (.atomic .cas false false) .rc (.scratch 0), wr .store .causal .global,
      ev (.causalUpdate 0) (die0 (fun d => { d with upd := [⟨.lane 0 5 0, 0x50000, 0x50000, 4, 7⟩] }) loaded) ((linesOf 0x50000 4).all (fun l => peerOk loaded l true && dirOk loaded l true) && !updateHeld loaded ⟨.lane 0 5 0, 0x50000, 0x50000, 4, 7⟩),
      (let t := txn .store .rc .global (.loc 0x50000) .performed; ev (.storeAcknowledge 0 5 0) (inFlight t) ((portTurn (inFlight t) 0 5 0).any (fun s => accIs t s (fun w a => ackInOrder s w t a)))),
      atWalk (inFlight (txn .load .rc .global .none .issued)) (fun x => match x with | .loc l => decide (l < Config.deviceBytes) | _ => false),
      atWalk (noTable (inFlight (txn .load .rc .global .none .issued))) (fun x => match x with | .fault .. => true | _ => false),
      ev (.publishDemand 0 5) (demands 0) ((((demands 0).warp 0).txn? 5).any (fun t => t.holds && !t.demanded && !outsideWants (demands 0) ((demands 0).warp 0) t)),
      ev (.publishDemand 0 5) (demands 1) ((((demands 1).warp 0).txn? 5).any (fun t => t.holds && !t.demanded && outsideWants (demands 1) ((demands 1).warp 0) t)),
      every ([AtsReply.grant 7 true false, .denied].flatMap (fun x => [ev (.atsReply 4 (2 * 2 ^ 21 + 3) 9 x) { loaded with hubAsks := [(2, some 3, 9)] } true,
        ev (.atsReply 4 (2 * 2 ^ 21 + 2 ^ 20) 9 x) { loaded with hubAsks := [(2, none, 9)] } true, ev (.atsReply 4 3 9 x) loaded loaded.hubAsks.isEmpty, ev (.atsReply 0 1 0x40000 x) loaded (loaded.die 0).asks.isEmpty,
        ev (.atsReply 0 1 0x40000 x) (asks (hostRange loaded)) (decide ((loaded.warp 0).id = 0 ∧ dieOf (loaded.warp 0).core = 0 ∧ (loaded.block (loaded.warp 0).block).ctx = 1))])),
      ev (.priResponse 1 5 true) { loaded with pri := [(1, 5)] } true,
      ev (.invalidation 1 0 0x10000) loaded (decide (loaded.dies.length ≤ 4)), every ([[0], [0, 2]].map (fun l => ev (.invalidationAck 0 0) { loaded with invs := [⟨1, 0, 4096, [], l⟩] } true)),
      ev (.domainFloorChange 1 0x50000 .sc) loaded (match walk loaded 0x20000 0x50000 with | .leaf _ => true | _ => false)] = true := by decide +kernel
/-- The load stands at its core's port beside another warp's acknowledgement that has lost n times there, and has lost k times itself. -/
def atPort_ (k n : Nat) : State :=
  let t := txn .load .rc .global (.loc 0x50000) .issued
  let u := { txn .store .sc .global (.loc 0x50100) .performed with id := 4 }
  (onW (fun w => { full w with txns := [{ t with accs := t.accs.map fun a => { a with lost := k } }] }) (two loaded)).modWarp 1
    (fun w => { w with txns := [{ u with accs := u.accs.map fun a => { a with key := 0x50100, lost := n } }] })
/-- The acknowledgement is of the lower class; an access that has lost 256 times goes first. -/
theorem witness_PortArbiter :
    every ([(0, 1, 0), (1, 300, 0), (300, 300, 0), (300, 1, 1), (256, 255, 1)].map (fun x =>
      let s := atPort_ x.1 x.2.1
      ev (.loadDataArrival 0 5 0) s ((portTurn s 0 5 0).isSome == (x.2.2 == 1) && (s.acc? 0 5 0).any (fun y => portClass s (s.warp 0) y.1 y.2 == some 5)
        && (s.acc? 1 4 0).any (fun y => portClass s (s.warp 1) y.1 y.2 == some 2)))) = true := by decide +kernel
/-- A leaf above the device's memory, which stops the walk by name. -/
theorem witness_NoSuchMemory :
    let s : State := { inFlight (txn .load .rc .global .none .issued) with mem := memWriteN loaded.mem 0x30000 8 0x10000000004F }
    (match translate s 0 (s.ctx 1) 0x50000 (accNeed (txn .load .rc .global .none .issued)) with | .loc l => decide (Config.deviceBytes ≤ l ∧ l < peerBase) | _ => false) = true ∧
      (match exec (.mtuWalk 0 5 0) s with | .fault .noSuchMemory => true | _ => false) = true := by decide +kernel

/-! ### Fault-side and engine events -/

/-- Record n of warp 0. -/
def inRec (n : Nat) (r : FaultRec) (w : Warp) : Warp := { w with fr := w.fr.set n (some r) }
def halted_ (w : Warp) : Warp := { w with groups := w.groups.map (fun g => { g with mask := g.mask &&& ~~~1#32 }), thr := w.thr.modify 0 (fun t => { t with st := .memStopped 0x10000 }) }
def faultTxn (dom : Dom) : Txn := txn .load dom .global (.fault .notPresent 2) .issued
/-- The report of a fault of lane 0, or of a lane deferred behind a record. -/
def reports (s : State) (p : Warp → Txn → Bool) : Bool :=
  ev (.memorySideFaultReport 0 5) s (((s.warp 0).txn? 5).any (fun t => reportLanes s (s.warp 0) t != 0 && p (s.warp 0) t) && decide ((s.warp 0).thr.length = 32 ∧ (s.warp 0).fr.length = 4))
def behind : State :=
  (onW (fun w => inRec 0 ⟨{ faultTxn .rc with id := 1, kind := .fence .rc true, accs := [] }, .deferred, 0, 1, 0⟩ w)) (inFlight (txn .load .rc .global .none .issued))
/-- Lane 0, which record 0 holds, and lane 1 have stopped. -/
def stopped : State :=
  onW (fun w => { inRec 0 ⟨faultTxn .rc, .notPresent, 2, 1, 1⟩ (halted_ w) with
    groups := w.groups.map (fun g => { g with mask := 0xFFFFFFFC }), thr := (halted_ w).thr.modify 1 (fun t => { t with st := .memStopped 0x10008 }), parkDue := true }) loaded
/-- An event of lane 0, parked by a trap or stopped by a fault. -/
def event (hen : Bool) (mem_ : Bool) : State :=
  onL (fun l => if hen then bit 263 l else l) (onW (fun w => let w1 := halted_ w
    { w1 with thr := if mem_ then w1.thr else w1.thr.modify 0 (fun t => { t with st := .parked ⟨0x10000, [], 0⟩ 1, trec := some ⟨.illegal, 0x10000, 0, 0, 1⟩ }), events := [⟨1, mem_⟩, ⟨2, true⟩] }) loaded)
def vectors (s : State) (hen : Bool) : Bool :=
  ev (.trapVector 0) s ((s.warp 0).halted == 0 && autoClear (s.warp 0) 1 && blockRuns s (s.warp 0) && (s.warp 0).handler == 0 && (s.launch 0).hen == hen && !mayFault (s.warp 0) 1)
/-- Record 0 of lane 0, whose access has lost its page, is denied, is poisoned, or is in order again. -/
def recorded (t : Txn) (f : State → State) : State := f (onW (fun w => inRec 0 ⟨t, .notPresent, 2, 1, 0⟩ (halted_ (full w))) loaded)
def answers (s : State) (p : Option Kind → Bool) : Bool :=
  every ([FixAnswer.fix [(0x30000, 0x4F)], .decline].map (fun x => ev (.autoResolution 0 0 x) s (p ((faultAt s 0 0).map (·.1))) && ev (.hostFaultAnswer 0 0 x) s true))
def perm (x : Nat) (s : State) : State := { s with mem := memWriteN s.mem 0x30000 8 x }
def atHost : State → State := onX (fun x => { x with hostBase := 0x50000, hostLen := 0x10000 })
/-- A load of a host page that the host has denied. -/
def deniedTxn : Txn := txn .load .rc .global (.fault .hostPage 0) .issued
def replays (k : TxKind) (d : Dom) : Bool :=
  let t := txn k d .global .none .issued
  let s := recorded t id
  every ([Instr.autoResolution 0 0 .decline, .hostFaultAnswer 0 0 .decline].map (fun i => ev i s (autoLanes (s.warp 0) 0 == [0] && ((s.warp 0).frAt 0).any (fun r => (t.of 0).all (fun x => (accFault s (s.warp 0) r x).isNone)) &&
    (t.of 0).all (fun x => match tryAcc s (s.warp 0) t x with | .go y => replayReady s (s.warp 0) t y | _ => false))))
/-- A report inside a run, at its start, of a deferred lane, and at trap depth 1; parking; vectoring with and without a handler. -/
theorem witness_Reports :
    every [reports (inFlight (faultTxn .rc)) (fun w t => t.faulty == 1 && w.deep == 0), reports (onG (fun g => { g with pos := { g.pos with off := 1 } }) (inFlight (faultTxn .sc))) (fun _ t => t.faulty == 1),
      reports behind (fun w t => t.faulty == 0 && reportLanes behind w t == 1 && (w.frAt 1).isNone), reports (deep (inFlight (faultTxn .rc))) (fun w _ => w.deep &&& 1 != 0),
      ev (.memPark 0) loaded (!(loaded.warp 0).parkDue), ev (.memPark 0) stopped ((stopped.warp 0).parkDue && heldLanes stopped (stopped.warp 0) == 1 && (stopped.warp 0).memStopped == 3
        && ((stopped.warp 0).memStopped &&& ~~~(stopped.warp 0).inEvents) == 3),
      vectors (event false false) false, vectors (event true false) true, vectors (event true true) true] = true := by decide +kernel
/-- Records without a fault, not present, denied, poisoned, on a host page; and a load and stores, also a CAUSAL one, that are in
order again. -/
theorem witness_Resolutions :
    every [answers loaded Option.isNone, answers (recorded (txn .load .rc .global .none .issued) noTable) (· == some .walk), answers (recorded (txn .load .rc .global .none .issued) (perm 0x4E)) (· == some .notPresent),
      answers (recorded (txn .store .rc .global .none .issued) (perm 0x47)) (· == some .writeDenied), answers (recorded (txn .load .rc .global .none .issued) (perm 0x4B)) (· == some .readDenied),
      answers (recorded (txn .load .rc .global .none .issued) (perm 0x0F)) (· == some .domainFloor),
      answers (recorded (txn .load .rc .global .none .issued) (fun s => { s with poison := [(0x1400, true)] })) (· == some .poison),
      answers (recorded deniedTxn atHost) (· == some .hostPage), replays .load .rc, replays .store .rc, replays .store .causal] = true := by decide +kernel

/-- The subgroup waits at i for Usxon, which it has asked for x. -/
def asked (i : Instr) (x : Args) (s : State) : State := onG (fun g => { g with pos := { g.pos with run := [⟨0x10000, encode i, 12, false⟩] }, wait := some (.usxon 3 x) }) s
/-- The words of a call. -/
def ar (a b : W64) : Args := { a := a, b := b }
def mapI : Instr := .ffixMap h e 0
def maps (t : Txn) (k : Kind) (x : Args) (f : State → State) (ans : FixAnswer) (p : State → List Nat → Bool) : Bool :=
  let s := onW (inRec 0 ⟨t, k, 2, 1, 0⟩) (asked mapI x (recorded t f))
  ev (.usxonMappingAnswer 0 0 ans) s (((s.warp 0).group? 0).any (fun g => (s.warp 0).halted &&& g.mask == 0 && (mapWait (s.warp 0) g).any (fun y => y.2.2.1 != 0
    && p s (hostPages y.2.1 (y.2.2.1 &&& ~~~y.2.2.2.declined)) && olderOf (s.warp 0) y.2.1 == 0)))
/-- The replay that follows an answer. -/
def replayed (base : State) (no : LMask) : Bool :=
  (replayRec (base.modWarp 0 (fun w => w.modGroup 0 (fun g => { g with wait := some (.issued .translation 3 { ar 0 0 with b := BitVec.ofNat 64 no.toNat }) }))) 0 0 (lanesOf (1 &&& ~~~no))).isSome
/-- FFIX.MAP declined, answered, on a host page, and on one that the host has declined. -/
theorem witness_Mappings :
    let t := txn .load .rc .global .none .issued
    every [maps t .notPresent (ar 0 0) noTable .decline (fun _ p => p.isEmpty),
      maps t .notPresent (ar 0 0) noTable (.fix [(0x28000, 0x30001), (0x30000, 0x4F)]) (fun s p => p.isEmpty && replayed (writePtes s 1 [(0x28000, 0x30001), (0x30000, 0x4F)]) 0),
      every ([Kind.notPresent, .hostPage].map (fun k => maps deniedTxn k (ar 0 0) atHost .decline (fun s p => p == [0x50] && s.pri.isEmpty))),
      maps deniedTxn .hostPage (ar 0 1) atHost .decline (fun s p => p.isEmpty && replayed s 1)] = true := by
  decide +kernel

def calls (i : Instr) (x : Args) (f : State → State := id) (p : State → Bool := fun _ => true) : Bool :=
  let s := f (asked i x (onW full loaded))
  ev (.svcReply 0 0 100) s (!svcBefore s x && p s)
/-- Each INFO, with and without a host range; RESIDE in bounds and outside; a bad NOTIFY and one without room; BIAS refused, and of a page that is marked and that nothing
uses; and an unassigned service. -/
theorem witness_ServiceCalls :
    every ([0, 1, 2, 3, 4, 5, 6].map (fun n => calls (.svcInfo h e a b) (ar n 0)) ++ [calls (.svcInfo h e a b) (ar 0 1), calls (.svcInfo h e a b) (ar 2 0) (fun s => onX (fun x => { x with pasid := some 9 }) (atHost s)),
      calls (.svcInfo h e a b) (ar 2 0) atHost, calls (.svcReside h e a b) (ar 0x50000 0x2000), calls (.svcReside h e a b) (ar 0x50000 (2 ^ 30 + 1)), calls (.svcReside h e a b) (ar (2 ^ 63) 1),
      calls (.svcReside h e a b) (ar 0xFE00000000000000 1), calls (.svcNotify h e a b) (ar 7 1), calls (.svcNotify h e a b) (ar 7 0) id (fun s => !cqRoom s 0 0),
      calls (.svcBias h e a b) (ar 0x50000 1) (fun s => s.modIface 0 (fun x => { x with tdisp := .run })) (fun s => tdiFixed s 0), calls (.svcBias h e a b) (ar 0x50000 0) id (fun s => !tdiFixed s 0),
      calls (.svcBias h e a b) (ar (2 ^ 63) 1), calls (.svcBias h e a b) (ar 0x100000 1), calls (.svcBias h e a b) (ar 0x50000 2) (fun s => { s with mem := memWriteN s.mem 0x30000 8 0x24F }) (fun s => match walk s 0x20000 0x50000 with
        | .leaf f => (biasLeaves s 1 2 [(0x50000, f)]).2 && !inHost (s.ctx 1) 0x50000 && (findWindow (s.ctx 1).win 0x50000).isSome | _ => false),
      calls (.svcUndefined h e 4 a b) (ar 0 0), calls (.svcUndefined h e 0xFF a b) (ar 0 0)]) = true := by decide +kernel
theorem witness_Debugger :
    every [ev (.debugHalt 0 5) (onX (fun x => { x with dbg := some 0 }) loaded) true, ev (.debugRelease 0 5) (onT (fun _ t => { t with halt := true }) loaded) true] = true := by decide +kernel

/-- The head of engine order is an operation of a kind, by register 3 of block 0 on tile 5; ten of them have gone before. -/
def op (k : EngKind) (f : EngOp → EngOp := id) (s : State) : State :=
  onB (fun b => { b with dh := b.dh.set 4 ⟨true, 0, false, 0, 2, false, 0⟩ }) (onC (fun c => { c with eng := [f ⟨10, k, 0, 0, 3, none, 5, ⟨true, 0, false, 0, 2, false, 0⟩, 1, true, 5, 16, 0, 0, none, false⟩] }) s)
def heads (k : EngKind) (s : State) (p : EngOp → Bool := fun _ => true) : Bool := (headOp s 0 k).any (fun e => e.kind == k && decide (e.acc < (s.core 0).acc.length) && decide (e.cv < (s.block 0).cv.length) && p e)
/-- A loop record of MXRUN over one loop of n steps of 512 bytes, slot and tile +1. -/
def mxRec (n : Nat) : Nat := 0xFE10000000000000 + 2 ^ 96 + n * 2 ^ 128 + 512 * 2 ^ 144
def stepOf (n vec : Nat) (f : EngOp → EngOp := id) : State :=
  op .mxrun (fun e => f { e with record := some (BitVec.ofNat 512 (mxRec n)), vec := vec, rows := 0, fmt := 0x44, hdl := { e.hdl with fmt := 4, count := 1 } }) (win 2048 0 1 0 loaded)
def steps (s : State) : Bool :=
  heads .mxrun s (fun e => e.fault.isNone && e.record.any (fun v => (match mxRows s 0 e v.toNat with | .rows _ => true | _ => false) &&
    slotOk e.hdl.fmt e.hdl.scb ((e.hdl.slot : Int) + mxSum v.toNat e.vec (fun l => sextN (nbits l 53 48) 6))))
def fill1 (txn_ : Option Nat) : Fill := ⟨10, 0, 4, ⟨true, 4, false, 63, 1, false, 0⟩, txn_, 0⟩
def fills (txn_ : Option Nat) (s : State) : State := onC (fun k => { k with fills := [fill1 txn_] }) s
/-- A free engine; every operation at the head of engine order; an MXRUN whose record is well formed and not; its steps, also the
last; a corrected event; fills from the scratchpad and from memory. -/
theorem witness_EngineWork :
    every [ev (.engineGrant 0) (onC (fun k => { k with fifo := [⟨0, 1, none⟩] }) loaded) true, heads .mma (op .mma id loaded), ev (.acczExecute 0) (op .accz id loaded) (heads .accz (op .accz id loaded)),
      heads .accrd (op .accrd id loaded), heads .accwr (op .accwr id loaded), heads .acccvt (op .acccvt id loaded), (loaded.core 0).opc.isEmpty,
      ev (.mxrunStep 0) (op .mxrun id (win 128 16 64 (mxRec 2) loaded)) (mxOk (mxRec 2) && heads .mxrun (op .mxrun id (win 128 16 64 (mxRec 2) loaded)) (fun e => e.record.isNone)),
      ev (.mxrunStep 0) (op .mxrun id (win 128 16 64 (mxRec 0) loaded)) (!mxOk (mxRec 0)), steps (stepOf 2 0), steps (stepOf 2 1),
      ev (.eccReplay 0) (op .mma id loaded) ((atWork (op .mma id loaded) 0).isSome), ev (.eccReplay 0) (stepOf 2 1 (fun e => { e with redo := true })) ((atWork (stepOf 2 1 (fun e => { e with redo := true })) 0).any (·.redo)),
      ev (.eccReplay 0) (op .accz id loaded) (atWork (op .accz id loaded) 0).isNone, !fillWaits (fills none loaded |>.core 0) (fill1 none),
      (let s := fills (some 5) (inFlight (txn (.fill 4) .bulk .global (.loc 0x50000) .issued));
        ((s.warp 0).txn? 5).any (fun t => t.accs.all (fun a => loadReady s (s.warp 0) t a && !poisoned s a.place a.n)))] = true := by decide +kernel

/-- A request of the block on engine 0 of the sixteen, or in the core's queue; the die's MTU holds the leaf. -/
def request (r n entry : Nat) (claims : List Claim) (s : State) : State :=
  { die0 (fun d => { d with tlb := [(1, 0, 0x4F, 30)] }) (onB (fun b => { b with nextReq := 1, reqs := [{ (default : Req) with st := .running, record := BitVec.ofNat 512 r, count := n, moved := n, counted := n, entry := entry, claims := claims }] }) s) with engines := s.engines.set 0 [{ core := 0, block := 0, req := 0 }] }
def queued (r : Nat) : State := onC (fun k => { k with reqq := [(0, 0)] }) (request r 0 0 [] loaded)
def handOff (r : Nat) (p : Nat → Bool) : Bool := ev (.requestHandoff 0) (queued r) (p 4096)
/-- A copy of n bytes from the window to 0x50008. -/
def copy (n : Nat) : Nat := 1 + 0xFE10000000000000 * 2 ^ 64 + 0x50008 * 2 ^ 128 + n * 2 ^ 192
def places (a n : Nat) : List EByte := (List.range n).map (fun i => (Space.global, a + i, a + i))
def copies (n done : Nat) : Bool :=
  let s := request (copy n) done 0 [] (win 64 0 1 0 loaded)
  let k := if (0x50008 + done) % 16 = 0 ∧ done + 16 ≤ n then 16 else 1
  ev (.copyGranule 0) s ((nextCopy s 0).any (fun x => !x.2.cancel && x.2.st != .done &&
    let m := if atGranule x.2 then min (16 - (0x50008 + done) % 16) (n - done) else k
    (engRefs s (s.block 0) .bulk .device .read (reqSrc (copy n) + done) m).2.isNone
      && engRefs s (s.block 0) .bulk .device .write (reqDst (copy n) + done) m == (places (0x50008 + done) m, none)))
/-- A route of two entries to two experts: list, tokens of 16 bytes, destinations; counters hold n. -/
def route : Nat := 3 + 0x50000 * 2 ^ 64 + 0x54000 * 2 ^ 128 + 2 * 2 ^ 192 + 1 * 2 ^ 208 + 0x51000 * 2 ^ 256 + 2 * 2 ^ 320
def routed (n second : Nat) (claims : List Claim) : State :=
  let d := fun (x : Nat) => 0x52000 + x * 4096 + (0x55000 + 4 * x) * 2 ^ 64 + 4 * 2 ^ 128
  let s := request route 0 0 claims loaded
  { s with mem := memWriteN (memWriteN (memWriteN (memWriteN s.mem 0x50000 8 (second * 2 ^ 24)) 0x51000 32 (d 0)) 0x51020 32 (d 1)) 0x55000 4 n }
/-- The claim of entry 0 at its first or second choice, expert 0; and its slot n at a byte, once it is claimed. -/
def claims (n second choice : Nat) (p : Nat → Nat → Bool) : Bool :=
  let s := routed n second [⟨0, choice, 0, second * 2 ^ 24, 0, none, 0⟩]
  ev (.routeClaimReturn 0 0) s ((nextRoute s 0).any (fun x => !x.2.cancel && x.2.st != .done && !staying s x.1 x.2) && (match readEntry s (s.block 0) route 0, readDest s (s.block 0) route 0 with
      | .ok (x, _), .ok (dst, _) => x == second * 2 ^ 24 && p x dst && nbits dst 127 64 == 0x55000
      | _, _ => false) && claimTurn s (s.block 0) route [] 0x55000 && engRefs s (s.block 0) .rc .device .both 0x55000 4 == (places 0x55000 4, none) && n < 2 ^ 32 - 1)
def slots (n pos : Nat) (p : Nat → Bool) : Bool :=
  let s := routed 0 0xFF [⟨0, 0, 0, 0xFF * 2 ^ 24, 0x52000 + 0x55000 * 2 ^ 64 + 4 * 2 ^ 128, some n, pos⟩]
  ev (.routeClaimReturn 0 0) s (match readEntry s (s.block 0) route 0, readDest s (s.block 0) route 0 with
    | .ok (x, _), .ok (dst, _) =>
      let to_ := nbits dst 63 0 + n * (16 + 16 * reqToklen route) + pos
      let k := if to_ % 16 = 0 ∧ pos + 16 ≤ 16 + 16 * reqToklen route then 16 else 1
      let h := min k (16 - pos)
      p (pos + k) && reqDomain route != .causal && (engRefs s (s.block 0) (reqDomain route) (reqSc route) .read (reqTok route + entTok x * (16 * reqToklen route) + (pos + h - 16)) (k - h)).2.isNone
        && engRefs s (s.block 0) (reqDomain route) (reqSc route) .write to_ k == (places to_ k, none)
    | _, _ => false)
/-- A malformed record, an empty one and one to hand out; a first, a later and a last granule; an entry; a claim that has room, one
without room, one that goes to its second expert, one whose second expert is none of the route's; and both halves of a slot. -/
theorem witness_CopyWork :
    every [handOff 0 (fun n => !recOk n 0), handOff (copy 0) (fun n => recOk n (copy 0) && reqUnits (copy 0) == 0), handOff (copy 40) (fun n => recOk n (copy 40)), copies 40 0, copies 40 8, copies 40 24,
      ev (.routeEntry 0) (routed 0 0xFF []) (recOk 4096 route && (nextRoute (routed 0 0xFF []) 0).any (fun x => !staying (routed 0 0xFF []) x.1 x.2) && decide (entriesAt (routed 0 0xFF []) 0 < 16) && (match readEntry (routed 0 0xFF []) ((routed 0 0xFF []).block 0) route 0 with | .ok (x, _) => entExpert x 0 == 0 | .error _ => false)),
      claims 0 0xFF 0 (fun _ d => nbits d 143 128 == 4), claims 3 0xFF 0 (fun _ d => nbits d 143 128 == 4), claims 4 0xFF 0 (fun x _ => entExpert x 1 == 0xFF), claims 4 1 0 (fun x _ => entExpert x 1 == 1 && decide (1 < reqNexp route)), claims 4 7 0 (fun x _ => entExpert x 1 == 7 && decide (reqNexp route ≤ 7)), claims 4 1 1 (fun _ _ => true),
      slots 3 0 (· == 16), slots 3 16 (· == 32)] = true := by decide +kernel

/-! ### Launch events -/

/-- Queue 3 of interface 0 with rings of 16 entries in host page 1, which lies in frame 7; context 1 is bound to it; one entry waits. -/
def rings (f : QBlk → QBlk) (s : State) : State :=
  { s.modQ 0 3 (fun q => f { q with sqBase := 0x1000, cqBase := 0x1800, sqLog := 4, cqLog := 4, en := true, sqTail := 1, bound := some 1 }) with
    hubAts := [⟨0, some 0, 1, 7, true, true⟩] }
/-- The entry e at the ring's head, and the record r at VA 0x50000; the hub is given an MTU that holds the leaf. -/
def submits (e r : Nat) (f : State → State := id) : State :=
  let s := rings id { loaded with launches := [] }
  f { s with
    mem := memWriteN s.mem 0x50000 160 r ++ (List.range 64).map (fun i => (hostBase + 0x7000 + i, BitVec.ofNat 8 (e / 256 ^ i)))
    dies := s.dies ++ [{ (default : Die) with tlb := [(1, 0, 0x4F, 30)] }] }
def entry (op a tag : Nat) : Nat := a + op * 2 ^ 64 + tag * 2 ^ 128
def taken (s : State) (p : Nat → Bool) : Bool := canTake s 0 3 && (match headEntry s 0 3 with | .ok e => p e | .error _ => false)
def reads (s : State) (p : Nat → Bool) : Bool := match hubRead s (s.ctx 1) 0x50000 512 with | .ok r => p r | .error _ => false
def launchEntry : Nat := entry 1 0x50000 9
/-- No ring page; a malformed entry; an interface in ERROR; a marker; no context; a dying one; a misaligned record; one in no window; a
malformed record and a good one. -/
theorem witness_Submission :
    every [(let s := submits launchEntry 0 (fun s => { s with hubAts := [⟨0, some 0, 1, 7, false, true⟩] }); canTake s 0 3 && (match headEntry s 0 3 with | .error x => !x.waits | .ok _ => false)),
      (let s := submits launchEntry 0 (fun s => { s with hubAts := [] }); canTake s 0 3 && (match headEntry s 0 3 with | .error x => x.waits | .ok _ => false)),
      taken (submits (entry 3 0 9) 0) (fun e => nbits e 71 64 == 3), taken (submits launchEntry 0 (fun s => s.modIface 0 (fun x => { x with tdisp := .error }))) (· == launchEntry),
      taken (submits (entry 2 0 9) 0) (· == entry 2 0 9), taken (submits launchEntry 0 (fun s => s.modQ 0 3 (fun q => { q with bound := none }))) (· == launchEntry),
      taken (submits launchEntry 0 (onX fun x => { x with dying := true })) (· == launchEntry), taken (submits (entry 1 0x50080 9) 0) (· == entry 1 0x50080 9),
      (let s := submits (entry 1 0x100000 9) 0; taken s (· == entry 1 0x100000 9) && (match hubRead s (s.ctx 1) 0x100000 1 with | .error .miss => true | _ => false)),
      reads (submits launchEntry 0) (fun r => !recordFine r), reads (submits launchEntry loadRecord) recordFine] = true := by decide +kernel

def waiting (r : Nat) (f : Launch → Launch := id) (g : State → State := id) : State := g { loaded with launches := [f { loadLaunch with record := BitVec.ofNat 4096 r, st := .waiting, tickets := [], count := 0 }] }
def depends (s : State) (p : Launch → Bool) : Bool := ev (.dependencesSatisfied 0) s (depsDone s (s.launch 0) && p (s.launch 0))
def clusterRecord (n : Nat) : Nat := 0x10000 + 2 ^ 64 + 5 * 2 ^ 67 + n * 2 ^ 128 + (1 + 2 * 2 ^ 16) * 2 ^ 320 + (2 + 3 * 2 ^ 16) * 2 ^ 352 + 5 * 2 ^ 16 * 2 ^ 384 + (256 * 2 ^ 32 + 4 * 2 ^ 41 + 2 ^ 52) * 2 ^ 1024
/-- A grid of one block, of none, of 2^40 − 1, of 3 blocks in clusters of 2; and a count that is read from memory. -/
theorem witness_Dependences :
    every [depends (waiting loadRecord) (fun l => cutGrid l 1 l.csize != none), depends (waiting (loadRecord - 2 ^ 128)) (fun l => l.field 167 128 == 0),
      depends (waiting (loadRecord + (2 ^ 40 - 2) * 2 ^ 128)) (fun l => l.field 167 128 == 2 ^ 40 - 1), depends (waiting (clusterRecord 3)) (fun l => cutGrid l 3 l.csize == none),
      depends (waiting (loadRecord + 2 ^ 168 + 0x50000 * 2 ^ 192) id (fun s => { s with mem := memWriteN s.mem 0x50000 8 2 })) (fun l =>
        match hubRead (waiting (loadRecord + 2 ^ 168 + 0x50000 * 2 ^ 192) id (fun s => { s with mem := memWriteN s.mem 0x50000 8 2 })) (loaded.ctx 1) (l.field 255 192) 8 with | .ok g => g == 2 | .error _ => false)] = true := by decide +kernel

/-- A machine whose cores are free, with a launch of n indices on die 0 that is running. -/
def ready (r n : Nat) (f : Launch → Launch := id) : State :=
  { loaded with warps := [], blocks := [], cores := List.replicate 64 .reset, ifaces := loaded.ifaces.modify 0 (fun i => { i with cores := 4 })
                launches := [f { loadLaunch with record := BitVec.ofNat 4096 r, tickets := ⟨[], 0, n, false⟩ :: List.replicate 3 ⟨[], 0, 0, false⟩, count := n }] }
def resv0 (fails until_ : Nat) (held : Bool) : Resv := ⟨0, [0, 1], 0, fails, until_, held, [0, 1], 0⟩
def attempts (i : Instr) (s : State) (fits : Bool) : Bool :=
  let l := s.launch 0
  let s1 := fun (ts : List Ticket) => (s.modLaunch 0 (fun x => { x with tickets := ts })).bump
  ev i s (dispatching s 0 true && l.tables.isSome && (match l.resv with
    | r :: _ => (resvPlace s l r).isSome == fits
    | [] => (claim s l 0).any (fun x => (resvPlace (s1 x.2) l ⟨0, x.1, 0, 0, 0, false, groupCores 0 l.csize 0, s.ctr⟩).isSome == fits)))
/-- Preloads, and an index of a cluster on its first core. -/
theorem witness_Dispatching :
    every [(let s := ready (loadRecord + 3 * 2 ^ 272 + 7 * 2 ^ 2048) 3; ev (.blockDispatch 0 0) s (dispatching s 0 false && (claim s (s.launch 0) 0).isSome && inBudget s 0 1 && canStart s (s.launch 0) 0 && (firstFit s (s.launch 0) 0).isSome)),
      attempts (.clusterReservation 0 0) (ready (clusterRecord 2) 2) true, attempts (.clusterReservation 0 0) { ready (clusterRecord 2) 2 with ifaces := loaded.ifaces } false,
      attempts (.reservationBackoffExpiry 0 0) (ready (clusterRecord 2) 0 (fun l => { l with resv := [resv0 3 0 false] })) true,
      attempts (.reservationBackoffExpiry 0 0) { ready (clusterRecord 2) 0 (fun l => { l with resv := [resv0 7 0 false] }) with ifaces := loaded.ifaces } false,
      attempts (.reservationBackoffExpiry 0 0) { ready (clusterRecord 2) 0 (fun l => { l with resv := [resv0 9 99 true] }) with ifaces := loaded.ifaces } false] = true := by decide +kernel

/-- Two variants, of which the second has half of the first's registers; switch point 5 of both keeps v1 and 32 bytes. -/
def twoVariants : Nat := loadRecord + 2 ^ 64 + (64 * 2 ^ 32 + 4 * 2 ^ 41 + 2 ^ 52) * 2 ^ 1152
def swEntry : BitVec 512 := BitVec.ofNat 512 (5 + 0x40 * 2 ^ 32 + 2 * 2 ^ 64 + 32 * 2 ^ 320 + 32 * 2 ^ 352)
def atPoint (vp : Vp) (f : State → State := id) : State :=
  f (onL (fun l => { l with record := BitVec.ofNat 4096 twoVariants, tables := some [(0, swEntry), (1, swEntry)] })
    (onB (fun b => { b with variant := 1, vp := vp }) (onW (fun w => { w with groups := [], thr := w.thr.map (fun t => { t with st := .atVpoint 5 0x10000 }) }) loaded)))
def joined (s : State) (p : Option (Nat × Nat) → Bool) : Bool := ev (.vpointJoinsDone 0) s ((s.block 0).vp == .opened 5 && vpArrived s (s.block 0) 5 && vpJoined s (s.block 0) && p (decideMove s (s.block 0) 5))
/-- A cluster, a core that is to stop, a move to variant 0, and none without a switch point there. -/
theorem witness_SwitchPoints :
    every [joined (atPoint (.opened 5) (onL fun l => { l with record := BitVec.ofNat 4096 (clusterRecord 2) })) (fun _ => true), joined (atPoint (.opened 5) (onC fun k => { k with stop := .stopping })) (fun _ => true),
      joined (atPoint (.opened 5)) (fun x => x.any (fun y => y.1 == 0)), joined (atPoint (.opened 5) (onL fun l => { l with tables := some [(1, swEntry)] })) Option.isNone,
      ev (.variantMove 0) (atPoint (.moving 5 0 262144) (fun s => onW full (win 64 0 64 (2 ^ 300) s))) ((switchEntry ((atPoint .none).launch 0) 1 5).isSome && swLen swEntry == 32),
      ev (.variantMoveComplete 0) (atPoint (.moved 5 0)) (switchEntry ((atPoint .none).launch 0) 1 5).isSome] = true := by decide +kernel

def gone (s : State) : State := onW (fun w => { w with live := 0, groups := [], thr := w.thr.map (fun t => { t with st := .exited }) }) s
def killed (f : Launch → Launch) : State := onL f (onB (fun b => { b with kill := some ⟨9, 1, 0x10000, 0⟩ }) loaded)
def again (n : Nat) : Launch → Launch := fun l => { bit 71 l with record := l.record ||| BitVec.ofNat 4096 (2 ^ 71 + n * 2 ^ 72) }
/-- An end, a kill with a relaunch, and without. -/
theorem witness_Ends :
    every [ev (.blockEnd 0) (gone loaded) (warpsDone (gone loaded) ((gone loaded).block 0) && vpJoined (gone loaded) ((gone loaded).block 0)),
      ev (.blockKill 0) (killed (again 1)) (killQuiet (killed (again 1)) ((killed (again 1)).block 0) && ((killed (again 1)).launch 0).field 71 71 == 1 && ((killed (again 1)).launch 0).field 75 72 == 1),
      ev (.blockKill 0) (killed (again 0)) (((killed (again 0)).launch 0).field 75 72 == 0),
      (let s := onB (fun b => { b with reqs := [running] }) (killed id); ev (.blockKill 0) s (killQuiet s (s.block 0) && !atGranule running))] = true := by decide +kernel

/-- A launch and a marker that can complete. -/
def finished (f : Launch → Launch) : State := rings id { loaded with blocks := [], warps := [], launches := [f { loadLaunch with queue := 3, ended := 1 }] }
def completes (s : State) (k : Nat) : Bool := ev (.launchComplete 0) s (finalStatus s (s.launch 0) == some k && (List.range 32).all (fun j => match hubHost s 0 (some 0) true (0x1800 + j) with | .loc l => l == hostBase + 0x7800 + j | _ => false))
def slices (now : Nat) : State := { rings (fun q => { q with slice := 1 }) { loaded with blocks := [], warps := [] } with
  time := now, launches := [{ loadLaunch with queue := 3 }, { loadLaunch with id := 1, queue := 5, tickets := [⟨[], 0, 1, false⟩] }] }
def stopping : State := onC (fun k => { k with stop := .stopping }) (loaded.modQuad 0 0 (fun q => { q with hold := none, a := none }))
def saved1 : State := ((nxt (.preemptSaveComplete 0) stopping).getD loaded).modIface 0 (fun x => { x with cores := 64 })
def restores (s : State) (core : Nat) (stale : Bool) : Bool :=
  ev (.restore 0 core) s ((s.saves.head?).any (fun v => dieOf core == dieOf v.core && restorable s v core && !v.blocks.any (fun i => sliceDenied s (s.launch (s.block i).launch))
    && ((s.ctx v.ctx).conf && v.counter != cget s.saveCtr 0 (64 * v.ctx + v.core)) == stale))
/-- Statuses 0, 4 and 1 and a marker; the first slice that ends; a stop, a save, and restores on core 1 of an image that is the latest
and of one that is not. -/
theorem witness_Completions :
    every [completes (finished id) 0, completes (finished (fun l => { l with killed := 1 })) 4, completes (finished (fun l => { l with st := .ending 1 })) 1,
      completes (finished (fun l => { l with marker := true, st := .waiting })) 0, ev (.sliceExpiry 0 3) (slices 100000) (nextSlice (slices 100000) 0 3 == some 5 && sliceOver (slices 100000) 0 3 5),
      ev (.preemptStopRequest 0) loaded true, ev (.preemptSaveComplete 0) stopping (saveReady stopping 0), restores saved1 1 false,
      restores { onX (fun x => { x with conf := true }) saved1 with saveCtr := [(64, 5)] } 1 true] = true := by decide +kernel

/-! ### Host and platform events -/

/-- A doorbell in range at both ends and out of range; good rings and bad ones; a queue that is enabled and one that is not. -/
theorem witness_QueueWrites :
    hears loaded 0 = true ∧ ((loaded.iface 0).q 3).en = false ∧ (((rings id loaded).iface 0).q 3).en = true ∧ hears (rings id loaded) 0 = true ∧
      (0 ≤ ((0 : W32) - ((loaded.iface 0).q 3).sqHead).toInt ∧ ((0 : W32) - ((loaded.iface 0).q 3).sqHead).toInt ≤ 2 ^ ((loaded.iface 0).q 3).sqLog.toNat) ∧
      (((16 : W32) - (((rings id loaded).iface 0).q 3).sqHead).toInt ≤ 2 ^ (((rings id loaded).iface 0).q 3).sqLog.toNat) ∧
      ¬ (0 ≤ ((0xFFFFFFFF : W32) - ((loaded.iface 0).q 3).sqHead).toInt) ∧ ¬ (((17 : W32) - (((rings id loaded).iface 0).q 3).sqHead).toInt ≤ 2 ^ (((rings id loaded).iface 0).q 3).sqLog.toNat) ∧
      ringsOk ((loaded.iface 0).q 3) = false ∧ ringsOk ((((rings (fun q => { q with en := false, cqBase := 0x2000 }) loaded)).iface 0).q 3) = true := by decide +kernel

/-- The mailbox of interface 0 runs a command. -/
def mailed (code : BitVec 16) (a0 a1 a2 : W64) (f : State → State := id) : State := f (loaded.modIface 0 (fun x => { x with busy := true, ran := false, cmd := code, args := [a0, a1, a2] }))
def mails (i : Instr) (code : BitVec 16) (a0 a1 a2 : W64) (f : State → State := id) (p : State → Bool := fun _ => true) : Bool :=
  let s := mailed code a0 a1 a2 f
  ev i s (s.boot == .up && s.ifaces.length == 64 && (s.iface 0).busy && !(s.iface 0).ran && (s.iface 0).cmd == code && (s.iface 0).args == [a0, a1, a2] && s.ifaces.all (fun x => !x.flr) && p s)
def noCore : State → State := onC (fun k => { k with ctx := none })
/-- A GO with an unknown code, with one of the physical function's, and a known one; and a command that has had its effect. -/
theorem witness_Mailbox :
    every [ev (.mailboxGo 2 0x09 0 0 0) (loaded.modIface 2 (fun x => { x with busy := false })) (hears loaded 2), ev (.mailboxGo 2 0x40 0 0 0) loaded (!(loaded.iface 2).busy), ev (.mailboxGo 2 0x08 0 0 0) loaded (!tdiFixed loaded 2),
      ev (.mailboxCommandComplete 2) (loaded.modIface 2 (fun x => { x with busy := true, ran := true })) true] = true := by decide +kernel
/-- Each command with good arguments, and with bad ones of each kind. -/
theorem witness_Commands :
    every ([(32 : W64), 18].map (fun a => mails (.ctxCreate 0 0 0 0 0) 1 a 0xFFFFFFFF 0) ++
      [mails (.ctxCreate 0 0x40000000 0x80000000 65536 0) 1 2 0xFFFFFFFF 0 id (fun s => spanFree (usedSpans s) 0x80000000 65536 && (s.ctxs.map (·.ways)).sum + 1 ≤ 16)] ++
      ([0, 2].map (fun a => mails (.ctxDestroy 0) 2 a 0 0)) ++ [mails (.ctxDestroy 0) 2 1 0 0 (fun s => { s with launches := [] }) (fun s => (s.ctx 1).alive && (s.ctx 1).iface == 0 && (s.ctx 1).id == 1)] ++
      [mails (.ctxDestroy 0) 2 1 0 0 (fun s => onX (fun x => { x with iface := 3 }) { s with launches := [] }) (fun s => (s.ctx 1).alive && (s.ctx 1).iface == 3 && (s.ctx 1).id == 1)] ++
      [mails (.windowSet 0) 3 (2 ^ 35 + 1) 0 0, mails (.windowSet 0) 3 2 0 0, mails (.windowSet 0) 3 1 0 (2 ^ 63), mails (.windowSet 0) 3 1 0 (2 ^ 62 + 0x4000 * 2 ^ 18) id (fun s => match windowSpan (BitVec.ofNat 128 ((2 ^ 62 + 0x4000 * 2 ^ 18) * 2 ^ 64)) with
        | some (lo, hi) => !inRanges (s.ctx 1) lo (hi - 1) | none => false), mails (.windowSet 0) 3 (1 + 7 * 2 ^ 32) 0 (2 ^ 62 + 0x3FFF * 2 ^ 18) noCore (fun s => inRanges (s.ctx 1) (0x3FFF * 65536) (0x4000 * 65536 - 1)),
        mails (.windowSet 0) 3 1 0 0 noCore (fun s => (List.range 64).all (fun k => (s.core k).ctx != some 1)), mails (.windowSet 0) 3 1 0 0 id (fun s => (s.core 0).ctx == some 1 && (s.core 0).stop == .no)] ++
      [mails (.queueBind 0) 4 16 1 0, mails (.queueBind 0) 4 3 2 0, mails (.queueBind 0) 4 3 1 0 (rings id), mails (.queueBind 0) 4 15 1 0 id (fun s => ownCtx s 0 1 && !((s.iface 0).q 15).en)] ++
      [mails (.biasSet 0) 5 1 65536 1, mails (.biasSet 0) 5 0 1 1, mails (.biasSet 0) 5 0 65536 3, mails (.biasSet 0) 5 (2 ^ 63) 65536 0, mails (.biasSet 0) 5 0x50000 65536 1 id (fun s =>
        ctxOfVa s 0 0x50000 == some 1 && (match biasPages s 1 1 0x50000 0x60000 with | .ok fs => !(biasLeaves s 1 1 fs).2 && fs.length == 1 | .error _ => false)),
        mails (.biasSet 0) 5 0x50000 65536 1 (fun s => { s with mem := memWriteN s.mem 0x30000 8 0x24F }) (fun s =>
          ctxOfVa s 0 0x50000 == some 1 && (match biasPages s 1 1 0x50000 0x60000 with | .ok fs => (biasLeaves s 1 1 fs).2 | .error _ => false))] ++
      [mails (.debugAttach 0) 6 2 0 0, mails (.debugAttach 0) 6 1 0 0 id (fun s => ownCtx s 0 1)] ++
      [mails (.traceSet 0) 7 (2 ^ 45 + 1) 0 0, mails (.traceSet 0) 7 2 0 0, mails (.traceSet 0) 7 (1 + 12 * 2 ^ 32 + 11 * 2 ^ 40) 0x50000 0, mails (.traceSet 0) 7 (1 + 12 * 2 ^ 32 + 12 * 2 ^ 40) 0x50000 0x100000,
        mails (.traceSet 0) 7 (1 + 25 * 2 ^ 32 + 12 * 2 ^ 40) 0x50000 0, mails (.traceSet 0) 7 (1 + 24 * 2 ^ 32 + 30 * 2 ^ 40) 0x50000 0 id (fun s => (findWindow (s.ctx 1).win 0x50000) == some 0 && !inHost (s.ctx 1) 0x50000),
        mails (.traceSet 0) 7 1 0 0] ++
      [mails (.acctRead 0) 8 2 0 0, mails (.acctAny 0) 0x43 2 0 0] ++
      [mails (.vfBudget 0) 0x40 3 (64 + 3600 * 2 ^ 16 + 3 * 2 ^ 32) 65535, mails (.vfBudget 0) 0x40 64 0 0, mails (.vfBudget 0) 0x40 3 65 0, mails (.vfBudget 0) 0x40 3 (3601 * 2 ^ 16) 0, mails (.vfBudget 0) 0x40 3 0x80 0, mails (.vfBudget 0) 0x40 3 0 65536,
        mails (.vfQueue 0) 0x41 (3 + 15 * 2 ^ 32) 0x3FF 0, mails (.vfQueue 0) 0x41 64 0 0, mails (.vfQueue 0) 0x41 (2 ^ 36) 0 0, mails (.vfQueue 0) 0x41 3 0x400 0] ++
      [mails (.saveRead 0) 0x42 1 0 0]) = true := by decide +kernel

theorem places_ok (f : Nat → HubX) (g : Nat → Nat) (a n : Nat) (h : ∀ i, i < n → f (a + i) = .loc (g i)) : ∃ ls, placesOf f a n = .ok ls := by
  have key : ∀ l : List Nat, (∀ i ∈ l, i < n) → ∃ ls, l.foldr (fun i r => match f (a + i), r with
      | .loc l, .ok ls => .ok (l :: ls) | .loc _, .error e => .error e | e, _ => .error e) (.ok [] : Except HubX (List Nat)) = .ok ls := by
    intro l
    induction l with
    | nil => exact fun _ => ⟨_, rfl⟩
    | cons i l ih =>
      intro m
      obtain ⟨ls, e⟩ := ih (fun j k => m j (List.mem_cons_of_mem _ k))
      exact ⟨_, by rw [List.foldr_cons, e, h i (m i List.mem_cons_self)]⟩
  exact key _ (fun i k => List.mem_range.1 k)
/-- Host pages 16 to 31 without a PASID, all in frame 7; and no warp. -/
def grants (s : State) : State := { s with warps := [], hubAts := (List.range 16).map (fun k => ⟨0, none, 16 + k, 7, true, true⟩) }
theorem hub_granted {s : State} {i a : Nat} {p : Option Nat} {w : Bool} {e : HubEnt} (f : s.hubAts.find? (fun e => e.iface == i && e.pasid == p && e.page == a / 4096) = some e)
    (r : e.r = true) (x : e.w = true) (n : s.warps = []) : hubHost s i p w a = .loc (hostBase + e.frame * 4096 + a % 4096) := by
  unfold hubHost heldElsewhere lineHolders
  rw [f, n]
  simp only [r, x, List.flatMap_nil, List.any_nil, Bool.not_true, Bool.and_false, Bool.false_eq_true, if_false]
theorem granted_page : ∀ j, j < 16 → (grants loaded).hubAts.find? (fun e => e.iface == 0 && e.pasid == none && e.page == 16 + j) = some ⟨0, none, 16 + j, 7, true, true⟩ := by
  decide +kernel
theorem host_places (s : State) (w : Bool) (i : Nat) (k : i < 65536) : hubHost (grants s) 0 none w (65536 + i) = .loc (hostBase + 7 * 4096 + (65536 + i) % 4096) := by
  have e : (65536 + i) / 4096 = 16 + i / 4096 := by omega
  exact hub_granted (e := ⟨0, none, 16 + i / 4096, 7, true, true⟩) (by rw [e]; exact granted_page _ (by omega)) rfl rfl rfl
/-- The bitmap that DEBUG_ATTACH reads, and the copies of accounts (61,440 bytes) and of the front of a save area, where the host
grants the pages and the context has no PASID. -/
theorem witness_HostCopies (s : State) (n : Nat) (m : n ≤ 65536) (bs : List Byte) (k : bs.length ≤ 65536) :
    (∃ x, hostRead (grants s) 0 none 65536 n = .ok x) ∧ ∃ t, hostWrite (grants s) 0 none 65536 bs = .ok t := by
  constructor
  · obtain ⟨ls, e⟩ := places_ok (hubHost (grants s) 0 none false) _ 65536 n (fun i k => host_places s false i (by omega))
    exact ⟨_, by unfold hostRead; rw [e]⟩
  · obtain ⟨ls, e⟩ := places_ok (hubHost (grants s) 0 none true) _ 65536 bs.length (fun i m => host_places s true i (by omega))
    exact ⟨_, by unfold hostWrite; rw [e]⟩
theorem witness_SaveBytes : mailPasid 0 (loaded.ctx 1) = none ∧ ownCtx loaded 0 1 = true ∧ (saved1.saves.find? (fun v => v.ctx == 1 && v.core == 0)).isSome = true ∧
    ∀ s v n, (saveBytes s v n).length = n := ⟨by decide +kernel, by decide +kernel, by decide +kernel, fun _ _ _ => by simp [saveBytes]⟩
theorem eights (f : Nat → Nat) (n : Nat) : ((List.range n).flatMap (fun i => leBytes 8 (f i))).length = 8 * n := by
  induction n with
  | zero => rfl
  | succ n ih => rw [List.range_succ, List.flatMap_append, List.length_append, ih]; simp [leBytes_length]; omega
theorem witness_AccountBytes (a b : Cells Nat) : (acctBytes a b).length = 61440 := by
  unfold acctBytes; rw [List.length_append, eights, eights]
/-- A function-level reset of an interface with a launch, and of one with nothing. -/
theorem witness_FunctionLevelReset :
    every [ev (.functionLevelReset 3) (onX (fun x => { x with iface := 3 }) (onL (fun l => { l with iface := 3 }) loaded)) (loaded.ifaces.length == 64),
      ev (.functionLevelReset 3) loaded (loaded.ctxs.all (fun c => c.iface != 3) && loaded.launches.all (fun l => l.iface != 3))] = true := by decide +kernel

def tdi (t : Tdisp) : State := loaded.modIface 3 (fun x => { x with tdisp := t })
/-- The leaf that maps the program and the data, shared with the host. -/
def shared : State := { loaded with mem := memWriteN loaded.mem 0x30000 8 0xCF }
/-- Its context is confidential, and nothing is encrypted yet. -/
def secret : State := onX (fun x => { x with conf := true, devBase := 0, devLen := 0x40000000 }) loaded
theorem witness_HostAndDeviceEvents :
    every [ev (.tdiConfigWrite 3) (tdi .run) (tdiFixed (tdi .run) 3), ev (.tdiConfigWrite 3) (tdi .unlocked) (!tdiFixed (tdi .unlocked) 3), ev (.tdispRequest 3 .lock) (tdi .unlocked) true,
      ev (.tdispRequest 3 (.start 7)) (tdi .locked) true, ev (.tdispRequest 3 .stop) (tdi .run) true, ev (.tdispRequest 3 .stop) (tdi .error) true,
      every ([1, 4, 5, 67].map (fun k => ev (.spdmRequest k) loaded true)), ev (.spdmRequest 1) { State.reset with boot := .steps 2 } true, ev (.configurationRequest 0) loaded true, ev (.configurationRequest 0) { State.reset with boot := .steps 1 } true,
      ev (.hostCxlMemAccess 0x50000 ⟨none, .read⟩) loaded (hostBias loaded 0x50000 none == 0), ev (.hostCxlMemAccess 0x50000 ⟨none, .read⟩) shared (hostBias shared 0x50000 none != 0 && dirOk shared 0x50000 false && !heldElsewhere shared none 0x50000 1),
      ev (.hostCxlMemAccess 0x50000 ⟨none, .write (List.replicate 64 7)⟩) shared (dirOk shared 0x50000 true), ev (.hostCxlMemAccess 0x5003F ⟨none, .write [7]⟩) shared (dirOk shared 0x5003F true),
      ev (.hostCxlMemAccess 0x50000 ⟨some 7, .read⟩) (onX (fun x => { x with conf := true }) shared) (hostBias (onX (fun x => { x with conf := true }) shared) 0x50000 (some 7) == 0), ev (.hostSnoop 0x7000 .read) loaded (!heldElsewhere loaded none (hostBase + 0x7000) 1), ev (.hostSnoop 0x707F (.write [7])) loaded true,
      sealOf secret 1 0x50000 0x50000 != 0, sealOf secret 1 0x5003F 0x5003F != sealOf secret 1 0x50040 0x50040, sealAt secret 0x50000 != sealOf secret 1 0x50000 0x50000] = true := by decide +kernel

/-- The device's id is 5, and every plane carries the messages of its own number; line 2 of the device has a directory entry. -/
def fabric (d : DirEnt) : State := { loaded with devId := 5, planemap := 0xFEDCBA9876543210, dir := [d] }
def held (m f : Bool) : State := { fabric ⟨9, none, [], false⟩ with peers := [⟨7 * 2 ^ 33 + 3, m, f⟩] }
def drains (map dead : Nat) : State := { loaded with planemap := BitVec.ofNat 64 map, deadmask := BitVec.ofNat 16 dead, draining := [3] }
/-- The premises of each clause; what Usxon exports is a free value, of which each clause takes one case. -/
theorem witness_PlatformEvents :
    every [ev (.poisonDetect 0x50000) loaded true, ev (.liveStateError 0) loaded (((loaded.launch 0).level 3).isNone && !(loaded.block 0).ended), ev (.correctedEccEvent 5) loaded true, ev .hbmScrub loaded true, ev .mlcScrub loaded true,
      ev (.controlParityError (some 0)) loaded ((loaded.block 0).core == 0), ev (.controlParityError none) loaded true] = true ∧
    every [ev (.globalTrigger 0) { loaded with debt := [0, 0, 0, 0, 0] } (loaded.boot == .up && loaded.focus == ⟨0, 0, .A⟩ && loaded.trigger != [0]), ev (.globalTrigger 0) { loaded with trigger := [0] } true,
      ev (.seriesTick 1) (onX (fun x => { x with series := some ⟨0x50000, 12, 12⟩ }) { loaded with time := 8192 }) (8192 % 2 ^ 12 == 0),
      ev (.seriesTick 1) (onX (fun x => { x with series := some ⟨0x50000, 12, 12⟩, ticked := 8193 }) { loaded with time := 8192 }) ((loaded.ctx 1).alive && loaded.focus == ⟨0, 0, .A⟩ && loaded.debt.getD 0 0 == 0)] = true ∧
    every [planeWaits (fabric ⟨2, none, [], false⟩) (ownFa (fabric ⟨2, none, [], false⟩) 256) == false, (dirEntry (fabric ⟨2, none, [1, 2, 3, 4, 5, 6, 7, 8], false⟩) 2).owner == none,
      (dirEntry (fabric ⟨2, none, [4], false⟩) 2).sharers.all (· == 4), (dirEntry (fabric ⟨2, some 4, [], false⟩) 2).owner == some 4, !fabricDead (fabric ⟨2, none, [], false⟩), (fabric ⟨2, none, [], false⟩).boot == .up] = true ∧
    every [ev (.directoryInvalidation 2) (fabric ⟨2, none, [4], false⟩) (decide (2 * 128 < peerBase)), ev (.directoryInvalidation (peerBase / 128 + 7 * 2 ^ 33 + 3)) (held false false) true,
      ev (.peerLineMiss (7 * 2 ^ 40 + 512) true (List.replicate 128 0) true) (held true false) (nbits (7 * 2 ^ 40 + 512) 55 40 != 5 && !planeWaits (held true false) (7 * 2 ^ 40 + 512) && (held true false).peers.all (fun p => p.fa != (7 * 2 ^ 40 + 512) / 128)),
      ev (.peerWriteback (7 * 2 ^ 40 + 384)) (held true false) ((held true false).peers.any (fun p => p.fa == (7 * 2 ^ 40 + 384) / 128 && p.modified && !p.fresh) && !planeWaits (held true false) (7 * 2 ^ 40 + 384))] = true ∧
    every [ev (.fabricPlaneFailure 15) loaded (!loaded.draining.contains 15 && !loaded.deadmask.getLsbD 15), ev (.fabricPlaneFailure 3) (drains 0xFEDCBA9876543210 8) ((drains 0xFEDCBA9876543210 8).deadmask != 0xFFFF),
      ev .planeDrainTimeout (drains 0x3333333333333333 8) ((drains 0x3333333333333333 8).draining.all (fun p => p < 16 && (drains 0x3333333333333333 8).deadmask.getLsbD p))] = true ∧
    every [ev (.powerPointChange 3 1000) loaded true, ev (.thermalLimit 3) loaded true, ev .thermalShutdown loaded true, ev .powerRemoval loaded true, ev (.corePowerGate 63) (loaded.modCore 63 (fun k => { k with gated := false })) ((loaded.core 63).ctx.isNone)] = true ∧
    every ([Boot.off, .inReset, .steps 1, .steps 2, .steps 3, .steps 4, .steps 5].map (fun b => ev .perstDeassert { State.reset with boot := b } true) ++ [ev (.interfaceBudgetWindow 3 10001 99) loaded true]) = true := by decide +kernel

def small : State := { loaded with mem := memWriteN (memWriteN (memWriteN loaded.mem 0x30000 8 0x38001) 0x38000 8 0x39001) 0x39028 8 0x5004F }
def smallMig : State := { small with mem := memWriteN small.mem 0x39028 8 0x5024F }
/-- The page's copy has moved n bytes, or cannot go on. -/
def copying (n : Nat) (bad_ : Bool) : State := { smallMig with migs := [⟨1, 0x50000, 16, 0x50000, 0x60000, n, bad_⟩], engines := loaded.engines.set 0 [{ core := 64, block := 2 ^ 64, req := 0, page := some (1, 0x50000) }] }
/-- A page of 64 KiB before its migration and under it, with its leaf and its new place elsewhere; its copy, to be begun, under way,
done and given up. -/
theorem witness_PageMigration :
    (Memory.wf small.mem && Memory.wf smallMig.mem) = true ∧ inHost (small.ctx 1) 0x50000 = false ∧ ([small, smallMig].zipIdx.all fun x => match walk x.1 0x20000 0x50000 with
      | .leaf f => f.bits == 16 && nbits f.pte 11 11 == 0 && nbits f.pte 9 9 == x.2 && pteAddr f.pte == 0x50000 && f.at_ + 8 ≤ 0x60000 | _ => false) = true ∧
      (0x60000 % 2 ^ 16 = 0 ∧ 0x60000 + 2 ^ 16 ≤ Config.deviceBytes ∧ 0x50000 + 2 ^ 16 ≤ 0x60000) ∧ quietRange smallMig 1 0x50000 0x60000 = true ∧ smallMig.poison = [] ∧
      every [smallMig.migs.isEmpty && (leastQueued smallMig (List.range 16)).any (· < smallMig.engines.length), ev (.pageMigration 1 0x50000 0x60000 true) smallMig true,
        ev (.pageMigration 1 0x50000 0x60000 true) (copying 65536 false) true, ev (.pageMigration 1 0x50000 0x60000 true) (copying 16 true) true,
        ev (.copyGranule 0) (copying 16 false) ((nextCopy (copying 16 false) 0).isNone && (nextPage (copying 16 false) 0).any (fun x => !poisoned (copying 16 false) (x.2.src + x.2.pos) 16 && dirOk (copying 16 false) (x.2.src + x.2.pos) false))] = true := by decide +kernel

/-! ### Values from the manual's worked examples, in lane 0 -/

/-- The low word of v4 after the instruction, with s0, s1 and s2. -/
def gives (i : Instr) (x y z : W64) : Option W32 := (nxt i (at_ i (su x y z))).map (fun t => (t.warp 0).rf.vget 4 0)
def gives2 (i : Instr) (x y z : W64) : Option W32 := (nxt i (at_ i (su x y z))).map (fun t => (t.warp 0).rf.vget 5 0)
/-- After R131, R132 (a select), R133, R134 (BYSEL) and R213. -/
theorem test_integer_values :
    gives (.aadd h d .s32 3 (.s 0) (.s 1)) 0x7F4000001000 0xFFFFFFFC 0 = some 0x00000FE0 ∧ gives2 (.aadd h d .s32 3 (.s 0) (.s 1)) 0x7F4000001000 0xFFFFFFFC 0 = some 0x7F40 ∧
      gives (.zadd h d .n32 true (.s 0) (.s 1)) 0xFFFFFFF0 0x20 0 = some 0xFFFFFFFF ∧ gives (.zsub h d .n32 true (.s 0) (.s 1)) 3 5 0 = some 0 ∧
      gives (.ltab h d 0xD8 (.s 0) (.s 1) (.s 2)) 0xFF00FF00 0x12345678 0x9ABCDEF0 = some 0x12BC56F0 ∧
      gives (.shr h d .s32 false (.s 0) (.s 1)) 0x80000000 40 0 = some 0xFFFFFFFF ∧ gives (.shr h d .s32 true (.s 0) (.s 1)) 0x80000000 40 0 = some 0xFF800000 ∧
      gives (.bysel h d (.s 0) (.s 1) (.s 2)) 0x11223344 0x0123 0 = some 0x44332211 ∧ gives (.bysel h d (.s 0) (.s 1) (.s 2)) 0x11223344 0x8845 0x55667788 = some 0x00008877 ∧
      gives (.acvtTogen h e 1 (.s 0)) 0x4000 0 0 = some 0x00004000 ∧ gives2 (.acvtTogen h e 1 (.s 0)) 0x4000 0 0 = some 0xFE100000 := by decide +kernel

/-- FPSTAT of lane 0 as well. -/
def flagged (i : Instr) (f : State → State) (r : Nat) : Option (W32 × BitVec 5) := (nxt i (at_ i f)).map (fun t => ((t.warp 0).rf.vget r 0, ((t.warp 0).thread 0).fpstat))
def pcvtRegs : State → State := onW (fun w => { w with rf := { w.rf with v := [(3 * 32, 0xFFFFFFFF), (8 * 32, 0x3EC7AE14), (9 * 32, 0x40000000), (10 * 32, 0xC174CCCD), (11 * 32, 0x49742400)] } })
def pcvt (satf : Bool) : Instr := .pcvt h ⟨20, false, 0⟩ .d8 .f32 .four .rn satf (.v 8 false .none) (.v 3 false .none)
/-- After R106, R108, R172 and R174: 9.95, and the packed conversion of four values with scale −1, whose word the manual writes out. -/
theorem test_decimal_values :
    flagged (.cvt h d .d8 .f32 .rn false (.s 0)) (su 0x411F3333 0 0) 4 = some (0x30, 0x10) ∧
      flagged (pcvt false) pcvtRegs 20 = some (0x80983255, 0x14) ∧ (flagged (pcvt true) pcvtRegs 20).map (·.1) = some 0x01983255 ∧
      (encode (.pcvt ⟨false, 0, false⟩ ⟨20, false, 0⟩ .d8 .f32 .four .rn false (.v 8 false .none) (.v 3 false .none))).toNat = 0x60400500100000C00E400245 ∧
      (encode (.fmac ⟨false, 3, false⟩ ⟨false, 5, false, 1⟩ .f32 .rn (.v 2 true .none) (.v 7 false (.bf 4)) (.x 0))).toNat = 0x40C18148050001CC880001C5 ∧
      every ([(0x40, 0x3F800000), (0x01, 0x49742400), (0x35, 0x42188000), (0xB5, 0xC2188000), (0x20, 0x3DCCCD00), (0x02, 0x3727C600)].map (fun x => numEq (d8Array x.1) (decodeBin .f32 x.2))) = true ∧
      every ([(0x35, 38125, 1000), (0x0D, 3250, 1)].map (fun x => numEq (decodeD8 x.1) (.fin false x.2.1 x.2.2))) = true := by decide +kernel

/-- A confidential write of two bytes over a granule's end (R499): each lies under its own granule's tweak, and reads back under them. -/
theorem test_seal : let x := sealOf secret 1 0x5003F 0x5003F
    let s := { secret with seals := [(0x1400, x), (0x1401, x + 1)] }
    (resealN secret x 0x5003F 2).seals = s.seals ∧ sealAt s 0x50080 = 0 ∧ seenN (sealWriteN s x 0x5003F 2 0xABCD) x 0x5003F 2 = 0xABCD := by decide +kernel
/-- After R526 and R528: the plane of a line, and the entry of a dead one. -/
theorem test_plane : planeHash (2 * 2 ^ 40 + 0x12345680) = 11 ∧
    planeEntry (rewritePlane { drains 0xFEDCBA9876543210 0x800 with draining := [11] } 11).planemap 11 = 0 ∧
    planeEntry (rewritePlane { drains 0xFEDCBA9876543210 0x800 with draining := [11] } 11).planemap 3 = 3 := by decide +kernel
/-- After R448: a window of the manual. -/
theorem test_window : windowIa (BitVec.ofNat 128 (0x7F400040 + 0x7F400051 * 2 ^ 41 + 0x123400 * 2 ^ 82)) 0x7F4000501008 = 0x1234101008 := by decide +kernel

end Sys2Proof.Tests
end

section
/-! Predicate q0 (R24), and the write of FPSTAT (R43): the flags that a lane names are cleared in that lane alone. -/

namespace Sys2Proof.Machine

/-- Settles O17: q0 is all ones by the definition of a predicate's read, its write is discarded, and 0 is among the
numbers that a predicate destination may have. -/
theorem predicateZero : Obligations.PredicateZero := by
  unfold Obligations.PredicateZero
  refine ⟨fun rf l hl => ?_, fun rf act val => ?_, by decide⟩
  · rw [RegFile.pred_zero, hasLane, BitVec.getLsbD_allOnes, decide_eq_true hl]
  · rw [RegFile.setPred, if_pos rfl]

/-! ### Updates of lanes -/

theorem Warp.thread_foldl_modThread (f : Nat → Thread → Thread) (ls : List Nat) (hd : ls.Nodup) (w : Warp) (k : Nat)
    (hk : k < w.thr.length) :
    (ls.foldl (fun w l => w.modThread l (f l)) w).thread k = if k ∈ ls then f k (w.thread k) else w.thread k := by
  induction ls generalizing w with
  | nil => simp
  | cons x xs ih =>
    obtain ⟨hx, hxs⟩ := List.nodup_cons.1 hd
    rw [List.foldl_cons, ih hxs _ (by rwa [Warp.thr_modThread]), Warp.thread_modThread]
    by_cases hkx : k = x
    · subst hkx; simp [hx, hk]
    · simp [hkx, Ne.symm hkx]

/-- An update of the lanes of a mask changes each of them once, and no other lane. -/
theorem Warp.thread_modLanes (w : Warp) (m : LMask) (f : Nat → Thread → Thread) (k : Nat) (hk : k < w.thr.length) :
    (w.modLanes m f).thread k = if hasLane m k then f k (w.thread k) else w.thread k := by
  rw [Warp.modLanes, Warp.thread_foldl_modThread f _ (lanesOf_nodup m) w k hk]
  simp only [mem_lanesOf]

theorem Warp.modLanes_zero (w : Warp) (f : Nat → Thread → Thread) : w.modLanes 0 f = w := by
  rw [Warp.modLanes, lanes_zero]; rfl

theorem Warp.modLanes_thr (w : Warp) (m : LMask) (f : Nat → Thread → Thread) :
    w.modLanes m f = { w with thr := (w.modLanes m f).thr } := by
  unfold Warp.modLanes
  induction lanesOf m generalizing w with
  | nil => rfl
  | cons x xs ih => rw [List.foldl_cons, ih]; rfl

/-- What an update makes of the issuing warp is all that counts. -/
theorem State.modIss_congr (s : State) (c : Cx) {f g : Warp → Warp}
    (h : f (s.warp c.iss.warp) = g (s.warp c.iss.warp)) : s.modIss c f = s.modIss c g := by
  have hw : s.warps.modify c.iss.warp f = s.warps.modify c.iss.warp g := by
    refine List.ext_getElem? fun j => ?_
    rw [List.getElem?_modify, List.getElem?_modify]
    by_cases hj : c.iss.warp = j
    · subst hj
      cases hx : s.warps[c.iss.warp]? with
      | none => rfl
      | some x =>
        have hs : s.warp c.iss.warp = x := by rw [State.warp, List.getD_eq_getElem?_getD, hx]; rfl
        simpa [hs] using h
    · simp [hj]
  unfold State.modIss State.modWarp
  rw [hw]

/-- A lane of the issuing warp after an update of the lanes of a mask. -/
theorem State.lane_modLanes {s : State} {c : Cx} (h : Sees s c) (m : LMask) (f : Nat → Thread → Thread) {l : Nat}
    (hl : l < 32) :
    (s.modIss c (fun w => w.modLanes m f)).lane c l = if hasLane m l then f l (s.lane c l) else s.lane c l := by
  rw [State.lane, State.regs_modIss s c _ h.warp]
  exact Warp.thread_modLanes _ m f l (hl.trans_eq h.lanes.symm)

/-- An update of lanes changes the issuing warp in its lanes alone. -/
theorem State.modIss_modLanes (s : State) (c : Cx) (h : c.iss.warp < s.warps.length) (m : LMask) (f : Nat → Thread → Thread) :
    s.modIss c (fun w => w.modLanes m f) =
      s.modIss c (fun w => { w with thr := ((s.modIss c (fun w => w.modLanes m f)).warp c.iss.warp).thr }) := by
  rw [State.regs_modIss s c _ h]
  exact State.modIss_congr s c (Warp.modLanes_thr _ m f)

/-! ### SWR of FPSTAT -/

/-- A bit of the flags after a write: clear where the value has a 1. -/
theorem getLsbD_clearFlags (old : BitVec 5) (v : W32) (k : Nat) (hk : k < 5) :
    (clearFlags old v).getLsbD k = (old.getLsbD k && !v.getLsbD k) := by
  simp [clearFlags, hk]

theorem ofNat_src32 (c : Cx) (a : Src) (l : Nat) : BitVec.ofNat 32 (src32 c a l) = Values.w32 c a l := by
  rw [Values.w32, src32]
  exact BitVec.eq_of_toNat_eq (by simp)

/-- What SWR of FPSTAT makes of an active lane. -/
def clearNamed (c : Cx) (a : Src) (l : Nat) (t : Thread) : Thread :=
  { t with fpstat := clearFlags t.fpstat (Values.w32 c a l) }

theorem fpOutstanding_eq_false {c : Cx} (h : ∀ r ∈ c.w.llr, r.act &&& c.act = 0) : fpOutstanding c = false := by
  simpa [fpOutstanding] using h

/-- SWR of FPSTAT past the gate, with no long-latency result outstanding: with no active lane as well, since clearing
the flags of no lane changes nothing. -/
theorem exec_swr_fpstat {h : Hd} {a : Src} {s : State} {c : Cx} (hg : gate s (.swr h 15 a) = .go c)
    (hl : ∀ r ∈ c.w.llr, r.act &&& c.act = 0) :
    exec (.swr h 15 a) s = .next ((s.modIss c (fun w => w.modLanes c.act (clearNamed c a))).done c) := by
  show execSwr h 15 a s = _
  rw [execSwr, runOp_go hg]
  by_cases ha : c.act = 0
  · rw [if_pos ha, ha, modIss_id s c _ (fun w => w.modLanes_zero _)]
  · have h14 : (15 : BitVec 8) ≠ 14 := by decide
    rw [if_neg ha, if_neg h14, fpOutstanding_eq_false hl, if_neg Bool.false_ne_true]
    simp only [ofNat_src32]
    rfl

/-- The flags of a lane that an instruction leaves as it goes on are those that its own effect left. -/
theorem After.fpstat {c : Cx} {u t : State} (h : After c u t) (l : Nat) : (t.lane c l).fpstat = (u.lane c l).fpstat := by
  obtain ⟨st, lat, stop, e⟩ := h.lanes l
  rw [e]

/-- Settles O38: the write updates the active lanes, each by its own value, and the instruction goes on. -/
theorem swrFpstat : Obligations.SwrFpstat := by
  unfold Obligations.SwrFpstat
  intro h a s c hg hl
  obtain ⟨u, hu⟩ : ∃ u, u = s.modIss c (fun w => w.modLanes c.act (clearNamed c a)) := ⟨_, rfl⟩
  have hlane : ∀ l, l < 32 → u.lane c l = if hasLane c.act l then clearNamed c a l (s.lane c l) else s.lane c l :=
    fun l h32 => hu ▸ State.lane_modLanes hg.sees c.act _ h32
  have hthr : u = s.modIss c (fun w => { w with thr := (u.warp c.iss.warp).thr }) :=
    hu ▸ State.modIss_modLanes s c hg.warp c.act _
  have hafter : After c u (u.done c) :=
    done_after c u (by rw [hu, State.modIss, (s.only_modWarp c.iss.warp _).len]; exact hg.warp)
  refine ⟨u.done c, by rw [hu, exec_swr_fpstat hg.gate hl], fun l k h32 hk => ?_, (u.warp c.iss.warp).thr, hthr ▸ hafter,
    fun l h32 => ?_⟩
  · rw [hafter.fpstat, hlane l h32]
    cases hasLane c.act l with
    | false => simp
    | true => exact getLsbD_clearFlags _ _ _ hk
  · change u.lane c l = { s.lane c l with fpstat := (u.lane c l).fpstat }
    rw [hlane l h32]
    cases hasLane c.act l <;> rfl

end Sys2Proof.Machine
end

section
/-! The instructions that must end their run (R64): the opcode and E of a word stand at their bits whatever its body is, so
a word of such an opcode with E equal to 0 decodes to nothing; and a slot with a word that is no instruction (R94, R95). -/

namespace Sys2Proof.Machine

/-! ### Fields of a word -/

theorem packL_append (l r : List (Nat × Nat)) : packL (l ++ r) = packL l + 2 ^ (l.map (·.1)).sum * packL r := by
  induction l with
  | nil => simp [packL]
  | cons x xs ih =>
    simp only [List.cons_append, packL, ih, List.map_cons, List.sum_cons, Nat.pow_add]
    ring

theorem packL_lt (l : List (Nat × Nat)) : packL l < 2 ^ (l.map (·.1)).sum := by
  induction l with
  | nil => simp [packL]
  | cons x xs ih =>
    simp only [packL, List.map_cons, List.sum_cons, Nat.pow_add]
    have hx : x.2 % 2 ^ x.1 < 2 ^ x.1 := Nat.mod_lt _ (by positivity)
    calc x.2 % 2 ^ x.1 + 2 ^ x.1 * packL xs
        < 2 ^ x.1 + 2 ^ x.1 * packL xs := by omega
      _ = 2 ^ x.1 * (packL xs + 1) := by ring
      _ ≤ 2 ^ x.1 * 2 ^ (xs.map (·.1)).sum := Nat.mul_le_mul_left _ ih

theorem packL_append_div (l r : List (Nat × Nat)) : packL (l ++ r) / 2 ^ (l.map (·.1)).sum = packL r := by
  rw [packL_append, Nat.add_mul_div_left _ _ (by positivity), Nat.div_eq_of_lt (packL_lt l), Nat.zero_add]

@[simp] theorem length_unpackL (ws : List Nat) (x : Nat) : (unpackL ws x).length = ws.length := by
  induction ws generalizing x with
  | nil => rfl
  | cons w ws ih => simp [unpackL, ih]

theorem unpackL_append (ws vs : List Nat) (x : Nat) :
    unpackL (ws ++ vs) x = unpackL ws x ++ unpackL vs (x / 2 ^ ws.sum) := by
  induction ws generalizing x with
  | nil => simp [unpackL]
  | cons w ws ih => simp [unpackL, ih, Nat.div_div_eq_div_mul, Nat.pow_add]

/-- The bits of a word below its head: bit 0 and the body. -/
def lowFields (b : Body) : List (Nat × Nat) := (1, 1) :: (bodyWidths b.list.1).zip b.list.2

theorem packWord_eq_packL (h : Head) (b : Body) : packWord h b = packL (lowFields b ++ headWidths.zip h.list) := rfl

theorem sum_lowFields (b : Body) : ((lowFields b).map (·.1)).sum = 67 := by
  cases b <;> rfl

theorem sum_bodyWidths (f : Fmt) : (bodyWidths f).sum = 66 := by
  cases f <;> rfl

theorem packWord_lt (h : Head) (b : Body) : packWord h b < 2 ^ 96 := by
  have hlt := packL_lt (lowFields b ++ headWidths.zip h.list)
  rwa [List.map_append, List.sum_append, sum_lowFields] at hlt

/-- The head stands from bit 67 upward, whatever the body's format is. -/
theorem packWord_div (h : Head) (b : Body) : packWord h b / 2 ^ 67 = packL (headWidths.zip h.list) := by
  have hdiv := packL_append_div (lowFields b) (headWidths.zip h.list)
  rwa [sum_lowFields] at hdiv

theorem toNat_encode {i : Instr} {h : Head} {b : Body} (hi : toFields i = some (h, b)) :
    (encode i).toNat = packWord h b := by
  simp only [encode, hi, BitVec.toNat_ofNat]
  exact Nat.mod_eq_of_lt (packWord_lt h b)

/-- OPC is bits 95 to 86 and E is bit 85 of an encoded word (R58). -/
theorem encode_opc_e {i : Instr} {h : Head} {b : Body} (hi : toFields i = some (h, b)) :
    (encode i).toNat / 2 ^ 86 = h.opc % 2 ^ 10 ∧ (encode i).toNat / 2 ^ 85 % 2 = h.e % 2 := by
  have hd := packWord_div h b
  rw [toNat_encode hi]
  simp only [headWidths, Head.list, List.zip_cons_cons, List.zip_nil_left, packL] at hd
  omega

/-- A word's fields carry its bits 95 to 86 as OPC and its bit 85 as E (R58). -/
theorem unpackWord_opc_e {x : Nat} {h : Head} {b : Body} (hx : unpackWord x = some (h, b)) :
    h.opc = x / 2 ^ 86 % 2 ^ 10 ∧ h.e = x / 2 ^ 85 % 2 := by
  have hdrop (f : Fmt) : (unpackL (1 :: (bodyWidths f ++ headWidths)) x).drop ((bodyWidths f).length + 1) =
      unpackL headWidths (x / 2 ^ 67) := by
    rw [← List.cons_append, unpackL_append, List.drop_left' (by simp), List.sum_cons, sum_bodyWidths]
  simp only [unpackWord, hdrop] at hx
  split at hx
  · next hl =>
    simp only [headWidths, unpackL, List.cons.injEq] at hl
    obtain ⟨-, -, -, -, -, he, ho, -⟩ := hl
    obtain ⟨rfl, -⟩ := Prod.mk.inj (Option.some.inj hx)
    simp only [← he, ← ho]
    omega
  · cases hx

/-! ### Opcodes of the instructions that must end their run -/

/-- The opcodes of the instructions that must end their run: CALL's has two rows, and so has RESUME's. -/
def runEndOpcodes : List Nat := [0x0C0, 0x0C1, 0x0C2, 0x0C3, 0x0C5, 0x0C7, 0x0C9, 0x0CA, 0x382]

/-- An instruction that must end its run is encoded with such an opcode, and with its own E. -/
theorem toFields_of_endsRun {i : Instr} {p : Shape} (hi : endsRun i = true) (hs : shape i = some p) :
    ∃ h b, toFields i = some (h, b) ∧ h.opc ∈ runEndOpcodes ∧ h.e = p.h.e.toNat := by
  unfold endsRun at hi
  split at hi
  case h_12 => cases hi
  all_goals
    cases hs
    exact ⟨_, _, rfl, of_decide_eq_true rfl, rfl⟩

/-- An F-B word other than JOIN.ARM, JOIN.BREAK and NOP must end its run, and carries its E. -/
theorem endsRun_of_parseCtl {n : Nat} {h : Head} {imm bsub jb off : Nat} {s : Option Src} {j : Instr}
    (hn : n ≠ 4 ∧ n ≠ 6 ∧ n ≠ 8) (hj : parseCtl n h imm bsub jb off s = some j) :
    endsRun j = true ∧ (shape j).map (·.h.e) = some (h.e == 1) := by
  obtain ⟨hArm, hBreak, hNop⟩ := hn
  unfold parseCtl at hj
  split at hj
  case h_3 => split at hj <;> cases s <;> cases hj <;> exact ⟨rfl, rfl⟩
  case h_5 => exact absurd rfl hArm
  case h_7 => exact absurd rfl hBreak
  case h_9 => exact absurd rfl hNop
  all_goals cases s <;> cases hj <;> exact ⟨rfl, rfl⟩

theorem endsRun_of_parseSys {h : Head} {sub imm sel : Nat} {sa sb : Option Src} {j : Instr}
    (hj : parseSys 2 h sub imm sel sa sb = some j) :
    endsRun j = true ∧ (shape j).map (·.h.e) = some (h.e == 1) := by
  by_cases hsub : (sub == 1) = true
  · rw [parseSys, if_pos hsub] at hj
    cases hj
    exact ⟨rfl, rfl⟩
  · rw [parseSys, if_neg hsub] at hj
    cases hj
    exact ⟨rfl, rfl⟩

theorem parsePred_eq_none {n : Nat} (hn : 8 ≤ n) (h : Head) (ud md : Nat) (ty : Option Ty) (tc : Nat)
    (sa sb : Option Src) (fa fb fc : Nat) : parsePred n h ud md ty tc sa sb fa fb fc = none := by
  unfold parsePred
  split
  case h_9 => rfl
  all_goals omega

/-- The fields of a word with such an opcode are parsed as an instruction that must end its run, with their E. -/
theorem endsRun_of_ofFields {h : Head} {b : Body} {j : Instr} (ho : h.opc ∈ runEndOpcodes)
    (hj : ofFields h b = some j) : endsRun j = true ∧ (shape j).map (·.h.e) = some (h.e == 1) := by
  have hcls : h.opc / 64 = 3 ∨ h.opc / 64 = 14 :=
    (by decide : ∀ n ∈ runEndOpcodes, n / 64 = 3 ∨ n / 64 = 14) h.opc ho
  cases b with
  | fb imm bsub sind jb off =>
    simp only [ofFields] at hj
    split at hj
    · next hq =>
      have hn := (by decide : ∀ n ∈ runEndOpcodes, n / 64 = 3 → n % 64 ≠ 4 ∧ n % 64 ≠ 6 ∧ n % 64 ≠ 8) h.opc ho hq
      exact endsRun_of_parseCtl hn hj
    · cases hj
  | fs sub imm sb sa sel =>
    simp only [ofFields] at hj
    split at hj
    · next hq =>
      have hn := (by decide : ∀ n ∈ runEndOpcodes, n / 64 = 14 → n % 64 = 2) h.opc ho hq
      exact endsRun_of_parseSys (hn ▸ hj)
    · cases hj
  | fa ud md ty sc sb sa =>
    have hq : h.opc / 128 = 1 ∧ 8 ≤ h.opc % 128 ∨ h.opc / 128 = 7 :=
      (by decide : ∀ n ∈ runEndOpcodes, n / 128 = 1 ∧ 8 ≤ n % 128 ∨ n / 128 = 7) h.opc ho
    rcases hq with ⟨hq, hn⟩ | hq
    · simp only [ofFields, hq, parsePred_eq_none hn, reduceCtorEq] at hj
    · simp only [ofFields, hq, reduceCtorEq] at hj
  | _ => rcases hcls with hq | hq <;> simp [ofFields, hq] at hj

/-! ### The check of E -/

theorem formCheck_ne_none_of_endsRun {i : Instr} {p : Shape} (hs : shape i = some p) (hi : endsRun i = true)
    (he : p.h.e = false) : formCheck i ≠ none := by
  simp only [formCheck, hs, hi, he]
  split <;> simp

theorem formCheck_ne_runEnd_of_not_endsRun {i : Instr} {p : Shape} (hs : shape i = some p) (hi : endsRun i = false) :
    formCheck i ≠ some .runEnd := by
  simp only [formCheck, hs, hi, Bool.false_and, Bool.false_eq_true, if_false]
  repeat' split
  all_goals simp

theorem decodeWord_eq_ok {w : Word} {j : Instr} (hw : decodeWord w = .ok j) :
    ∃ h b, unpackWord w.toNat = some (h, b) ∧ ofFields h b = some j ∧ formCheck j = none ∧ encode j = w := by
  unfold decodeWord at hw
  split at hw
  · cases hw
  split at hw
  · cases hw
  next i hi =>
  split at hw
  · cases hw
  next hf =>
  split at hw
  · next he =>
    obtain ⟨⟨h, b⟩, hu, ho⟩ := Option.bind_eq_some_iff.1 hi
    cases hw
    exact ⟨h, b, hu, ho, hf, he⟩
  · cases hw

/-- A word with the opcode of an instruction that must end its run decodes only with E equal to 1. -/
theorem e_of_decodeWord {w : Word} {j : Instr} (hw : decodeWord w = .ok j) (ho : w.toNat / 2 ^ 86 ∈ runEndOpcodes) :
    w.toNat / 2 ^ 85 % 2 = 1 := by
  obtain ⟨h, b, hu, hj, hf, -⟩ := decodeWord_eq_ok hw
  obtain ⟨hopc, he⟩ := unpackWord_opc_e hu
  have hlt : w.toNat / 2 ^ 86 < 2 ^ 10 := by have := w.isLt; omega
  obtain ⟨hend, hse⟩ := endsRun_of_ofFields (by rwa [hopc, Nat.mod_eq_of_lt hlt]) hj
  obtain ⟨p, hs, hpe⟩ := Option.map_eq_some_iff.1 hse
  by_contra h0
  exact formCheck_ne_none_of_endsRun hs hend (by rw [hpe, he]; simpa using h0) hf

theorem decodeWord_encode_ne_ok {i : Instr} {p : Shape} (hs : shape i = some p) (hi : endsRun i = true)
    (he : p.h.e = false) (j : Instr) : decodeWord (encode i) ≠ .ok j := by
  intro hj
  obtain ⟨h, b, hf, ho, hhe⟩ := toFields_of_endsRun hi hs
  obtain ⟨hopc, hbit⟩ := encode_opc_e hf
  have hlt : h.opc < 2 ^ 10 := (by decide : ∀ n ∈ runEndOpcodes, n < 2 ^ 10) _ ho
  have hone := e_of_decodeWord hj (by rwa [hopc, Nat.mod_eq_of_lt hlt])
  rw [hbit, hhe, he] at hone
  cases hone

/-! ### A slot whose word is no instruction -/

/-- The state with another slot. -/
def State.withIss (s : State) (x : Option Iss) : State := { s with iss := x }

@[simp] theorem State.withIss_warp (s : State) (x : Option Iss) (i : Nat) : (s.withIss x).warp i = s.warp i := rfl
@[simp] theorem State.withIss_block (s : State) (x : Option Iss) (i : Nat) : (s.withIss x).block i = s.block i := rfl
@[simp] theorem State.withIss_launch (s : State) (x : Option Iss) (i : Nat) : (s.withIss x).launch i = s.launch i := rfl
@[simp] theorem State.withIss_core (s : State) (x : Option Iss) (i : Nat) : (s.withIss x).core i = s.core i := rfl
@[simp] theorem State.withIss_ctx (s : State) (x : Option Iss) (i : Nat) : (s.withIss x).ctx i = s.ctx i := rfl
@[simp] theorem State.withIss_modWarp (s : State) (x : Option Iss) (i : Nat) (f : Warp → Warp) :
    (s.withIss x).modWarp i f = (s.modWarp i f).withIss x := rfl
@[simp] theorem State.withIss_modCore (s : State) (x : Option Iss) (i : Nat) (f : Core → Core) :
    (s.withIss x).modCore i f = (s.modCore i f).withIss x := rfl
@[simp] theorem State.withIss_withIss (s : State) (x y : Option Iss) : (s.withIss x).withIss y = s.withIss y := rfl
@[simp] theorem State.withIss_out (s : State) (x : Option Iss) (o : IssOut) : (s.out o).withIss x = s.withIss x := rfl

theorem State.ite_withIss (s t : State) (x : Option Iss) (p : Prop) [Decidable p] :
    (if p then s.withIss x else t.withIss x) = (if p then s else t).withIss x :=
  (apply_ite (State.withIss · x) p s t).symm

@[simp] theorem State.withIss_count (s : State) (x : Option Iss) (core n k : Nat) :
    (s.withIss x).count core n k = (s.count core n k).withIss x := by
  cases hc : (s.core core).ctx with
  | none => simp [State.count, hc]
  | some y => simp only [State.count, withIss_core, withIss_ctx, withIss_modCore, hc]; exact ite_withIss _ _ x _

@[simp] theorem withIss_killBlock (s : State) (x : Option Iss) (b : Nat) (k : KillInfo) :
    killBlock (s.withIss x) b k = (killBlock s b k).withIss x := by
  rw [killBlock, killBlock, ← State.ite_withIss]
  rfl

/-- A trap neither reads nor changes the slot. -/
@[simp] theorem withIss_takeTrap (s : State) (x : Option Iss) (wid : Nat) (p : Pos) (f : Fetched) (code : BitVec 16)
    (ts : Traps) : takeTrap (s.withIss x) wid p f code ts = (takeTrap s wid p f code ts).withIss x := by
  by_cases ht : ts.isEmpty = true
  · rw [takeTrap, takeTrap, if_pos ht, if_pos ht]
  · rw [takeTrap, takeTrap, if_neg ht, if_neg ht]
    simp only [State.withIss_warp, State.withIss_block, State.withIss_launch, State.withIss_modWarp,
      State.withIss_count, withIss_killBlock]
    exact State.ite_withIss _ _ x _

/-- The state of a side's slot before its instruction. -/
def sideStart (s : State) (core quad wid : Nat) (side : Side) : State :=
  if side = .A then beginCycle s core quad wid else s

/-- What the slot of a word that is no instruction comes to: held for a result of its run that may trap (R95) or for a
budget (R334), or else a trap ILLEGAL of every lane of the subgroup (R94). -/
def illegalSlot (s : State) (core quad wid : Nat) (g : Group) (f : Fetched) (side : Side) : State :=
  let s1 := (sideStart s core quad wid side).withIss (some ⟨core, quad, side, wid, g.gid, g.mask, f, .issued⟩)
  if llrHold (s.warp wid) g { h := default } then s1.out (.held .dependence)
  else if throttled s (s.warp wid) then s1.out (.held .throttle)
  else (takeTrap s1 wid g.pos f 0 ((lanesOf g.mask).map (fun l => (l, .illegal)))).out .trapped

theorem sideSlot_of_illegal {s : State} {core quad wid : Nat} {g : Group} {f : Fetched} {side : Side} {why : Illegal}
    (hw : f.decoded = .illegal why) :
    sideSlot s core quad wid g f side = .pass (afterSlot (illegalSlot s core quad wid g f side)) := by
  rw [illegalSlot, apply_ite afterSlot, apply_ite afterSlot, apply_ite Slot.pass, apply_ite Slot.pass, sideSlot, hw]
  rfl

/-- But for the slot itself, nothing changes where it is held, and the trap alone happens where it is not. -/
theorem withIss_illegalSlot (s : State) (core quad wid : Nat) (g : Group) (f : Fetched) (side : Side) :
    (illegalSlot s core quad wid g f side).withIss s.iss =
      (if llrHold (s.warp wid) g { h := default } || throttled s (s.warp wid) then sideStart s core quad wid side
        else takeTrap (sideStart s core quad wid side) wid g.pos f 0
          ((lanesOf g.mask).map (fun l => (l, Kind.illegal)))).withIss s.iss := by
  by_cases hh : llrHold (s.warp wid) g { h := default } = true
  · rw [illegalSlot, if_pos hh, if_pos (by rw [hh, Bool.true_or]), State.withIss_out, State.withIss_withIss]
  by_cases ht : throttled s (s.warp wid) = true
  · rw [illegalSlot, if_neg hh, if_pos ht, if_pos (by rw [ht, Bool.or_true]), State.withIss_out, State.withIss_withIss]
  · rw [illegalSlot, if_neg hh, if_neg ht, if_neg (by simp [hh, ht]), State.withIss_out, withIss_takeTrap,
      State.withIss_withIss]

/-- Settles O4: the row of a run ender fixes its opcode and E, so its word with E equal to 0 fails the check of E however it
is parsed; and the slot of a word that is no instruction holds or traps. -/
theorem runEnders : Obligations.RunEnders := by
  unfold Obligations.RunEnders
  refine ⟨fun i => ?_, fun i p hs hi he => ⟨?_, decodeWord_encode_ne_ok hs hi he⟩,
    fun i p hs hi => formCheck_ne_runEnd_of_not_endsRun hs hi, fun s core quad wid side g f hf => ?_⟩
  · cases i <;> simp [endsRun]
  · rw [Instr.wellFormed, Option.isNone_eq_false_iff, Option.isSome_iff_ne_none]
    exact formCheck_ne_none_of_endsRun hs hi he
  · cases hw : f.decoded with
    | ok i => exact absurd hw (hf i)
    | illegal why =>
      exact ⟨illegalSlot s core quad wid g f side, sideSlot_of_illegal hw, withIss_illegalSlot s core quad wid g f side⟩

end Sys2Proof.Machine
end

section
/-! Where lanes come to stand when they land at run starts (R53, R125, R442), and what landing leaves of the others. -/

namespace Sys2Proof.Machine

theorem hasLane_zero (l : Nat) : hasLane 0 l = false := BitVec.getLsbD_zero

theorem hasLane_and_not (a b : LMask) (l : Nat) : hasLane (a &&& ~~~b) l = (hasLane a l && !hasLane b l) := by
  by_cases hl : l < 32
  · simp [hasLane, hl]
  · simp [hasLane, BitVec.getLsbD_of_ge _ l (Nat.le_of_not_lt hl)]

theorem Warp.Moved.symm {w v : Warp} (h : w.Moved v) : v.Moved w := by
  unfold Warp.Moved at *; rw [h]

/-- Every subgroup of w is one of v, at its place and with at least its lanes. -/
def Warp.GroupsGrow (w v : Warp) : Prop :=
  ∀ g ∈ w.groups, ∃ k ∈ v.groups, k.pos = g.pos ∧ k.wait = g.wait ∧ ∀ l, hasLane g.mask l → hasLane k.mask l

theorem Warp.groupsGrow_of_subset {w v : Warp} (h : w.groups ⊆ v.groups) : w.GroupsGrow v :=
  fun g hg => ⟨g, h hg, rfl, rfl, fun _ hl => hl⟩

theorem Warp.groupsGrow_modGroup_or (w : Warp) (gid : Nat) (m : LMask) :
    w.GroupsGrow (w.modGroup gid (fun g => { g with mask := g.mask ||| m })) := by
  intro g hg
  refine ⟨_, List.mem_map_of_mem hg, ?_⟩
  split
  · exact ⟨rfl, rfl, fun l hl => by rw [hasLane_or, hl, Bool.true_or]⟩
  · exact ⟨rfl, rfl, fun _ hl => hl⟩

theorem Warp.groupsGrow_land (w : Warp) (draw l : Nat) (pc : W64) (af : List Nat) : w.GroupsGrow (w.land draw l pc af) := by
  unfold Warp.land; dsimp only; split
  · exact groupsGrow_of_subset (List.Subset.refl _)
  · split
    · exact (w.modThread l _).groupsGrow_modGroup_or _ _
    · exact groupsGrow_of_subset (List.subset_append_left _ _)

theorem Warp.standsAt.grow {w v : Warp} {l : Nat} {pc : W64} (h : w.standsAt l pc) (hg : w.GroupsGrow v)
    (ht : v.thread l = w.thread l) : v.standsAt l pc := by
  rcases h with ⟨g, hm, hl, hs⟩ | h
  · obtain ⟨k, hk, hpos, hwait, hlanes⟩ := hg g hm
    exact .inl ⟨k, hk, hlanes l hl, by rwa [Group.startsAt, hpos, hwait]⟩
  · exact .inr (by rwa [ht])

theorem Warp.thr_length_land (w : Warp) (draw l : Nat) (pc : W64) (af : List Nat) :
    (w.land draw l pc af).thr.length = w.thr.length := by
  unfold Warp.land; dsimp only; split
  · exact w.thr_modThread l _
  · split <;> exact w.thr_modThread l _

theorem Warp.thread_modThread_of_ne (w : Warp) {l k : Nat} (h : k ≠ l) (f : Thread → Thread) :
    (w.modThread l f).thread k = w.thread k := by
  rw [thread_modThread, if_neg fun e => h e.1.symm]

/-- Another lane than the one that lands stays as it was. -/
theorem Warp.thread_land_of_ne (w : Warp) (draw : Nat) {l k : Nat} (pc : W64) (af : List Nat) (h : k ≠ l) :
    (w.land draw l pc af).thread k = w.thread k := by
  unfold Warp.land; dsimp only; split
  · exact w.thread_modThread_of_ne h _
  · split <;> exact w.thread_modThread_of_ne h _

/-- A lane that lands stands at its run start: stopped, in a subgroup that stands there, or in one of its own. -/
theorem Warp.standsAt_land (w : Warp) (draw : Nat) {l : Nat} (pc : W64) (af : List Nat) (h32 : l < 32)
    (hl : l < w.thr.length) : (w.land draw l pc af).standsAt l pc := by
  have hbit : hasLane (laneBit l) l = true := by simp [hasLane_laneBit, h32]
  unfold Warp.land; dsimp only; split
  · refine .inr ?_
    change ((w.modThread l _).thread l).st = _
    rw [thread_modThread, if_pos ⟨rfl, hl⟩]
  · split
    next g hg =>
      have hs : g.startsAt pc = true := by
        have := List.find?_some hg
        simp only [Bool.and_eq_true] at this
        exact this.1.1.2
      refine .inl ⟨_, List.mem_map_of_mem (List.mem_of_find?_eq_some hg), ?_⟩
      rw [if_pos (beq_self_eq_true g.gid)]
      exact ⟨by rw [hasLane_or, hbit, Bool.or_true], hs⟩
    next => exact .inl ⟨_, List.mem_append_right _ (List.mem_singleton_self _), hbit, by simp [Group.startsAt]⟩

/-- Lanes outside a list that lands stay as they were. -/
theorem Warp.thread_landAll_of_notMem (draw : Nat) (dest : Nat → W64) (af : List Nat) (ls : List Nat) (w : Warp) {k : Nat}
    (h : k ∉ ls) : (w.landAll draw (ls.map (fun l => (l, dest l))) af).thread k = w.thread k := by
  induction ls generalizing w with
  | nil => rfl
  | cons x xs ih =>
    obtain ⟨hx, hxs⟩ := not_or.1 (mt List.mem_cons.2 h)
    exact (ih (w.land draw x (dest x) af) hxs).trans (w.thread_land_of_ne draw _ af hx)

theorem Warp.groupsGrow_landAll (draw : Nat) (ts : List (Nat × W64)) (af : List Nat) (w : Warp) :
    w.GroupsGrow (w.landAll draw ts af) := by
  induction ts generalizing w with
  | nil => exact groupsGrow_of_subset (List.Subset.refl _)
  | cons x xs ih =>
    intro g hg
    obtain ⟨a, ha, hpa, hwa, hla⟩ := w.groupsGrow_land draw x.1 x.2 af g hg
    obtain ⟨b, hb, hpb, hwb, hlb⟩ := ih (w.land draw x.1 x.2 af) a ha
    exact ⟨b, hb, hpb.trans hpa, hwb.trans hwa, fun l hl => hlb l (hla l hl)⟩

/-- Each lane of a list comes to stand at its own destination. -/
theorem Warp.standsAt_landAll (draw : Nat) (dest : Nat → W64) (af : List Nat) (ls : List Nat) (hd : ls.Nodup) (w : Warp)
    {l : Nat} (hl : l ∈ ls) (h32 : l < 32) (hlen : l < w.thr.length) :
    (w.landAll draw (ls.map (fun l => (l, dest l))) af).standsAt l (dest l) := by
  induction ls generalizing w with
  | nil => exact absurd hl List.not_mem_nil
  | cons x xs ih =>
    obtain ⟨hx, hxs⟩ := List.nodup_cons.1 hd
    rcases List.mem_cons.1 hl with rfl | hl'
    · exact (w.standsAt_land draw (dest l) af h32 hlen).grow (groupsGrow_landAll draw _ af _)
        (thread_landAll_of_notMem _ _ _ _ _ hx)
    · exact ih hxs (w.land draw x (dest x) af) hl' (by rwa [thr_length_land])

/-- No subgroup of the warp has a lane of the mask. -/
def Warp.Free (w : Warp) (m : LMask) : Prop := ∀ g ∈ w.groups, g.mask &&& m = 0

theorem and_eq_zero_iff_lanes {a b : LMask} : a &&& b = 0 ↔ ∀ l, hasLane a l → hasLane b l = false := by
  constructor
  · intro h l ha
    have := hasLane_and a b l
    rw [h, ha, Bool.true_and] at this
    rw [← this]; simp [hasLane]
  · intro h
    refine BitVec.eq_of_getLsbD_eq fun l _ => ?_
    simp only [BitVec.getLsbD_and, BitVec.ofNat_eq_ofNat, BitVec.getLsbD_zero]
    cases ha : a.getLsbD l with
    | false => rfl
    | true => exact h l ha

theorem Warp.Free.land {w : Warp} {m : LMask} (h : w.Free m) (draw : Nat) {l : Nat} (hl : hasLane m l = false) (pc : W64)
    (af : List Nat) : (w.land draw l pc af).Free m := by
  have hbit : laneBit l &&& m = 0 := and_eq_zero_iff_lanes.2 fun k hk => by
    have : l = k := by simp only [hasLane_laneBit, Bool.and_eq_true, decide_eq_true_eq] at hk; exact hk.1
    exact this ▸ hl
  unfold Warp.land; dsimp only; split
  · exact h
  · split
    · intro g hg
      obtain ⟨k, hk, rfl⟩ := List.mem_map.1 hg
      have hkm := h k hk
      split
      · dsimp only; rw [BitVec.and_or_distrib_right, hkm, hbit]; rfl
      · exact hkm
    · intro g hg
      rcases List.mem_append.1 hg with hg | hg
      · exact h g hg
      · rw [List.mem_singleton.1 hg]; exact hbit

theorem Warp.Free.landAll {m : LMask} (draw : Nat) (ts : List (Nat × W64)) (hts : ∀ x ∈ ts, hasLane m x.1 = false)
    (af : List Nat) {w : Warp} (h : w.Free m) : (w.landAll draw ts af).Free m := by
  induction ts generalizing w with
  | nil => exact h
  | cons x xs ih =>
    exact ih (fun y hy => hts y (List.mem_cons_of_mem _ hy)) (h.land draw (hts x List.mem_cons_self) x.2 af)

end Sys2Proof.Machine
end

section
/-! What taking a precise trap leaves (R438, R22, R472). -/

namespace Sys2Proof.Machine

/-- The kind of the trap that a list holds for a lane. -/
def Traps.kind (ts : Traps) (l : Nat) : Option Kind := (ts.find? (fun x => x.1 == l)).map (·.2)

theorem Traps.kind_isSome (ts : Traps) (l : Nat) : (ts.kind l).isSome = ts.any (fun x => x.1 == l) := by
  rw [kind, Option.isSome_map, List.isSome_find?]

theorem maskOf_hasLane (m : LMask) : maskOf (hasLane m) = m := by
  refine BitVec.eq_of_getLsbD_eq fun l hl => ?_
  exact (hasLane_maskOf _ _).trans (by rw [decide_eq_true hl, Bool.true_and]; rfl)

theorem takes_kind (ts : Traps) : takes ts.kind = trapMask ts := by
  rw [takes, trapMask]
  congr 1
  exact funext ts.kind_isSome

theorem Traps.kind_lanes (m : LMask) (k : Kind) (l : Nat) :
    Traps.kind ((lanesOf m).map (fun l => (l, k))) l = if hasLane m l then some k else none := by
  cases hl : hasLane m l with
  | true =>
    have hk : (Traps.kind ((lanesOf m).map (fun l => (l, k))) l).isSome = true := by
      rw [kind_isSome, List.any_eq_true]
      exact ⟨(l, k), List.mem_map_of_mem (mem_lanesOf.2 hl), beq_self_eq_true l⟩
    obtain ⟨x, hx⟩ := Option.isSome_iff_exists.1 hk
    obtain ⟨y, hy, rfl⟩ := Option.map_eq_some_iff.1 hx
    obtain ⟨j, -, rfl⟩ := List.mem_map.1 (List.mem_of_find?_eq_some hy)
    exact hx
  | false =>
    refine Option.not_isSome_iff_eq_none.1 fun hk => ?_
    rw [kind_isSome, List.any_eq_true] at hk
    obtain ⟨x, hx, he⟩ := hk
    obtain ⟨j, hj, rfl⟩ := List.mem_map.1 hx
    rw [← beq_iff_eq.1 he, mem_lanesOf.1 hj] at hl
    cases hl

theorem trapMask_lanes (m : LMask) (k : Kind) : trapMask ((lanesOf m).map (fun l => (l, k))) = m := by
  rw [← takes_kind, takes]
  calc maskOf (fun l => (Traps.kind ((lanesOf m).map (fun l => (l, k))) l).isSome)
      = maskOf (hasLane m) := by
        congr 1; funext l
        rw [Traps.kind_lanes]
        cases hasLane m l <;> rfl
    _ = m := maskOf_hasLane m

/-- What a trap makes of a lane that it takes. -/
def parkThread (p : Pos) (rid : Nat) (r : TrapRec) (t : Thread) : Thread :=
  { t with st := .parked p rid, trec := if t.depth then t.trec else some r }

/-- The warp of a trap event: the lanes that trap are in no subgroup, and the event waits to be vectored. -/
def Warp.trapped (w : Warp) (p : Pos) (f : Fetched) (code : BitVec 16) (ts : Traps) : Warp :=
  let m := trapMask ts
  let rid := ((w.groups.find? (fun g => hasLane g.mask (lowLane m))).map (·.runId)).getD 0
  let v := (w.leaveAll m).modLanes m (fun l => parkThread p rid ⟨(ts.kind l).getD .illegal, f.pc, code, f.word, m⟩)
  { v with events := v.events ++ [⟨m, false⟩] }

theorem Warp.trapped_groups (w : Warp) (p : Pos) (f : Fetched) (code : BitVec 16) (ts : Traps) :
    (w.trapped p f code ts).groups = (w.leaveAll (trapMask ts)).groups := by
  unfold trapped; dsimp only; rw [modLanes_thr]

theorem Warp.trapped_rest (w : Warp) (p : Pos) (f : Fetched) (code : BitVec 16) (ts : Traps) :
    w.trapped p f code ts = { w with
      thr := (w.trapped p f code ts).thr, groups := (w.trapped p f code ts).groups
      nextGid := (w.trapped p f code ts).nextGid, parkDue := (w.trapped p f code ts).parkDue
      events := w.events ++ [⟨trapMask ts, false⟩] } := by
  unfold trapped; dsimp only; rw [modLanes_thr]; rfl

theorem Warp.thr_length_modLanes (w : Warp) (m : LMask) (f : Nat → Thread → Thread) :
    (w.modLanes m f).thr.length = w.thr.length := by
  unfold modLanes
  induction lanesOf m generalizing w with
  | nil => rfl
  | cons x xs ih => rw [List.foldl_cons, ih, thr_modThread]

theorem Warp.trapped_thr_length (w : Warp) (p : Pos) (f : Fetched) (code : BitVec 16) (ts : Traps) :
    (w.trapped p f code ts).thr.length = w.thr.length := thr_length_modLanes (w.leaveAll (trapMask ts)) _ _

theorem Warp.trapped_thread (w : Warp) (p : Pos) (f : Fetched) (code : BitVec 16) (ts : Traps) :
    ∃ rid, ∀ l, l < w.thr.length → (w.trapped p f code ts).thread l =
      if hasLane (trapMask ts) l then
        parkThread p rid ⟨(ts.kind l).getD .illegal, f.pc, code, f.word, trapMask ts⟩ (w.thread l)
      else w.thread l :=
  ⟨_, fun l hl => (w.leaveAll (trapMask ts)).thread_modLanes (trapMask ts) _ l hl⟩

theorem Warp.free_leaveAll (w : Warp) (m : LMask) : (w.leaveAll m).Free m := by
  intro g hg
  obtain ⟨k, -, rfl⟩ := List.mem_map.1 (List.mem_filter.1 hg).1
  refine and_eq_zero_iff_lanes.2 fun l hl => ?_
  rw [hasLane_and_not, Bool.and_eq_true, Bool.not_eq_true'] at hl
  exact hl.2

/-- A subgroup keeps its name and its place when lanes leave it, while it has one left. -/
theorem Warp.group?_leaveAll {w : Warp} {gid : Nat} {g : Group} {m : LMask} (h : w.group? gid = some g)
    (hm : g.mask &&& ~~~m ≠ 0) : (w.leaveAll m).group? gid = some { g with mask := g.mask &&& ~~~m } := by
  unfold group? at h
  dsimp only [group?, leaveAll]
  generalize w.groups = gs at h ⊢
  induction gs with
  | nil => cases h
  | cons x xs ih =>
    rw [List.find?_cons] at h
    rw [List.map_cons, List.filter_cons]
    cases hx : x.gid == gid with
    | true =>
      rw [hx] at h
      obtain rfl := Option.some.inj h
      rw [if_pos (bne_iff_ne.2 hm), List.find?_cons]
      simp only [hx]
    | false =>
      rw [hx] at h
      split
      · rw [List.find?_cons]
        simp only [hx]
        exact ih h
      · exact ih h

theorem Warp.group?_trapped {w : Warp} {gid : Nat} {g : Group} {ts : Traps} (h : w.group? gid = some g)
    (hm : g.mask &&& ~~~trapMask ts ≠ 0) (p : Pos) (f : Fetched) (code : BitVec 16) :
    (w.trapped p f code ts).group? gid = some { g with mask := g.mask &&& ~~~trapMask ts } := by
  rw [group?, trapped_groups]
  exact group?_leaveAll h hm

theorem State.count_rest (s : State) (core n k : Nat) : s.count core n k = { s with cores := (s.count core n k).cores } := by
  unfold State.count
  split
  · split <;> rfl
  · rfl

theorem State.count_modWarp (s : State) (i : Nat) (f : Warp → Warp) (core n k : Nat) :
    (s.modWarp i f).count core n k = (s.count core n k).modWarp i f := by
  have hcore : (s.modWarp i f).core core = s.core core := rfl
  have hctx : ∀ x, (s.modWarp i f).ctx x = s.ctx x := fun _ => rfl
  cases hc : (s.core core).ctx with
  | none => simp only [State.count, hcore, hc]
  | some x =>
    simp only [State.count, hcore, hctx, hc]
    split <;> rfl

theorem killBlock_rest (s : State) (b : Nat) (k : KillInfo) :
    killBlock s b k = { s with blocks := (killBlock s b k).blocks } := by
  unfold killBlock; dsimp only; split <;> rfl

/-- A block that is killed is marked, whether or not its cluster goes with it. -/
theorem killBlock_kill (s : State) (b : Nat) (k : KillInfo) (hb : b < s.blocks.length) :
    ((killBlock s b k).block b).kill ≠ none := by
  have h1 : ((s.modBlock b (fun x => if x.kill.isSome then x else { x with kill := some k })).block b).kill ≠ none := by
    rw [State.block_modBlock, if_pos ⟨rfl, hb⟩]
    split
    next h => exact Option.isSome_iff_ne_none.1 h
    next => exact Option.some_ne_none k
  unfold killBlock; dsimp only; split
  · exact h1
  · have hb' : b < (s.modBlock b (fun x => if x.kill.isSome then x else { x with kill := some k })).blocks.length := by
      simpa [State.modBlock] using hb
    rw [State.block, List.getD_eq_getElem _ _ hb'] at h1
    rw [State.block, List.getD_eq_getElem _ _ (by simpa using hb'), List.getElem_map]
    split
    · exact Option.some_ne_none _
    · exact h1

/-- A trap event is unrecoverable (R472): at trap depth 1, or without a handler. -/
def Unrecoverable (s : State) (w : Warp) (m : LMask) : Prop :=
  ¬ ((s.launch (s.block w.block).launch).hen = true ∧ w.deep &&& m = 0)

/-- Taking a trap parks the lanes, counts the event, and kills the block where the trap is unrecoverable. -/
theorem takeTrap_cases (s : State) (wid : Nat) (p : Pos) (f : Fetched) (code : BitVec 16) {ts : Traps} (hts : ts ≠ []) :
    let u := (s.modWarp wid (fun _ => (s.warp wid).trapped p f code ts)).count (s.warp wid).core 31 1
    (Unrecoverable s (s.warp wid) (trapMask ts) ∧ ∃ k, takeTrap s wid p f code ts = killBlock u (s.warp wid).block k) ∨
      (¬ Unrecoverable s (s.warp wid) (trapMask ts) ∧ takeTrap s wid p f code ts = u) := by
  have he : ¬ ts.isEmpty = true := by simpa using hts
  have hu : (decide ((s.warp wid).deep &&& trapMask ts ≠ 0) || !(s.launch (s.block (s.warp wid).block).launch).hen) = true ↔
      Unrecoverable s (s.warp wid) (trapMask ts) := by
    unfold Unrecoverable
    cases (s.launch (s.block (s.warp wid).block).launch).hen <;> simp
  rw [takeTrap, if_neg he]
  dsimp only
  by_cases h : Unrecoverable s (s.warp wid) (trapMask ts)
  · exact .inl ⟨h, _, if_pos (hu.2 h)⟩
  · exact .inr ⟨h, if_neg (mt hu.1 h)⟩

/-- But for blocks, a trap event parks its lanes in its warp and is counted. -/
theorem takeTrap_rest (s : State) (wid : Nat) (p : Pos) (f : Fetched) (code : BitVec 16) {ts : Traps} (hts : ts ≠ []) :
    takeTrap s wid p f code ts = { s.modWarp wid (fun _ => (s.warp wid).trapped p f code ts) with
      cores := (s.count (s.warp wid).core 31 1).cores, blocks := (takeTrap s wid p f code ts).blocks } := by
  rcases takeTrap_cases s wid p f code hts with ⟨-, k, e⟩ | ⟨-, e⟩
  · rw [e, killBlock_rest, State.count_modWarp, State.count_rest]; rfl
  · rw [e, State.count_modWarp, State.count_rest]; rfl

theorem takeTrap_warp (s : State) (wid : Nat) (p : Pos) (f : Fetched) (code : BitVec 16) {ts : Traps} (hts : ts ≠ [])
    (hw : wid < s.warps.length) : (takeTrap s wid p f code ts).warp wid = (s.warp wid).trapped p f code ts := by
  rw [takeTrap_rest s wid p f code hts]
  exact (s.warp_modWarp wid wid _).trans (if_pos ⟨rfl, hw⟩)

theorem takeTrap_warps_length (s : State) (wid : Nat) (p : Pos) (f : Fetched) (code : BitVec 16) (ts : Traps) :
    (takeTrap s wid p f code ts).warps.length = s.warps.length := by
  by_cases hts : ts = []
  · rw [hts]; rfl
  · rw [takeTrap_rest s wid p f code hts]
    exact List.length_modify _ _ _

/-- The issuing warp is there with its 32 lanes, and the subgroup, the core and the block are those that the instruction
saw. -/
structure IssuesFrom (s : State) (c : Cx) : Prop where
  warp : c.iss.warp < s.warps.length
  lanes : (s.warp c.iss.warp).thr.length = 32
  group : (s.warp c.iss.warp).group? c.g.gid = some c.g
  core : c.w.core = (s.warp c.iss.warp).core
  block : c.w.block = (s.warp c.iss.warp).block

theorem Goes.issuesFrom {i : Instr} {s : State} {c : Cx} (h : Goes i s c) : IssuesFrom s c := by
  obtain ⟨-, -, hcw, -⟩ := gate_go h.gate
  exact ⟨h.warp, h.lanes, h.gid ▸ h.group, by rw [hcw, Warp.seen_core], by rw [hcw, Warp.seen_block]⟩

/-- Taking a precise trap at the instruction of a slot leaves what the claims say of one. -/
theorem takeTrap_trapped {s : State} {c : Cx} (hs : IssuesFrom s c) (code : BitVec 16) {ts : Traps} (hts : ts ≠ []) :
    Trapped c code ts.kind s (takeTrap s c.iss.warp c.g.pos c.iss.f code ts) := by
  obtain ⟨hw, hlen, -, hcore, hblock⟩ := hs
  obtain ⟨t, ht⟩ : ∃ t, t = takeTrap s c.iss.warp c.g.pos c.iss.f code ts := ⟨_, rfl⟩
  have hrest := takeTrap_rest s c.iss.warp c.g.pos c.iss.f code hts
  have hwarp := takeTrap_warp s c.iss.warp c.g.pos c.iss.f code hts hw
  rw [← ht] at hrest hwarp ⊢
  obtain ⟨rid, hthread⟩ := (s.warp c.iss.warp).trapped_thread c.g.pos c.iss.f code ts
  have hparked : ∀ l k, l < 32 → ts.kind l = some k → t.lane c l =
      parkThread c.g.pos rid ⟨k, c.iss.f.pc, code, c.iss.f.word, trapMask ts⟩ (s.lane c l) := by
    intro l k hl hk
    have hm : hasLane (trapMask ts) l = true := by
      rw [trapMask, hasLane_maskOf, ← Traps.kind_isSome, hk, decide_eq_true hl]; rfl
    rw [State.lane, hwarp, hthread l (hl.trans_eq hlen.symm), if_pos hm, hk]; rfl
  have hun : Unrecoverable s (s.warp c.iss.warp) (trapMask ts) ↔
      ¬ ((s.launch (s.block c.w.block).launch).hen = true ∧ (s.warp c.iss.warp).deep &&& takes ts.kind = 0) := by
    rw [Unrecoverable, hblock, takes_kind]
  have hcases := takeTrap_cases s c.iss.warp c.g.pos c.iss.f code hts
  rw [← ht, State.count_modWarp, State.count_rest] at hcases
  constructor
  case rest => rw [hrest]; rfl
  case others =>
    intro j hj
    rw [hrest]
    exact (s.only_modWarp c.iss.warp _).others j hj
  case warp =>
    rw [hwarp, takes_kind]
    exact (s.warp c.iss.warp).trapped_rest c.g.pos c.iss.f code ts
  case cores => rw [hrest, hcore]
  case parks => exact fun l k hl hk => ⟨rid, by rw [hparked l k hl hk]; rfl⟩
  case records =>
    intro l k hl hk hd
    rw [hparked l k hl hk, takes_kind, parkThread, hd]; rfl
  case latches => exact fun l k hl hk => by rw [hparked l k hl hk]; rfl
  case leaves =>
    rw [hwarp, Warp.trapped_groups, takes_kind]
    exact Warp.free_leaveAll _ _
  case vectors =>
    intro hen hdeep
    rcases hcases with ⟨h, -⟩ | ⟨-, e⟩
    · exact absurd ⟨hen, hdeep⟩ (hun.1 h)
    · rw [e]; rfl
  case ends =>
    intro hb hn
    rcases hcases with ⟨-, k, e⟩ | ⟨h, -⟩
    · rw [e, ← hblock]; exact killBlock_kill _ _ _ hb
    · exact absurd (hun.2 hn) h

theorem Trapped.regs {c : Cx} {code : BitVec 16} {ks : Nat → Option Kind} {s t : State} (h : Trapped c code ks s t) :
    t.regs c = s.regs c := by rw [State.regs, h.warp]; rfl

/-- What a trap leaves, it still leaves when the other lanes of the warp move on. -/
theorem Trapped.moved {c : Cx} {code : BitVec 16} {ks : Nat → Option Kind} {s t u : State} (h : Trapped c code ks s t)
    (rest : u = { t with warps := u.warps, ctr := u.ctr, iss := u.iss })
    (others : ∀ j, j ≠ c.iss.warp → u.warps[j]? = t.warps[j]?) (warp : (t.warp c.iss.warp).Moved (u.warp c.iss.warp))
    (lanes : ∀ l, hasLane (takes ks) l → u.lane c l = t.lane c l) (free : (u.warp c.iss.warp).Free (takes ks)) :
    Trapped c code ks s u := by
  have hlane : ∀ l k, l < 32 → ks l = some k → u.lane c l = t.lane c l := fun l k hl hk =>
    lanes l (by rw [takes, hasLane_maskOf, hk, decide_eq_true hl]; rfl)
  have hblocks : u.blocks = t.blocks := by rw [rest]
  constructor
  case rest => rw [rest, h.rest]
  case others => exact fun j hj => (others j hj).trans (h.others j hj)
  case warp =>
    dsimp only
    rw [Warp.Moved] at warp
    rw [warp, h.warp]
  case cores => rw [rest]; exact h.cores
  case parks => exact fun l k hl hk => hlane l k hl hk ▸ h.parks l k hl hk
  case records => exact fun l k hl hk => hlane l k hl hk ▸ h.records l k hl hk
  case latches => exact fun l k hl hk => hlane l k hl hk ▸ h.latches l k hl hk
  case leaves => exact free
  case vectors => exact fun hen hdeep => hblocks.trans (h.vectors hen hdeep)
  case ends =>
    intro hb hn
    rw [State.block_of hblocks]
    exact h.ends hb hn

/-! ### A trap of one kind in the lanes of a mask -/

theorem trapLanes_zero (s : State) (c : Cx) (k : Kind) : trapLanes s c 0 k = s := by
  rw [trapLanes, lanes_zero]; rfl

variable {s : State} {c : Cx} {m : LMask}

theorem lanesOf_map_ne_nil (hm : m ≠ 0) (k : Kind) : (lanesOf m).map (fun l => (l, k)) ≠ [] :=
  mt List.map_eq_nil_iff.1 (lanes_ne m hm)

theorem trapLanes_trapped (hs : IssuesFrom s c) (hm : m ≠ 0) (k : Kind) :
    Trapped c 0 (fun l => if hasLane m l then some k else none) s (trapLanes s c m k) := by
  rw [← funext (Traps.kind_lanes m k)]
  exact takeTrap_trapped hs 0 (lanesOf_map_ne_nil hm k)

theorem trapLanes_warps_length (s : State) (c : Cx) (m : LMask) (k : Kind) :
    (trapLanes s c m k).warps.length = s.warps.length := takeTrap_warps_length ..

theorem trapLanes_thr_length (hs : IssuesFrom s c) (hm : m ≠ 0) (k : Kind) :
    ((trapLanes s c m k).warp c.iss.warp).thr.length = 32 := by
  rw [trapLanes, takeTrap_warp _ _ _ _ _ (lanesOf_map_ne_nil hm k) hs.warp, Warp.trapped_thr_length, hs.lanes]

/-- The subgroup keeps its lanes that do not trap, while there is one. -/
theorem trapLanes_group? (hs : IssuesFrom s c) (hm : m ≠ 0) (k : Kind) (hleft : c.g.mask &&& ~~~m ≠ 0) :
    ((trapLanes s c m k).warp c.iss.warp).group? c.g.gid = some { c.g with mask := c.g.mask &&& ~~~m } := by
  have hmask := trapMask_lanes m k
  rw [trapLanes, takeTrap_warp _ _ _ _ _ (lanesOf_map_ne_nil hm k) hs.warp,
    Warp.group?_trapped hs.group (by rwa [hmask]), hmask]

end Sys2Proof.Machine
end

section
/-! What writing results leaves before the instruction goes on: the claims' frame, and the values in the destination. -/

namespace Sys2Proof.Machine

/-- The state with another counter of free values. -/
def State.withCtr (s : State) (k : Nat) : State := { s with ctr := k }

/-- Writing results changes the issuing warp in what an instruction may write, and moves no subgroup. -/
theorem writeRes_ran (c : Cx) (t : Option Ty) (n : Nat) (vs : List (Nat × Nat)) {s : State} (h : c.iss.warp < s.warps.length) :
    (s.warp c.iss.warp).Ran ((writeRes c t n vs s).warp c.iss.warp) ∧
      ((writeRes c t n vs s).warp c.iss.warp).groups = (s.warp c.iss.warp).groups := by
  by_cases hv : vs = []
  · rw [hv, writeRes_nil]; exact ⟨.refl _, rfl⟩
  · exact (warp_writeRes c t n vs s h hv).2

theorem writeRes_thr_length (c : Cx) (t : Option Ty) (n : Nat) (vs : List (Nat × Nat)) {s : State}
    (h : c.iss.warp < s.warps.length) :
    ((writeRes c t n vs s).warp c.iss.warp).thr.length = (s.warp c.iss.warp).thr.length := by
  rcases thr_writeRes c t n vs s h with ⟨-, e⟩ | ⟨lt, -, e⟩
  · rw [e]
  · rw [e, Warp.thr_latchLanes]

/-- An instruction with neither a destination nor a latch has nothing to write. -/
theorem writeRes_of_dst_none {c : Cx} (hdst : c.p.dst = .none) (hlt : c.p.lt = none) (t : Option Ty) (n : Nat)
    (vs : List (Nat × Nat)) (s : State) : ∃ k, writeRes c t n vs s = s.withCtr k := by
  by_cases hv : vs.isEmpty = true
  · exact ⟨s.ctr, if_pos hv⟩
  · have hnew : newRegs c = [] := by simp [newRegs, Shape.writes, hdst]
    have hid : s.modIss c (fun w => w) = s := modIss_id s c _ (fun _ => rfl)
    refine ⟨s.ctr + 1, ?_⟩
    rw [writeRes, if_neg hv, State.allocate, if_pos hnew, hlt, hdst]
    simp only [ite_self, hid]
    rfl

/-- Writing in fewer lanes is writing as an instruction that is active in those alone. -/
theorem writeRes_act {c : Cx} {m : LMask} (hm : m ≠ 0 → c.act ≠ 0) (t : Option Ty) (n : Nat) (v : Nat → Nat) (s : State) :
    writeRes { c with act := m } t n ((lanesOf m).map (fun l => (l, v l))) s =
      writeRes c t n ((lanesOf m).map (fun l => (l, v l))) s := by
  by_cases h0 : m = 0
  · rw [h0, lanes_zero]; rfl
  · have hnew : newRegs { c with act := m } = newRegs c := by
      rw [newRegs, newRegs, if_neg h0, if_neg (hm h0)]
    have halloc : s.allocate { c with act := m } = s.allocate c := by
      rw [State.allocate, State.allocate, hnew]
    rw [writeRes, writeRes, halloc]
    rfl

/-- The frame does not depend on which lanes are active. -/
theorem Frame.of_act {c : Cx} {m : LMask} {s t : State} (h : Frame { c with act := m } s t) : Frame c s t :=
  ⟨h.rest, h.others, h.warp, h.pool, h.vregs, h.preds, h.sregs, h.recs, h.fpctl⟩

theorem Frame.withCtr {c : Cx} {s t : State} (h : Frame c s t) (k : Nat) : Frame c s (t.withCtr k) := by
  refine ⟨?_, h.others, h.warp, h.pool, h.vregs, h.preds, h.sregs, h.recs, h.fpctl⟩
  rw [State.withCtr, h.rest]

/-- Going on changes nothing that the frame speaks of, so the frame held before. -/
theorem Frame.of_done {c : Cx} {s u : State} (h : Frame c s (u.done c)) (ho : State.Only c.iss.warp s u)
    (hran : (s.warp c.iss.warp).Ran (u.warp c.iss.warp)) (hw : c.iss.warp < u.warps.length) : Frame c s u := by
  have hregs : (u.done c).regs c = freeLast c (u.regs c) := (warp_done c u hw).1
  obtain ⟨hpred, hsget, hb, hfpctl⟩ := freeLast_rest c (u.regs c)
  rw [← hregs] at hpred hsget hb hfpctl
  refine ⟨ho.rest, ho.others, hran, h.pool, fun r l hl hr hf => ?_, fun q hq => (hpred q).symm.trans (h.preds q hq),
    fun n hn => (hsget n).symm.trans (h.sregs n hn), hb.symm.trans h.recs, hfpctl.symm.trans h.fpctl⟩
  rw [← h.vregs r l hl hr hf, hregs, vget_freeLast c _ r l hl hf]

/-- What a destination holds behind an instruction that goes on, it held before: the instruction does not free it. -/
theorem Holds.of_done {c : Cx} {u t : State} {l x : Nat} (h : Holds c (u.done c) l x) (hd : c.p.d = false) (hl : l < 32)
    (hw : c.iss.warp < u.warps.length) (ht : t.regs c = u.regs c) : Holds c t l x := by
  unfold Holds at h ⊢
  rw [(warp_done c u hw).1] at h
  rw [ht]
  cases hdst : c.p.dst with
  | none => trivial
  | s => trivial
  | v r n =>
    rw [hdst] at h
    intro k hk
    have hwr : r + k ∈ c.p.writes := (writes_v hd hdst _).2 (by omega)
    rw [← h k hk, vget_freeLast c _ _ l hl fun hf => hf.2.2 hwr]
  | q r =>
    rw [hdst] at h
    intro hr
    rw [← h hr, (freeLast_rest c _).1]

/-- Results that stand behind an instruction that ends its run stand there wherever its lanes go. -/
theorem Results.moved {c : Cx} {ty : Option Ty} {n : Nat} {val : Nat → Res} {s t u : State} (h : Results c ty n val s t)
    (he : c.iss.f.ends = true) (rest : u = { t with warps := u.warps, ctr := u.ctr, iss := u.iss })
    (others : ∀ j, j ≠ c.iss.warp → u.warps[j]? = t.warps[j]?) (warp : (t.warp c.iss.warp).Moved (u.warp c.iss.warp))
    (flags : ∀ l, (u.lane c l).fpstat = (t.lane c l).fpstat) : Results c ty n val s u := by
  have hregs : u.regs c = t.regs c := warp.rf
  have hcores : u.cores = t.cores := by rw [rest]
  obtain ⟨hf, hdest, hidle, huni, -, hflags⟩ := h
  constructor
  case frame =>
    refine ⟨by rw [rest, hf.rest], fun j hj => (others j hj).trans (hf.others j hj), ?_, hcores ▸ hf.pool, hregs ▸ hf.vregs,
      hregs ▸ hf.preds, hregs ▸ hf.sregs, hregs ▸ hf.recs, hregs ▸ hf.fpctl⟩
    exact (show (s.warp c.iss.warp).Ran (t.warp c.iss.warp) from hf.warp).trans warp.ran
  case dest =>
    unfold Holds at hdest ⊢
    rwa [hregs]
  case idle =>
    unfold Keeps at hidle ⊢
    rwa [hregs]
  case uniform => rwa [hregs]
  case latch => exact fun he' => nomatch he.symm.trans he'
  case flags => exact fun l hl => (flags l).trans (hflags l hl)

end Sys2Proof.Machine
end

section
/-! Branches, calls and returns (R145 to R147): where each lane of the subgroup goes, and what a lane with an odd target
leaves. -/

namespace Sys2Proof.Machine

/-- Where a branch sends a lane of its subgroup. -/
def branchDest (c : Cx) (tgt : Nat → W64) (l : Nat) : W64 := if hasLane c.act l then tgt l else c.iss.f.next

/-- The lanes that the issuing subgroup still has leave it, each for its own destination. -/
def Warp.disperse (w : Warp) (draw : Nat) (c : Cx) (dest : Nat → W64) : Warp :=
  (w.leave c.g.gid (w.group c.g.gid).mask).landAll draw ((lanesOf (w.group c.g.gid).mask).map (fun l => (l, dest l)))
    (w.awaited c.g.runId)

theorem Warp.moved_disperse (w : Warp) (draw : Nat) (c : Cx) (dest : Nat → W64) : w.Moved (w.disperse draw c dest) :=
  (w.moved_leave _ _).trans (moved_landAll _ _ _ _)

theorem Warp.fpstat_disperse (w : Warp) (draw : Nat) (c : Cx) (dest : Nat → W64) (l : Nat) :
    ((w.disperse draw c dest).thread l).fpstat = (w.thread l).fpstat := fpstat_landAll ..

theorem Warp.standsAt_disperse (w : Warp) (draw : Nat) (c : Cx) (dest : Nat → W64) {l : Nat} (hlen : w.thr.length = 32)
    {g : Group} (hg : w.group? c.g.gid = some g) (hl : hasLane g.mask l) : (w.disperse draw c dest).standsAt l (dest l) := by
  rw [disperse, group, hg]
  exact standsAt_landAll draw dest _ _ (lanesOf_nodup _) _ (mem_lanesOf.2 hl) (hasLane_lt hl) ((hasLane_lt hl).trans_eq hlen.symm)

/-- Lanes that are in no subgroup stay where they are, and stay in none. -/
theorem Warp.Free.disperse {w : Warp} {m : LMask} (h : w.Free m) (draw : Nat) (c : Cx) (dest : Nat → W64) :
    (w.disperse draw c dest).Free m ∧ ∀ l, hasLane m l → (w.disperse draw c dest).thread l = w.thread l := by
  have hgroup : (w.group c.g.gid).mask &&& m = 0 := by
    unfold group
    cases hg : w.group? c.g.gid with
    | none => exact BitVec.zero_and
    | some g => exact h g (List.mem_of_find?_eq_some hg)
  have hout := and_eq_zero_iff_lanes.1 hgroup
  constructor
  · refine Free.landAll draw _ (fun x hx => ?_) _ fun g hg => ?_
    · obtain ⟨l, hl, rfl⟩ := List.mem_map.1 hx
      exact hout l (mem_lanesOf.1 hl)
    · obtain ⟨k, hk, rfl⟩ := List.mem_map.1 (List.mem_filter.1 hg).1
      have hkm := and_eq_zero_iff_lanes.1 (h k hk)
      split
      · refine and_eq_zero_iff_lanes.2 fun l hl => hkm l ?_
        rw [hasLane_and, Bool.and_eq_true] at hl
        exact hl.1
      · exact h k hk
  · intro l hl
    refine thread_landAll_of_notMem draw dest _ _ _ fun hm => ?_
    rw [hout l (mem_lanesOf.1 hm)] at hl
    cases hl

theorem hasLane_oddLanes (c : Cx) (tgt : Nat → W64) (l : Nat) :
    hasLane (oddLanes c tgt) l = (hasLane c.act l && (tgt l).getLsbD 0) := by
  rw [oddLanes, hasLane_maskOf]
  cases ha : hasLane c.act l with
  | false => rw [Bool.false_and, Bool.and_false]
  | true => rw [decide_eq_true (hasLane_lt ha), Bool.true_and]

/-- With no odd target the branch frees its last reads and its lanes go. -/
theorem State.goTo_of_even {c : Cx} {tgt : Nat → W64} (h : oddLanes c tgt = 0) (s : State) :
    s.goTo c tgt = ((s.modIss c (fun w =>
      ({ w with rf := freeLast c w.rf } : Warp).disperse s.ctr c (branchDest c tgt))).bump.out .issued) := by
  rw [State.goTo, h, trapLanes_zero]
  rfl

/-- Lanes with an odd target trap, nothing is freed, and the others go. -/
theorem State.goTo_of_odd {c : Cx} {tgt : Nat → W64} (h : oddLanes c tgt ≠ 0) (s : State) :
    s.goTo c tgt = (((trapLanes s c (oddLanes c tgt) .illegal).modIss c (fun w =>
      w.disperse s.ctr c (branchDest c tgt))).bump.out (trapOut c (oddLanes c tgt))) := by
  rw [State.goTo]
  simp only [if_neg h]
  rfl

theorem State.warp_goTo_of_even {c : Cx} {tgt : Nat → W64} (h : oddLanes c tgt = 0) {s : State}
    (hw : c.iss.warp < s.warps.length) : (s.goTo c tgt).warp c.iss.warp =
      ({ s.warp c.iss.warp with rf := freeLast c (s.regs c) } : Warp).disperse s.ctr c (branchDest c tgt) := by
  rw [goTo_of_even h]
  exact State.regs_modIss s c _ hw

theorem State.warp_goTo_of_odd {c : Cx} {tgt : Nat → W64} (h : oddLanes c tgt ≠ 0) {s : State}
    (hw : c.iss.warp < s.warps.length) : (s.goTo c tgt).warp c.iss.warp =
      ((trapLanes s c (oddLanes c tgt) .illegal).warp c.iss.warp).disperse s.ctr c (branchDest c tgt) := by
  rw [goTo_of_odd h]
  exact State.regs_modIss _ c _ (by rwa [trapLanes_warps_length])

/-- What would stand behind an instruction that goes on stands behind a branch with no odd target. -/
theorem goTo_of_even_results {c : Cx} {tgt : Nat → W64} (h : oddLanes c tgt = 0) {ty : Option Ty} {n : Nat} {val : Nat → Res}
    {s u : State} (hu : Results c ty n val s (u.done c)) (he : c.iss.f.ends = true) (hw : c.iss.warp < u.warps.length)
    (k : Nat) : Results c ty n val s ((u.withCtr k).goTo c tgt) := by
  obtain ⟨w, hwdef⟩ : ∃ w : Warp, w = { u.warp c.iss.warp with rf := freeLast c (u.regs c) } := ⟨_, rfl⟩
  have hdone : (u.done c).warp c.iss.warp = w.advance u.ctr c.g.gid c.iss.f :=
    hwdef ▸ State.regs_modIss u c _ hw
  have hgo : ((u.withCtr k).goTo c tgt).warp c.iss.warp = w.disperse k c (branchDest c tgt) :=
    hwdef ▸ State.warp_goTo_of_even h (s := u.withCtr k) hw
  refine hu.moved he ?_ (fun j hj => ?_) ?_ fun l => ?_
  · rw [State.goTo_of_even h]; rfl
  · rw [State.goTo_of_even h]
    exact (((u.withCtr k).only_modWarp c.iss.warp _).others j hj).trans ((u.only_done c).others j hj).symm
  · rw [hdone, hgo]
    exact (w.moved_advance _ _ _).symm.trans (w.moved_disperse _ _ _)
  · rw [State.lane, State.lane, hdone, hgo, Warp.fpstat_disperse, Warp.fpstat_advance]

/-- A branch with an odd target leaves the trap of its lanes, whatever else it does. -/
theorem goTo_of_odd_trapped {c : Cx} {tgt : Nat → W64} (h : oddLanes c tgt ≠ 0) {u : State} (hu : IssuesFrom u c) :
    Trapped c 0 (fun l => if hasLane (oddLanes c tgt) l then some .illegal else none) u (u.goTo c tgt) := by
  have htrap := trapLanes_trapped hu h .illegal
  obtain ⟨hfree, hstay⟩ := Warp.Free.disperse (w := (trapLanes u c (oddLanes c tgt) .illegal).warp c.iss.warp) htrap.leaves
    u.ctr c (branchDest c tgt)
  have hgo := State.warp_goTo_of_odd h hu.warp
  refine htrap.moved ?_ (fun j hj => ?_) ?_ (fun l hl => ?_) ?_
  · rw [State.goTo_of_odd h]; rfl
  · rw [State.goTo_of_odd h]
    exact ((trapLanes u c (oddLanes c tgt) .illegal).only_modWarp c.iss.warp _).others j hj
  · rw [hgo]; exact Warp.moved_disperse _ _ _ _
  · rw [State.lane, hgo]; exact hstay l hl
  · rw [hgo]; exact hfree

/-- Every lane of the subgroup that does not trap comes to stand at its destination. -/
theorem standsAt_goTo {c : Cx} {tgt : Nat → W64} {u : State} (hu : IssuesFrom u c) {l : Nat} (hl : hasLane c.g.mask l)
    (hodd : hasLane (oddLanes c tgt) l = false) :
    ((u.goTo c tgt).warp c.iss.warp).standsAt l (branchDest c tgt l) := by
  by_cases h : oddLanes c tgt = 0
  · rw [State.warp_goTo_of_even h hu.warp]
    exact Warp.standsAt_disperse _ _ _ _ hu.lanes hu.group hl
  · have hleft : hasLane (c.g.mask &&& ~~~oddLanes c tgt) l = true := by
      rw [hasLane_and_not, hl, hodd]; rfl
    have hne : c.g.mask &&& ~~~oddLanes c tgt ≠ 0 := fun h0 => by
      rw [h0, hasLane_zero] at hleft
      cases hleft
    rw [State.warp_goTo_of_odd h hu.warp]
    exact Warp.standsAt_disperse _ _ _ _ (trapLanes_thr_length hu h .illegal) (trapLanes_group? hu h .illegal hne) hleft

end Sys2Proof.Machine
end

section
/-! The branch instructions (R145), and the return address of the calls (R146). -/

namespace Sys2Proof.Machine

theorem sind_eq_w64 (c : Cx) (a : Src) : sind c a = Values.w64 c a := by
  funext l
  rw [sind, Values.w64, src64]
  exact BitVec.eq_of_toNat_eq (by simp)

/-- The lanes of a call that hold its return address: the active ones with an even target. -/
def evenLanes (c : Cx) (tgt : Nat → W64) : LMask := c.act &&& ~~~oddLanes c tgt

theorem hasLane_evenLanes (c : Cx) (tgt : Nat → W64) (l : Nat) :
    hasLane (evenLanes c tgt) l = (hasLane c.act l && !hasLane (oddLanes c tgt) l) :=
  hasLane_and_not c.act (oddLanes c tgt) l

theorem evenLanes_of_even {c : Cx} {tgt : Nat → W64} (h : oddLanes c tgt = 0) : evenLanes c tgt = c.act := by
  rw [evenLanes, h, show ~~~(0 : LMask) = BitVec.allOnes 32 from rfl, BitVec.and_allOnes]

theorem act_ne_zero_of_evenLanes {c : Cx} {tgt : Nat → W64} (h : evenLanes c tgt ≠ 0) : c.act ≠ 0 := fun h0 =>
  h (by rw [evenLanes, h0]; exact BitVec.zero_and)

/-- The return address for each of these lanes. -/
def returnAddrs (c : Cx) (tgt : Nat → W64) : List (Nat × Nat) :=
  (lanesOf (evenLanes c tgt)).map (fun l => (l, c.iss.f.next.toNat))

/-- The state with the return address written, where the instruction has a destination. -/
def returned (c : Cx) (tgt : Nat → W64) (s : State) : State := writeRes c none 2 (returnAddrs c tgt) s

theorem exec_bra {h : Hd} {off : W32} {s : State} {c : Cx} (hg : gate s (.bra h off) = .go c) :
    exec (.bra h off) s = .next (s.goTo c (fun _ => c.iss.f.pc + off.signExtend 64)) := by
  show execBra h off s = _
  rw [execBra, runOp_go hg]; rfl

theorem exec_brx {h : Hd} {off : W32} {a : Src} {s : State} {c : Cx} (hg : gate s (.brx h off a) = .go c) :
    exec (.brx h off a) s = .next (s.goTo c (fun l => Values.w64 c a l + off.signExtend 64)) := by
  show execBrx h off a s = _
  rw [execBrx, runOp_go hg, sind_eq_w64]; rfl

theorem exec_ret {h : Hd} {a : Src} {s : State} {c : Cx} (hg : gate s (.ret h a) = .go c) :
    exec (.ret h a) s = .next (s.goTo c (fun l => Values.w64 c a l)) := by
  show execRet h a s = _
  rw [execRet, runOp_go hg, sind_eq_w64]

theorem exec_call {h : Hd} {d : Dv} {off : W32} {s : State} {c : Cx} (hg : gate s (.call h d off) = .go c) :
    exec (.call h d off) s = .next (callTo c (fun _ => c.iss.f.pc + off.signExtend 64) s) := by
  show execCall h d off s = _
  rw [execCall, runOp_go hg]; rfl

theorem exec_callInd {h : Hd} {d : Dv} {off : W32} {a : Src} {s : State} {c : Cx} (hg : gate s (.callInd h d off a) = .go c) :
    exec (.callInd h d off a) s = .next (callTo c (fun l => Values.w64 c a l + off.signExtend 64) s) := by
  show execCallInd h d off a s = _
  rw [execCallInd, runOp_go hg, sind_eq_w64]; rfl

/-- A branch writes nothing: its state is the one that writing leaves, but for the counter of the free values. -/
theorem eq_returned_of_dst_none {c : Cx} (hdst : c.p.dst = .none) (hlt : c.p.lt = none) (tgt : Nat → W64) (s : State) :
    s = (returned c tgt s).withCtr s.ctr := by
  obtain ⟨k, hk⟩ := writeRes_of_dst_none hdst hlt none 2 (returnAddrs c tgt) s
  rw [returned, hk]; rfl

/-- A branch, a call or a return writes its return address, where it has a destination, and then goes. -/
theorem exec_of_target {i : Instr} {s : State} {c : Cx} {tgt : Cx → Nat → W64} (hg : gate s i = .go c)
    (ht : Values.target i = some tgt) :
    ∃ k, exec i s = .next (((returned c (tgt c) s).withCtr k).goTo c (tgt c)) := by
  have hshape : shape i = some c.p := (gate_go hg).2.1
  have hbranch : ∀ h srcs, shape i = some (.no h srcs) → exec i s = .next (s.goTo c (tgt c)) →
      ∃ k, exec i s = .next (((returned c (tgt c) s).withCtr k).goTo c (tgt c)) := by
    intro h srcs hno he
    have hp : c.p = .no h srcs := Option.some.inj (hshape.symm.trans hno)
    have hs := eq_returned_of_dst_none (c := c) (by rw [hp]; rfl) (by rw [hp]; rfl) (tgt c) s
    exact ⟨s.ctr, hs ▸ he⟩
  cases i
  case bra h off => cases ht; exact hbranch h _ rfl (exec_bra hg)
  case brx h off a => cases ht; exact hbranch h _ rfl (exec_brx hg)
  case ret h a => cases ht; exact hbranch h _ rfl (exec_ret hg)
  case call h d off => cases ht; exact ⟨_, exec_call hg⟩
  case callInd h d off a => cases ht; exact ⟨_, exec_callInd hg⟩
  all_goals cases ht

theorem Goes.returned_issuesFrom {i : Instr} {s : State} {c : Cx} (h : Goes i s c) (tgt : Nat → W64) (k : Nat) :
    IssuesFrom ((returned c tgt s).withCtr k) c := by
  obtain ⟨hwarp, hlanes, hgroup, hcore, hblock⟩ := h.issuesFrom
  obtain ⟨hran, hgroups⟩ := writeRes_ran c none 2 (returnAddrs c tgt) hwarp
  refine ⟨hwarp.trans_eq (s.only_writeRes c none 2 _).len.symm, (writeRes_thr_length c none 2 _ hwarp).trans hlanes, ?_,
    hcore.trans ?_, hblock.trans ?_⟩
  · rw [← hgroup, Warp.group?, Warp.group?]
    exact congrArg _ hgroups
  · exact (congrArg Warp.core hran).symm
  · exact (congrArg Warp.block hran).symm

/-- Were a branch to go on like another instruction, it would leave the return address in the lanes that do not trap, and
nothing else. -/
theorem returned_done_results {s : State} {c : Cx} (hs : Sees s c) (tgt : Nat → W64) :
    Results { c with act := evenLanes c tgt } none 2 (fun _ => ⟨c.iss.f.next.toNat, 0⟩) s ((returned c tgt s).done c) := by
  have h := write_results (c := { c with act := evenLanes c tgt }) ⟨hs.warp, hs.lanes, hs.regs⟩ none 2
    (fun _ => c.iss.f.next.toNat)
  rwa [writeRes_act act_ne_zero_of_evenLanes] at h

theorem returned_frame {s : State} {c : Cx} (hs : Sees s c) (tgt : Nat → W64) : Frame c s (returned c tgt s) := by
  have honly := s.only_writeRes c none 2 (returnAddrs c tgt)
  exact (Frame.of_act (returned_done_results hs tgt).frame).of_done honly (writeRes_ran c none 2 _ hs.warp).1
    (hs.warp.trans_eq honly.len.symm)

/-- Settles O34: a branch is a write of the return address, where there is a destination, and then a departure; with no odd
target the write stands as in an instruction that goes on, and otherwise the trap of the odd lanes leaves it alone. -/
theorem branchesGo : Obligations.BranchesGo := by
  unfold Obligations.BranchesGo
  intro i s c tgt hgo ht he _
  obtain ⟨k, hexec⟩ := exec_of_target hgo.gate ht
  have hfrom := hgo.returned_issuesFrom (tgt c) k
  have hres := returned_done_results hgo.sees (tgt c)
  simp only [← hasLane_oddLanes]
  constructor
  · intro heven
    have h0 : oddLanes c (tgt c) = 0 :=
      BitVec.eq_of_getLsbD_eq fun l hl => (heven l hl).trans (hasLane_zero l).symm
    rw [evenLanes_of_even h0] at hres
    exact ⟨_, hexec, goTo_of_even_results h0 hres he hfrom.warp k,
      fun l hl => standsAt_goTo hfrom hl (heven l (hasLane_lt hl))⟩
  · rintro ⟨l, -, hl⟩
    have hne : oddLanes c (tgt c) ≠ 0 := fun h0 => by rw [h0, hasLane_zero] at hl; cases hl
    have htrap := goTo_of_odd_trapped hne hfrom
    refine ⟨_, _, hexec, (returned_frame hgo.sees (tgt c)).withCtr k, htrap, fun l hl hbad =>
      ⟨standsAt_goTo hfrom hl hbad, fun hact hd => ?_⟩⟩
    have hdest := hres.dest hd l (by rw [hasLane_evenLanes, hact, hbad]; rfl)
    exact Holds.of_done hdest hd (hasLane_lt hact) hfrom.warp htrap.regs

end Sys2Proof.Machine
end

section
/-! Taking precise traps of several kinds at one instruction (R438, R439, R472): the claim does not ask that the subgroup
still stands in the warp, so its lemmas ask for none. -/

namespace Sys2Proof.Machine

/-! ### The list of the lanes that trap -/

theorem Traps.mem_of_kind {ts : Traps} {l : Nat} {k : Kind} (h : ts.kind l = some k) : (l, k) ∈ ts := by
  obtain ⟨x, hx, rfl⟩ := Option.map_eq_some_iff.1 h
  obtain rfl : x.1 = l := by simpa using List.find?_some hx
  exact List.mem_of_find?_eq_some hx

theorem Traps.kind_ne_none_of_mem {ts : Traps} {l : Nat} {k : Kind} (h : (l, k) ∈ ts) : ts.kind l ≠ none := by
  rw [← Option.isSome_iff_ne_none, kind_isSome, List.any_eq_true]
  exact ⟨(l, k), h, beq_self_eq_true l⟩

/-- The list of the lanes that an assignment of kinds makes trap. -/
def trapsOf (ks : Nat → Option Kind) : Traps := (List.range 32).filterMap (fun l => (ks l).map (fun k => (l, k)))

theorem mem_trapsOf {ks : Nat → Option Kind} {l : Nat} {k : Kind} : (l, k) ∈ trapsOf ks ↔ l < 32 ∧ ks l = some k := by
  simp [trapsOf]

theorem kind_trapsOf (ks : Nat → Option Kind) {l : Nat} (hl : l < 32) : (trapsOf ks).kind l = ks l := by
  cases h : (trapsOf ks).kind l with
  | some k => exact (mem_trapsOf.1 (Traps.mem_of_kind h)).2.symm
  | none =>
    cases hk : ks l with
    | some k => exact absurd h (Traps.kind_ne_none_of_mem (mem_trapsOf.2 ⟨hl, hk⟩))
    | none => rfl

theorem trapsOf_ne_nil {ks : Nat → Option Kind} {l : Nat} (hl : l < 32) (hk : ks l ≠ none) : trapsOf ks ≠ [] := by
  obtain ⟨k, hk⟩ := Option.ne_none_iff_exists'.1 hk
  exact List.ne_nil_of_mem (mem_trapsOf.2 ⟨hl, hk⟩)

/-- Two assignments of kinds that agree on the lanes take the same lanes. -/
theorem takes_congr {ks js : Nat → Option Kind} (h : ∀ l, l < 32 → ks l = js l) : takes ks = takes js := by
  refine BitVec.eq_of_getLsbD_eq fun l hl => ?_
  change hasLane (takes ks) l = hasLane (takes js) l
  rw [takes, takes, hasLane_maskOf, hasLane_maskOf, h l hl]

theorem Trapped.congr {c : Cx} {code : BitVec 16} {ks js : Nat → Option Kind} {s t : State} (h : Trapped c code ks s t)
    (hk : ∀ l, l < 32 → ks l = js l) : Trapped c code js s t := by
  have ht := takes_congr hk
  have back : ∀ l k, l < 32 → js l = some k → ks l = some k := fun l k hl hj => (hk l hl).trans hj
  exact {
    rest := h.rest
    others := h.others
    warp := ht ▸ h.warp
    cores := h.cores
    parks := fun l k hl hj => h.parks l k hl (back l k hl hj)
    records := fun l k hl hj => ht ▸ h.records l k hl (back l k hl hj)
    latches := fun l k hl hj => h.latches l k hl (back l k hl hj)
    leaves := ht ▸ h.leaves
    vectors := ht ▸ h.vectors
    ends := ht ▸ h.ends }

/-! ### What becomes of the lanes and of the block -/

section
variable {s : State} {wid : Nat} {ts : Traps}

/-- A lane that traps parks with the record of its own kind. -/
theorem takeTrap_parks (hw : wid < s.warps.length) (hlen : (s.warp wid).thr.length = 32) (hts : ts ≠ []) (p : Pos)
    (f : Fetched) (code : BitVec 16) :
    ∃ rid, ∀ l k, l < 32 → ts.kind l = some k → ((takeTrap s wid p f code ts).warp wid).thread l =
      parkThread p rid ⟨k, f.pc, code, f.word, trapMask ts⟩ ((s.warp wid).thread l) := by
  obtain ⟨rid, hthread⟩ := (s.warp wid).trapped_thread p f code ts
  refine ⟨rid, fun l k hl hk => ?_⟩
  have hm : hasLane (trapMask ts) l = true := by
    rw [trapMask, hasLane_maskOf, ← Traps.kind_isSome, hk, decide_eq_true hl]; rfl
  rw [takeTrap_warp s wid p f code hts hw, hthread l (hl.trans_eq hlen.symm), if_pos hm, hk]; rfl

theorem takeTrap_free (hw : wid < s.warps.length) (hts : ts ≠ []) (p : Pos) (f : Fetched) (code : BitVec 16) :
    ((takeTrap s wid p f code ts).warp wid).Free (trapMask ts) := by
  rw [takeTrap_warp s wid p f code hts hw, Warp.Free, Warp.trapped_groups]
  exact Warp.free_leaveAll _ _

/-- A trap that a handler can take ends no block. -/
theorem takeTrap_blocks (hts : ts ≠ []) (h : ¬ Unrecoverable s (s.warp wid) (trapMask ts)) (p : Pos) (f : Fetched)
    (code : BitVec 16) : (takeTrap s wid p f code ts).blocks = s.blocks := by
  obtain ⟨hu, -⟩ | ⟨-, e⟩ := takeTrap_cases s wid p f code hts
  · exact absurd hu h
  · rw [e, State.count_rest]; rfl

/-- An unrecoverable trap marks the block of its warp (R472). -/
theorem takeTrap_kill (hts : ts ≠ []) (h : Unrecoverable s (s.warp wid) (trapMask ts))
    (hb : (s.warp wid).block < s.blocks.length) (p : Pos) (f : Fetched) (code : BitVec 16) :
    ((takeTrap s wid p f code ts).block (s.warp wid).block).kill ≠ none := by
  obtain ⟨-, k, e⟩ | ⟨hu, -⟩ := takeTrap_cases s wid p f code hts
  · rw [e]
    refine killBlock_kill _ _ _ ?_
    rwa [State.count_rest]
  · exact absurd h hu

/-- Taking precise traps leaves what the claims say of it: takeTrap_trapped, without its premise that the subgroup still
stands in the warp, on which nothing here rests. -/
theorem takeTrap_kinds_trapped {c : Cx} (hw : c.iss.warp < s.warps.length) (hlen : (s.warp c.iss.warp).thr.length = 32)
    (hcore : c.w.core = (s.warp c.iss.warp).core) (hblock : c.w.block = (s.warp c.iss.warp).block) (hts : ts ≠ [])
    (code : BitVec 16) : Trapped c code ts.kind s (takeTrap s c.iss.warp c.g.pos c.iss.f code ts) := by
  obtain ⟨rid, hparked⟩ := takeTrap_parks hw hlen hts c.g.pos c.iss.f code
  have hrest := takeTrap_rest s c.iss.warp c.g.pos c.iss.f code hts
  constructor
  case rest => rw [hrest]; rfl
  case others =>
    intro j hj
    rw [hrest]
    exact (s.only_modWarp c.iss.warp _).others j hj
  case warp =>
    rw [takeTrap_warp s _ _ _ _ hts hw, takes_kind]
    exact Warp.trapped_rest ..
  case cores => rw [hrest, hcore]
  case parks => exact fun l k hl hk => ⟨rid, by rw [State.lane, hparked l k hl hk]; rfl⟩
  case records =>
    intro l k hl hk (hd : ((s.warp c.iss.warp).thread l).depth = false)
    rw [State.lane, hparked l k hl hk, takes_kind, parkThread, hd]; rfl
  case latches => exact fun l k hl hk => by rw [State.lane, hparked l k hl hk]; rfl
  case leaves => exact takes_kind ts ▸ takeTrap_free hw hts c.g.pos c.iss.f code
  case vectors =>
    rw [takes_kind, hblock]
    exact fun hen hdeep => takeTrap_blocks hts (fun hu => hu ⟨hen, hdeep⟩) c.g.pos c.iss.f code
  case ends =>
    rw [takes_kind, hblock]
    exact fun hb hu => takeTrap_kill hts hu hb c.g.pos c.iss.f code

end

/-- Settles O14: the claim's list gives each lane its kind and is not empty, so that taking it leaves what taking a list
of traps leaves. -/
theorem takingATrap : Obligations.TakingATrap := by
  unfold Obligations.TakingATrap
  rintro s c code ks hw hlen hcore hblock ⟨l, hl, hk⟩
  exact (takeTrap_kinds_trapped hw hlen hcore hblock (trapsOf_ne_nil hl hk) code).congr fun l hl => kind_trapsOf ks hl

end Sys2Proof.Machine
end
